-- ==== Sys2Proof/Word.lean ====
section
/-! DEFINITION. The word types of the machine: a byte, a 32-bit lane value, a 64-bit word and one bit per lane of a team (R5, R26, R90). -/

namespace Sys2Proof

abbrev Byte := BitVec 8
/-- The 32 value bits of one vector lane (R26). -/
abbrev Lane := BitVec 32
/-- A 64-bit scalar, an address or an instruction word (R26, R45). -/
abbrev Word := BitVec 64
/-- One bit for each of the at most 1,024 lanes of a team: mask words 0 to 31 side by side, bit b of word r being bit 32r + b (R90). -/
abbrev LaneSet := BitVec 1024

end Sys2Proof
end

