-- ==== Sys2Proof/Syntax.lean ====
section
/-! DEFINITION. The instructions: one constructor of `Instr` for every row of spec/opcode_table.json, the words of a program (R61, R86) and the events of the device and of the outside world. -/

namespace Sys2Proof

/-! ### Modifiers and operands of instruction words -/

/-- The integer type codes of R96. -/
inductive IntTy where
  | i32 | n32 | b32 | i64 | n64 | b64
  deriving DecidableEq, Repr

/-- The floating types of R115. -/
inductive FloatTy where
  | f32 | f16 | bf16
  deriving DecidableEq, Repr

/-- The format codes of R29. -/
inductive Fmt where
  | i8 | i16 | i32 | i64 | n8 | n16 | n32 | n64 | b32 | b64 | f32 | f16 | bf16 | e4m3 | e5m2 | e2m1
  | mxe4m3 | mxe5m2 | mxe2m1 | q4 | t2 | fa48 | ia48
  deriving DecidableEq, Repr

/-- The rounding codes of R32. -/
inductive Rm where
  | rn | rz | rd | ru
  deriving DecidableEq, Repr

/-- The address spaces of R133. -/
inductive Space where
  | g | k | q | d
  deriving DecidableEq, Repr

/-- The scopes of R24. -/
inductive Scope where
  | team | core | quad | die | pkg | pod
  deriving DecidableEq, Repr

/-- The memory orders of R59. -/
inductive MemOrder where
  | plain | acq | rel | acqrel
  deriving DecidableEq, Repr

/-- The element widths of R59. -/
inductive Width where
  | w8 | w16 | w32 | w64 | w128
  deriving DecidableEq, Repr

/-- The conditions of R101. -/
inductive Cond where
  | eq | ne | lt | le | gt | ge
  deriving DecidableEq, Repr

/-- The conditions of R121: a relation or the NaN test, ordered or unordered. -/
inductive FCond where
  | rel (c : Cond) (unordered : Bool)
  | num
  | nan
  deriving DecidableEq, Repr

/-- The combining operations of R108. -/
inductive RedOp where
  | add | min | max | and | or | xor
  deriving DecidableEq, Repr

/-- The atomic operations of R165. -/
inductive AtomOp where
  | add | min | max | and | or | xor | xchg | cas | addF32
  deriving DecidableEq, Repr

/-- The placements of R165. -/
inductive Placement where
  | auto | near | home
  deriving DecidableEq, Repr

/-- A lane guard (R56): a predicate p0 to p7, negated or not. -/
structure LaneGuard where
  neg : Bool
  p : Fin 8
  deriving DecidableEq, Repr

/-- A team guard (R56): always, or a scalar predicate q0 to q3, negated or not. -/
structure TeamGuard where
  neg : Bool
  q : Option (Fin 4)
  deriving DecidableEq, Repr

/-- A source that is a vector register, a scalar broadcast or a 32-bit immediate (R58). -/
inductive VSrc where
  | reg (v : Fin 256)
  | bcast (s : Fin 64)
  | imm (x : Lane)
  deriving DecidableEq, Repr

/-- A source that is a scalar register or a 32-bit immediate (R58). -/
inductive SSrc where
  | reg (s : Fin 64)
  | imm (x : Lane)
  deriving DecidableEq, Repr

/-- The second source of SCMP: a scalar register or imm16 (R101). -/
inductive SSrc16 where
  | reg (s : Fin 64)
  | imm (x : BitVec 16)
  deriving DecidableEq, Repr

/-- The second source of VCMP and VSEL: a vector register, a scalar broadcast or imm16 (R101, R103). -/
inductive VSrc16 where
  | reg (v : Fin 256)
  | bcast (s : Fin 64)
  | imm (x : BitVec 16)
  deriving DecidableEq, Repr

/-- A predicate operand: a vector predicate or a scalar predicate (R55). -/
inductive PredReg where
  | p (i : Fin 8)
  | q (i : Fin 4)
  deriving DecidableEq, Repr

/-- A destination of FIX and GDROP (R168). -/
inductive TintReg where
  | v (i : Fin 256)
  | s (i : Fin 64)
  | pred (r : PredReg)
  deriving DecidableEq, Repr

/-! ### Operand records, one per shape of instruction word -/

structure BranchOps where
  g : TeamGuard
  off : Lane
  deriving DecidableEq, Repr
structure BrqOps where
  g : TeamGuard
  sense : Bool
  q : Fin 4
  off : Lane
  deriving DecidableEq, Repr
structure BrdOps where
  g : LaneGuard
  sense : Bool
  p : Fin 8
  off : Lane
  deriving DecidableEq, Repr
/-- LOOP and CALL: a scalar and an offset (R112). -/
structure SBranchOps where
  g : TeamGuard
  s : Fin 64
  off : Lane
  deriving DecidableEq, Repr
structure RetOps where
  g : TeamGuard
  s : Fin 64
  deriving DecidableEq, Repr
/-- BKPT, TRAP and TRAP.kill: a code (R114, R280). -/
structure CodeOps where
  g : TeamGuard
  code : BitVec 16
  deriving DecidableEq, Repr
structure SUnOps where
  g : TeamGuard
  ty : IntTy
  d : Fin 64
  a : Fin 64
  deriving DecidableEq, Repr
structure SImmOps where
  g : TeamGuard
  ty : IntTy
  d : Fin 64
  imm : Lane
  deriving DecidableEq, Repr
structure SBinOps where
  g : TeamGuard
  ty : IntTy
  d : Fin 64
  a : Fin 64
  b : SSrc
  deriving DecidableEq, Repr
structure SCmpOps where
  g : TeamGuard
  ty : IntTy
  c : Cond
  d : Fin 4
  a : Fin 64
  b : SSrc16
  deriving DecidableEq, Repr
structure SSelOps where
  g : TeamGuard
  ty : IntTy
  d : Fin 64
  a : Fin 64
  b : Fin 64
  c : Fin 4
  deriving DecidableEq, Repr
structure VUnOps where
  g : LaneGuard
  ty : IntTy
  d : Fin 256
  a : Fin 256
  deriving DecidableEq, Repr
structure VImmOps where
  g : LaneGuard
  ty : IntTy
  d : Fin 256
  imm : Lane
  deriving DecidableEq, Repr
structure VBcstOps where
  g : LaneGuard
  ty : IntTy
  d : Fin 256
  a : Fin 64
  deriving DecidableEq, Repr
structure VBinOps where
  g : LaneGuard
  ty : IntTy
  d : Fin 256
  a : Fin 256
  b : VSrc
  deriving DecidableEq, Repr
structure VTriOps where
  g : LaneGuard
  ty : IntTy
  d : Fin 256
  a : Fin 256
  b : VSrc
  c : VSrc
  deriving DecidableEq, Repr
/-- The field of VBFE and VBFI: two lane sources, or immediate position and length (R104). -/
inductive FieldSrc where
  | src (b c : VSrc)
  | imm (pos : Fin 32) (len : Fin 33)
  deriving DecidableEq, Repr
structure VBfOps where
  g : LaneGuard
  ty : IntTy
  d : Fin 256
  a : Fin 256
  f : FieldSrc
  deriving DecidableEq, Repr
structure VSelOps where
  g : LaneGuard
  ty : IntTy
  d : Fin 256
  a : Fin 256
  b : VSrc16
  c : Fin 8
  deriving DecidableEq, Repr
structure VCmpOps where
  g : LaneGuard
  ty : IntTy
  c : Cond
  d : Fin 8
  a : Fin 256
  b : VSrc16
  deriving DecidableEq, Repr
structure VLeaOps where
  g : LaneGuard
  d : Fin 256
  a : Fin 64
  b : VSrc
  k : Fin 32
  deriving DecidableEq, Repr
/-- The forms of VSHF (R107). -/
inductive ShfForm where
  | idx (b : VSrc)
  | up (n : Fin 32)
  | dn (n : Fin 32)
  | bfly (n : Fin 32)
  deriving DecidableEq, Repr
structure VShfOps where
  g : LaneGuard
  ty : IntTy
  d : Fin 256
  a : Fin 256
  f : ShfForm
  deriving DecidableEq, Repr
structure VRedOps where
  g : LaneGuard
  ty : IntTy
  op : RedOp
  excl : Bool
  d : Fin 256
  a : Fin 256
  deriving DecidableEq, Repr
structure VBalOps where
  g : LaneGuard
  d : Fin 256
  p : Fin 8
  deriving DecidableEq, Repr
/-- PAND, POR, PXOR (R110). -/
structure PBinOps where
  g : LaneGuard
  d : PredReg
  a : PredReg
  b : PredReg
  deriving DecidableEq, Repr
/-- PNOT, PMOV (R110). -/
structure PUnOps where
  g : LaneGuard
  d : PredReg
  a : PredReg
  deriving DecidableEq, Repr
/-- PANY, PALL (R111). -/
structure PAnyOps where
  g : LaneGuard
  d : Fin 4
  a : Fin 8
  deriving DecidableEq, Repr

structure FBinOps where
  g : LaneGuard
  ty : FloatTy
  rm : Rm
  d : Fin 256
  a : Fin 256
  b : VSrc
  deriving DecidableEq, Repr
structure FTriOps where
  g : LaneGuard
  ty : FloatTy
  rm : Rm
  d : Fin 256
  a : Fin 256
  b : VSrc
  c : VSrc
  deriving DecidableEq, Repr
/-- FABS, FNEG, FCLASS and the special functions; FRND, which rounds, with its mode (R117). -/
structure FUnOps where
  g : LaneGuard
  ty : FloatTy
  rm : Rm
  d : Fin 256
  a : Fin 256
  deriving DecidableEq, Repr
structure FCmpOps where
  g : LaneGuard
  ty : FloatTy
  c : FCond
  d : Fin 8
  a : Fin 256
  b : VSrc
  deriving DecidableEq, Repr
/-- CVT, PACK, UNPK, QUANT, DEQ (R128). -/
structure CvtOps where
  g : LaneGuard
  dt : Fmt
  st : Fmt
  rm : Rm
  sat : Bool
  d : Fin 256
  a : Fin 256
  deriving DecidableEq, Repr

/-- An address operand of a memory-format word (R79, R134). -/
inductive AddrOp where
  | base (b : Fin 64)
  | index (b : Fin 64) (i : Fin 256) (scale : Fin 4)
  deriving DecidableEq, Repr

/-- LD and GATH (R161). -/
structure LoadOps where
  g : LaneGuard
  sp : Space
  w : Width
  signed : Bool
  limit : Fin 16
  acq : Bool
  scope : Scope
  d : Fin 256
  addr : AddrOp
  deriving DecidableEq, Repr
/-- ST and SCAT (R161). -/
structure StoreOps where
  g : LaneGuard
  sp : Space
  w : Width
  signed : Bool
  rel : Bool
  scope : Scope
  addr : AddrOp
  c : Fin 256
  deriving DecidableEq, Repr
/-- ATOM; RED leaves its destination 0 (R165). -/
structure AtomOps where
  g : LaneGuard
  sp : Space
  w : Width
  signed : Bool
  op : AtomOp
  ord : MemOrder
  scope : Scope
  place : Placement
  d : Fin 256
  addr : AddrOp
  c : Fin 256
  deriving DecidableEq, Repr
structure TintOps where
  g : LaneGuard
  d : TintReg
  deriving DecidableEq, Repr
/-- GTEST (R168): the destination predicate and the register tested. -/
structure GtestOps where
  g : LaneGuard
  d : PredReg
  a : TintReg
  deriving DecidableEq, Repr
structure GdemShortOps where
  g : LaneGuard
  d : Fin 256
  deriving DecidableEq, Repr
structure GdemAddrOps where
  g : LaneGuard
  sp : Space
  w : Width
  signed : Bool
  d : Fin 256
  addr : AddrOp
  deriving DecidableEq, Repr
/-- TMOV (R170); the barrier is absent or its scratchpad space. -/
structure TmovOps where
  g : TeamGuard
  dsp : Space
  ssp : Space
  bar : Option Space
  limit : Fin 16
  d : Fin 64
  a : Fin 64
  b : Fin 64
  c : Fin 64
  deriving DecidableEq, Repr
structure PrefOps where
  g : LaneGuard
  sp : Space
  w : Width
  signed : Bool
  limit : Fin 16
  addr : AddrOp
  deriving DecidableEq, Repr

/-- The shapes .k64, .k128 and .k256 (R190). -/
inductive Shape where
  | k64 | k128 | k256
  deriving DecidableEq, Repr
structure MzeroOps where
  g : TeamGuard
  ia : Bool
  d : Fin 8
  deriving DecidableEq, Repr
/-- The A operand of MMA and MMAG: a register fragment, or a handle in sA with the window origin in sC (R188, R189). -/
inductive MmaA where
  | frag (v : Fin 256)
  | handle (a : Fin 64) (c : Fin 64)
  deriving DecidableEq, Repr
structure MmaOps where
  g : TeamGuard
  fa : Fmt
  fb : Fmt
  shape : Shape
  d : Fin 8
  a : MmaA
  b : Fin 64
  deriving DecidableEq, Repr
structure MtrnOps where
  g : TeamGuard
  shape : Shape
  d : Fin 8
  a : Fin 256
  b : Fin 64
  deriving DecidableEq, Repr
structure MtrnDltOps where
  g : TeamGuard
  shape : Shape
  th : Byte
  d : Fin 8
  a : Fin 256
  b : Fin 64
  c : Fin 64
  deriving DecidableEq, Repr
structure MldwOps where
  g : TeamGuard
  a : Fin 64
  b : Fin 64
  deriving DecidableEq, Repr
structure MldwRegionOps where
  g : TeamGuard
  a : Fin 64
  b : Fin 64
  c : Fin 64
  deriving DecidableEq, Repr
structure MrdaOps where
  g : TeamGuard
  noscale : Bool
  sat : Bool
  rm : Rm
  fmt : Fmt
  span : Byte
  d : Fin 256
  a : Fin 8
  b : Fin 64
  deriving DecidableEq, Repr
structure MrdaStatusOps where
  g : TeamGuard
  d : Fin 256
  b : Fin 64
  deriving DecidableEq, Repr
structure MwraOps where
  g : TeamGuard
  fmt : Fmt
  span : Byte
  d : Fin 8
  a : Fin 256
  b : Fin 64
  deriving DecidableEq, Repr
structure MgangOps where
  g : TeamGuard
  mask : BitVec 16
  deriving DecidableEq, Repr

/-- Where a barrier object lies: the space, and its scope when it lies in .g (R221). -/
structure ObjSpace where
  sp : Space
  scope : Scope
  deriving DecidableEq, Repr
/-- The arrivals of BINIT: a scalar, or an immediate of 1 to 2,047 (R221). -/
inductive BinitN where
  | reg (s : Fin 64)
  | imm (n : BitVec 11)
  deriving DecidableEq, Repr
structure BinitOps where
  g : TeamGuard
  o : ObjSpace
  a : Fin 64
  n : BinitN
  deriving DecidableEq, Repr
structure BinvOps where
  g : TeamGuard
  o : ObjSpace
  a : Fin 64
  deriving DecidableEq, Repr
structure BarvOps where
  g : TeamGuard
  o : ObjSpace
  d : Fin 64
  a : Fin 64
  deriving DecidableEq, Repr
structure BexpOps where
  g : TeamGuard
  o : ObjSpace
  out : Bool
  a : Fin 64
  b : Fin 64
  deriving DecidableEq, Repr
structure BwaitOps where
  g : TeamGuard
  o : ObjSpace
  d : Option (Fin 4)
  a : Fin 64
  b : Fin 64
  deriving DecidableEq, Repr
structure BtestOps where
  g : TeamGuard
  o : ObjSpace
  d : Fin 4
  a : Fin 64
  b : Fin 64
  deriving DecidableEq, Repr
/-- The binding kinds of R212. -/
inductive BindKind where
  | tl | chunk | watch
  deriving DecidableEq, Repr
structure BbindOps where
  g : TeamGuard
  o : ObjSpace
  kind : BindKind
  a : Fin 64
  b : Fin 64
  c : Fin 64
  deriving DecidableEq, Repr
structure CpyOps where
  g : TeamGuard
  dsp : Space
  ssp : Space
  bar : Option Space
  out : Bool
  chan : Fin 16
  d : Fin 64
  a : Fin 64
  b : Fin 64
  c : Fin 64
  deriving DecidableEq, Repr
/-- CPYT (R229): srcb is the barrier and srcc the map. -/
structure CpytOps where
  g : TeamGuard
  sp : Space
  map : Bool
  bar : Option Space
  out : Bool
  d : Fin 64
  a : Fin 64
  b : Fin 64
  c : Fin 64
  deriving DecidableEq, Repr
structure ChtestOps where
  g : TeamGuard
  d : Fin 4
  a : Fin 64
  b : Fin 64
  deriving DecidableEq, Repr
structure ChwpOps where
  g : TeamGuard
  chan : Fin 16
  d : Fin 64
  a : Fin 64
  deriving DecidableEq, Repr
structure TlsigOps where
  g : TeamGuard
  rel : Bool
  scope : Scope
  a : Fin 64
  b : Fin 64
  deriving DecidableEq, Repr
structure TlrdOps where
  g : TeamGuard
  acq : Bool
  scope : Scope
  d : Fin 64
  a : Fin 64
  deriving DecidableEq, Repr
/-- FENCE (R232): at least one of acquire and release. -/
structure FenceOps where
  g : TeamGuard
  acq : Bool
  rel : Bool
  scope : Scope
  deriving DecidableEq, Repr

/-- CREG and CDREG (R345). -/
structure CregOps where
  g : TeamGuard
  d : Fin 4
  a : Fin 64
  deriving DecidableEq, Repr
structure CombOps where
  g : LaneGuard
  status : Fin 8
  d : Fin 256
  addr : AddrOp
  c : Fin 256
  deriving DecidableEq, Repr
structure CrepOps where
  g : TeamGuard
  a : Fin 256
  deriving DecidableEq, Repr

/-- The path of an XSEND (R366). -/
inductive SendPath where
  | auto
  | direct
  | via (r : Fin 16)
  deriving DecidableEq, Repr
structure XsendOps where
  g : TeamGuard
  rel : Bool
  path : SendPath
  rlx : Bool
  bar : Bool
  d : Fin 64
  a : Fin 64
  b : Fin 64
  c : Fin 64
  deriving DecidableEq, Repr
structure XfetchOps where
  g : LaneGuard
  w : Width
  signed : Bool
  limit : Fin 16
  acq : Bool
  rlx : Bool
  d : Fin 256
  addr : AddrOp
  deriving DecidableEq, Repr
structure XatomOps where
  g : LaneGuard
  w : Width
  signed : Bool
  op : AtomOp
  ord : MemOrder
  rlx : Bool
  d : Fin 256
  addr : AddrOp
  c : Fin 256
  deriving DecidableEq, Repr
inductive SigOp where
  | st | max | add | cnt
  deriving DecidableEq, Repr
structure XsigOps where
  g : TeamGuard
  op : SigOp
  rel : Bool
  rlx : Bool
  ordf : Bool
  a : Fin 64
  b : Fin 64
  deriving DecidableEq, Repr

/-- A destination of SRD (R279). -/
inductive SrdDst where
  | s (i : Fin 64)
  | v (i : Fin 256)
  deriving DecidableEq, Repr
structure SrdOps where
  g : TeamGuard
  d : SrdDst
  n : Byte
  deriving DecidableEq, Repr
structure SwrOps where
  g : TeamGuard
  n : Byte
  a : Fin 64
  deriving DecidableEq, Repr
structure IprefOps where
  g : TeamGuard
  a : Fin 64
  b : Fin 64
  deriving DecidableEq, Repr
/-- IPIN and IUNPIN (R279). -/
structure IpinOps where
  g : TeamGuard
  d : Fin 4
  a : Fin 64
  b : Fin 64
  deriving DecidableEq, Repr
structure LaunchOps where
  g : TeamGuard
  a : Fin 64
  deriving DecidableEq, Repr
/-- ENQ and RSH: two scalars (R294, R383). -/
structure TwoOps where
  g : TeamGuard
  a : Fin 64
  b : Fin 64
  deriving DecidableEq, Repr

/-! ### What events carry -/

/-- A team: the key of its group and its index; key 0 stands for the method teams, the index then being the MSU. -/
structure TeamId where
  gid : Nat
  idx : Nat
  deriving DecidableEq, Repr

/-- What comes back for one lane of a remote access (R357, R360). -/
inductive Reply where
  | value (x : BitVec 128)
  | poisoned
  | denied
  deriving DecidableEq, Repr

/-- A barrier operation that travels as a signal packet to the home of its object, an arming of a comparison for an object elsewhere, and the notice of one that fired (R213, R365). -/
inductive BarrierMsg where
  | init (n : Nat)
  | inv
  | arrive
  | expect (out : Bool) (n : Nat)
  | count (n : Nat)
  /-- A binding: the word compared and its value where it lies at the object's package. -/
  | bind (kind : BindKind) (here : Option (Nat × Nat))
  | wait (phase : Nat)
  | test (phase : Nat)
  /-- The packet's address is the word to compare; `obj` is the object at the source. -/
  | arm (kind : BindKind) (obj : Nat) (x : Nat)
  | fired
  /-- The object at the source that an arming here served is complete, invalidated or failed: the entry here is free (R213). -/
  | freed (obj : Nat)
  deriving DecidableEq, Repr

/-- What the home of an object answers to a team of this package (R223-R227, R265, R365). -/
inductive BarrierAnswer where
  | done
  | gen (g : Nat)
  | test (b : Bool)
  /-- The waiter is recorded. -/
  | block
  /-- A wait ends: with success, or with the failure code. -/
  | wake (fail : Option Nat)
  | fault (cause : Nat)
  deriving DecidableEq, Repr

/-- What a fabric packet asks of its target; addresses are physical addresses of the target (R357, R360). -/
inductive PacketBody where
  | read (addr : Nat) (bytes : Nat)
  | atom (addr : Nat) (w : Width) (op : AtomOp) (signed : Bool) (x cmp : Word)
  | posted (addr : Nat) (data : List Byte)
  | postedAtom (addr : Nat) (w : Width) (op : AtomOp) (signed : Bool) (x : Word)
  /-- Poisoned source bytes land poisoned (R367). -/
  | bulk (addr : Nat) (data : List Byte) (bad : Bool) (obj : Option Nat)
  /-- From a team of the source, which `team` names there. -/
  | signal (team : TeamId) (op : SigOp) (addr : Nat) (x : Word) (carried : Option (List Nat))
  /-- From a team of the source, which `team` names there. -/
  | barrier (addr : Nat) (team : TeamId) (m : BarrierMsg)
  /-- To a team of this package. -/
  | answer (team : TeamId) (a : BarrierAnswer)
  deriving DecidableEq, Repr

/-- A fabric packet: its header and its body (R357), and the ranges of its path, one for each packet, that hold the earlier posted bytes of its team: what the order of the flits on a path tells its target (R255, R356; DEDUCED, log 105). -/
structure Packet where
  src : Nat
  srcInc : Nat
  tgt : Nat
  tgtInc : Nat
  ctx : Nat
  path : Nat
  offset : Nat
  relaxed : Bool
  droppable : Bool
  after : List (Nat × Nat)
  body : PacketBody
  deriving DecidableEq, Repr

/-- The unit that reported an error (R392). -/
inductive ErrUnit where
  | core (n : Nat) | quad (n : Nat) | msu (n : Nat) | port (n : Nat) | channel (n : Nat)
  | bank (n : Nat) | quadScratch (n : Nat) | quadL1 (n : Nat) | microTlb (n : Nat) | quadTlb (n : Nat) | dieTlb (n : Nat)
  deriving DecidableEq, Repr

/-- The sources of a park request (R266). -/
inductive ParkSource where
  | placer | slice | debugger
  deriving DecidableEq, Repr

/-- What stops a running plan from outside a run (R381). -/
inductive PlanEvent where
  | peerLost | recordChanged
  deriving DecidableEq, Repr

/-- An AtomicOp of the host endpoint (R372). -/
inductive HostAtom where
  | fetchAdd | swap | cas
  deriving DecidableEq, Repr

/-- What ends the service of a link (R355). -/
inductive LinkFault where
  | crc | eye | laneLost (left : Nat)
  deriving DecidableEq, Repr

/-- An entry of the aperture table (R360). -/
structure Aperture where
  rank : Nat
  lo : Nat
  hi : Nat
  ctx : Nat
  write : Bool
  deriving DecidableEq, Repr

/-- The limits that the firmware may tighten: the temperatures of the migration trip and of the clock clamp in °C, and the module power in W (R389). -/
structure Limits where
  trip : Nat
  clamp : Nat
  watts : Nat
  deriving DecidableEq, Repr
/-- What the firmware asks for in the cycle of a clamp: a clock in MHz, and limits (R389; DESIGN CHOICE, log 94). -/
structure FwReq where
  clock : Option Nat
  limits : Option Limits
  deriving DecidableEq, Repr
def FwReq.none : FwReq := { clock := .none, limits := .none }
/-- What a sensor reads, in °C or in W, with what the firmware asks for in that cycle (R389). -/
structure Reading where
  value : Nat
  fw : FwReq
  deriving DecidableEq, Repr
/-- A row of a bank that is precharged, or refreshed (R329). -/
structure RowTurn where
  bank : Nat
  row : Nat
  refresh : Bool
  deriving DecidableEq, Repr
/-- The turn of an engine operation: it reads, or it writes what it has read (R218, R220). -/
structure EngTurn where
  key : Nat
  land : Bool
  deriving DecidableEq, Repr

/-- Where the device takes memory that the spec lets it choose (log 8): frames, save area and constant area. -/
structure Choice where
  frames : List Nat
  save : Nat
  const : Nat
  deriving DecidableEq, Repr

/-- The choice that leaves everything to the lowest free place. -/
def Choice.lowest : Choice := { frames := [], save := 0, const := 0 }

/-! ### The instructions -/

/-- One constructor for every row of spec/opcode_table.json, in the table's order. -/
inductive Instr where
  | nop (g : TeamGuard)
  | bra (o : BranchOps)
  | brq (o : BrqOps)
  | brd (o : BrdOps)
  | join (g : TeamGuard)
  | loop (o : SBranchOps)
  | call (o : SBranchOps)
  | ret (o : RetOps)
  | exit (g : TeamGuard)
  | bkpt (o : CodeOps)
  | slda (o : SBranchOps)
  | smov (o : SUnOps)
  | smovi (o : SImmOps)
  | sadd (o : SBinOps)
  | ssub (o : SBinOps)
  | smul (o : SBinOps)
  | smulh (o : SBinOps)
  | sand (o : SBinOps)
  | sor (o : SBinOps)
  | sxor (o : SBinOps)
  | sshl (o : SBinOps)
  | sshr (o : SBinOps)
  | ssar (o : SBinOps)
  | smin (o : SBinOps)
  | smax (o : SBinOps)
  | scmp (o : SCmpOps)
  | ssel (o : SSelOps)
  | vmov (o : VUnOps)
  | vmovi (o : VImmOps)
  | vbcst (o : VBcstOps)
  | vadd (o : VBinOps)
  | vsub (o : VBinOps)
  | vadds (o : VBinOps)
  | vsubs (o : VBinOps)
  | vmul (o : VBinOps)
  | vmulh (o : VBinOps)
  | vmad (o : VTriOps)
  | vabs (o : VUnOps)
  | vneg (o : VUnOps)
  | vmin (o : VBinOps)
  | vmax (o : VBinOps)
  | vand (o : VBinOps)
  | vor (o : VBinOps)
  | vxor (o : VBinOps)
  | vnot (o : VUnOps)
  | vshl (o : VBinOps)
  | vshr (o : VBinOps)
  | vsar (o : VBinOps)
  | vclz (o : VUnOps)
  | vpopc (o : VUnOps)
  | vbfe (o : VBfOps)
  | vbfi (o : VBfOps)
  | vperm (o : VTriOps)
  | vsel (o : VSelOps)
  | vcmp (o : VCmpOps)
  | vlea (o : VLeaOps)
  | vshf (o : VShfOps)
  | vred (o : VRedOps)
  | vscan (o : VRedOps)
  | vbal (o : VBalOps)
  | pand (o : PBinOps)
  | por (o : PBinOps)
  | pxor (o : PBinOps)
  | pnot (o : PUnOps)
  | pmov (o : PUnOps)
  | pany (o : PAnyOps)
  | pall (o : PAnyOps)
  | fadd (o : FBinOps)
  | fsub (o : FBinOps)
  | fmul (o : FBinOps)
  | ffma (o : FTriOps)
  | fmin (o : FBinOps)
  | fmax (o : FBinOps)
  | fabs (o : FUnOps)
  | fneg (o : FUnOps)
  | fcmp (o : FCmpOps)
  | fclass (o : FUnOps)
  | frnd (o : FUnOps)
  | hadd2 (o : FBinOps)
  | hmul2 (o : FBinOps)
  | hfma2 (o : FTriOps)
  | fdot2 (o : FTriOps)
  | frcp (o : FUnOps)
  | frsq (o : FUnOps)
  | fsqrt (o : FUnOps)
  | fexp2 (o : FUnOps)
  | flog2 (o : FUnOps)
  | fsinpi (o : FUnOps)
  | fcospi (o : FUnOps)
  | ftanh (o : FUnOps)
  | fsigm (o : FUnOps)
  | specialFunctionResult (t : TeamId) (k : Nat)
  | cvt (o : CvtOps)
  | pack (o : CvtOps)
  | unpk (o : CvtOps)
  | quant (o : CvtOps)
  | deq (o : CvtOps)
  | ld (o : LoadOps)
  | st (o : StoreOps)
  | gath (o : LoadOps)
  | scat (o : StoreOps)
  | atom (o : AtomOps)
  | red (o : AtomOps)
  | fix (o : TintOps)
  | gtest (o : GtestOps)
  | gdrop (o : TintOps)
  | gdemShort (o : GdemShortOps)
  | gdemAddress (o : GdemAddrOps)
  | tmov (o : TmovOps)
  | pref (o : PrefOps)
  | mzero (o : MzeroOps)
  | mma (o : MmaOps)
  | mmag (o : MmaOps)
  | mtrn (o : MtrnOps)
  | mtrnDlt (o : MtrnDltOps)
  | mldw (o : MldwOps)
  | mldwSave (o : MldwRegionOps)
  | mldwRaw (o : MldwRegionOps)
  | mrda (o : MrdaOps)
  | mrdaStatus (o : MrdaStatusOps)
  | mwra (o : MwraOps)
  | mgang (o : MgangOps)
  | matrixEngineStart (core : Nat)
  | matrixInstructionDone (core : Nat)
  | gangTimeout (gid : Nat)
  | binit (o : BinitOps)
  | binv (o : BinvOps)
  | barv (o : BarvOps)
  | bexp (o : BexpOps)
  | bwait (o : BwaitOps)
  | btest (o : BtestOps)
  | bbind (o : BbindOps)
  | barrierBytesCounted (k : Nat)
  | bindingFire (k : Nat)
  | cpy (o : CpyOps)
  | cpytLd (o : CpytOps)
  | cpytSt (o : CpytOps)
  | copyChannelWord (op : EngTurn)
  | blockTransferBytes (op : EngTurn) (i : Nat)
  | engineOperationComplete (op : Nat)
  | chtest (o : ChtestOps)
  | chwp (o : ChwpOps)
  | tlsig (o : TlsigOps)
  | tlrd (o : TlrdOps)
  | fence (o : FenceOps)
  | creg (o : CregOps)
  | cdreg (o : CregOps)
  | comb (o : CombOps)
  | crep (o : CrepOps)
  | combinerRequestArrival (k : Nat)
  | skeinForm (msu : Nat)
  | methodReturn (msu : Nat)
  | methodFault (msu : Nat)
  | methodTimeout (msu : Nat)
  | combinerReplyWrite (c : Nat)
  | combinerGuardReject (k : Nat)
  | xsend (o : XsendOps)
  | xfetch (o : XfetchOps)
  | xatom (o : XatomOps)
  | xatomNr (o : XatomOps)
  | xsig (o : XsigOps)
  | trap (o : CodeOps)
  | trapKill (o : CodeOps)
  | rte (g : TeamGuard)
  | srd (o : SrdOps)
  | swr (o : SwrOps)
  | park (g : TeamGuard)
  | yield (g : TeamGuard)
  | ipref (o : IprefOps)
  | ipin (o : IpinOps)
  | iunpin (o : IpinOps)
  | launch (o : LaunchOps)
  | enq (o : TwoOps)
  | rsh (o : TwoOps)
  | clauseStart (core : Nat)
  | codeFillArrival (quad : Nat) (ctx : Nat) (line : Nat)
  | scoreboardRelease (t : TeamId)
  | loadExpiry (l : Nat)
  | exactAnswerArrival (l lane : Nat) (remote : Reply)
  | lateAnswerArrival (l lane : Nat) (remote : Reply)
  | loadDestinationWrite (l : Nat)
  | tmovDeadline (op : Nat)
  | nearLeaseRecall (core line : Nat)
  | routerPowerDown (die r : Nat)
  | routerWake (die r : Nat)
  | groupPlacement (c : Choice)
  | activeSetEntry (core : Nat)
  | parkRequest (gid : Nat) (src : ParkSource)
  | timeSliceExpiry (gid : Nat)
  | parkTrap (gid : Nat)
  | pageFaultPark (gid : Nat)
  | redirectedValueWrite (l : Nat)
  | wakeCondition (gid : Nat)
  | migrationRequest (lcore target : Nat)
  | coreMapRewrite (lcore : Nat)
  | restoreStart (gid : Nat)
  | groupKill (gid : Nat)
  | groupRetire (gid : Nat)
  | teamRetire (t : TeamId)
  | bwaitWake (t : TeamId)
  | kernelAccept (k : Nat)
  | kernelDrained (k : Nat)
  | outstandingAck (p : Nat)
  | kernelSignal (k : Nat)
  | errorRecordEntry (k : Nat)
  | queueHeadWatch (ctx q : Nat)
  | queueBlockFetch (ctx q : Nat)
  | queueDispatch (ctx q : Nat)
  | queueLink (ctx q : Nat)
  | queueRestart (ctx q : Nat)
  | commandCompletion (c : Nat)
  | cmdNop (c : Nat)
  | cmdLaunch (c : Nat)
  | cmdWaittl (c : Nat)
  | cmdSigtl (c : Nat)
  | settlr (c : Nat)
  | map (c : Nat) (h : Choice)
  | unmap (c : Nat)
  | reshard (c : Nat)
  | appendSwap (ctx : Nat) (desc block : Word)
  | create (h : Choice)
  | qreg
  | qdrop
  | recover
  | destroy
  | destructionComplete (slot : Nat)
  | pretry
  | pfail
  | fwstage
  | fwact
  | health
  | hwin
  | migrate (target : Nat)
  | halt
  | resume
  | slice
  | mailboxUnknownCode
  | faultNoticeSend (k : Nat)
  | pageWalk (core ctx : Nat) (va : Word)
  | pageMigration (ctx : Nat) (va : Word) (frame : Nat)
  | hostWindowRead (off bytes : Nat)
  | hostWindowWrite (off : Nat) (data : List Byte) (relaxed : Bool)
  | hostAtomicop (off : Nat) (wide : Bool) (op : HostAtom) (x cmp : Word)
  | hrowcfgWrite (stack : Nat) (x : Word)
  | eyeselWrite (stack : Nat) (x : Word)
  | registerWrite (off : Nat) (x : Word)
  | rowActivationAlert (stack : Nat) (row : RowTurn)
  | eyeMarginLow (stack lane : Nat)
  | poisonConsumed (k : Nat)
  | headerCrcFail
  | errorSelfTest (u : ErrUnit) (passed : Bool) (second : Nat)
  | thermalTrip (pcore : Nat)
  | clockClamp (die quad : Nat) (celsius : Reading)
  | powerClamp (watts : Reading)
  | junctionShutdown
  | reset
  | powerGood
  | stageReached (ok : Bool) (harvested : List Nat) (dieLow : List Nat)
  | portEnable (port : Nat) (on : Bool)
  | linkTrainingResult (port lanes peerInc : Nat)
  | linkError (port : Nat) (e : LinkFault)
  | detourRetry (port : Nat)
  | flitReplay (port : Nat)
  | routeChange (tgt : Nat) (links : List (Nat × Nat)) (force : Option Nat)
  | incarnationLearned (rank inc : Nat)
  | stalePacketDrop (port : Nat) (p : Packet)
  | fabricPacketArrival (p : Packet)
  | dropNotice (op : Nat) (lo bytes : Nat)
  | reservationGrant (op start budget : Nat)
  | grantWindowExpiry (op : Nat)
  | fabricAck (op : Nat) (lo bytes : Nat) (denied : Bool)
  | planCompute (p : Nat)
  | reshardRunSend (p : Nat)
  | reshardRunAck (p run : Nat) (denied : Bool)
  | planStop (p : Nat) (e : PlanEvent)
  | planDrained (p : Nat)
  | eyeMarginMeasurement (stack lane : Nat) (v h : Byte) (inUse : Bool)
  | apertureTableWrite (i : Nat) (e : Option Aperture)
  deriving DecidableEq, Repr

end Sys2Proof
end

