-- ==== Sys2Proof/Machine/Bits.lean ====
section
/-! DEFINITION. Bit-field, extension and byte-order helpers. -/

namespace Sys2Proof

/-- The bits of `x` from `lo` upward, `n` of them, as a number. -/
def bitsAt (x lo n : Nat) : Nat := (x >>> lo) % 2 ^ n

/-- Bit `i` of a number. -/
def bitAt (x i : Nat) : Bool := x.testBit i

/-- A boolean as a number. -/
def b2n (b : Bool) : Nat := if b then 1 else 0

/-- Two's complement reading of the low `w` bits. -/
def toSigned (w x : Nat) : Int :=
  let r := x % 2 ^ w
  if 2 * r < 2 ^ w then (r : Int) else (r : Int) - 2 ^ w

/-- The low `w` bits of an integer. -/
def wrapTo (w : Nat) (x : Int) : Nat := (x % (2 ^ w : Int)).toNat

/-- Sign extension of a 32-bit field into 64 bits. -/
def sext32 (x : Lane) : Word := x.signExtend 64

/-- The bytes of a number, the least significant first (R5). -/
def leBytes : Nat → Nat → List Byte
  | 0, _ => []
  | n + 1, x => BitVec.ofNat 8 x :: leBytes n (x / 256)

/-- The number whose little-endian bytes are given (R5). -/
def fromBytes : List Byte → Nat
  | [] => 0
  | b :: bs => b.toNat + 256 * fromBytes bs

/-- The number of bits of a positive number, 0 for 0. -/
def bitLength (x : Nat) : Nat := if x = 0 then 0 else Nat.log2 x + 1

/-- A number rounded down to a multiple of `n`. -/
def alignDown (n x : Nat) : Nat := x / n * n

/-- Division rounded up. -/
def ceilDiv (a b : Nat) : Nat := (a + b - 1) / b

/-- Whether `x` is a multiple of `n`. -/
def multOf (n x : Nat) : Bool := x % n == 0

/-- Item `i` of a list, with a value for a missing one. -/
def nth {α : Type} (d : α) (l : List α) (i : Nat) : α := (l[i]?).getD d

/-- A list with item `i` replaced. -/
def setNth {α : Type} (l : List α) (i : Nat) (x : α) : List α := l.set i x

/-- The set bits of a number below `n`, ascending. -/
def bitList (n x : Nat) : List Nat := (List.range n).filter fun i => x.testBit i

/-- A number with the bits of `f` below `n`. -/
def bitsOf (n : Nat) (f : Nat → Bool) : Nat :=
  (List.range n).foldl (fun a i => if f i then a + 2 ^ i else a) 0

/-- The smallest item of a list of numbers. -/
def minOf : List Nat → Option Nat
  | [] => none
  | x :: xs => match minOf xs with
    | none => some x
    | some y => some (min x y)

/-- The largest item of a list, 0 for an empty one. -/
def maxOf (l : List Nat) : Nat := l.foldl max 0

/-- The sum of a list. -/
def sumOf (l : List Nat) : Nat := l.foldl (· + ·) 0

/-! ### Widths -/

/-- The width of an access in bytes (R59). -/
def Width.bytes : Width → Nat
  | .w8 => 1 | .w16 => 2 | .w32 => 4 | .w64 => 8 | .w128 => 16

/-- The registers an element of a width occupies (R161). -/
def Width.regs : Width → Nat
  | .w64 => 2 | .w128 => 4 | _ => 1

/-- The width of an integer type (R96). -/
def IntTy.bits : IntTy → Nat
  | .i32 | .n32 | .b32 => 32
  | .i64 | .n64 | .b64 => 64

/-- Whether a type is an i type. -/
def IntTy.signed : IntTy → Bool
  | .i32 | .i64 => true
  | _ => false

/-- Whether a type is a b type. -/
def IntTy.isB : IntTy → Bool
  | .b32 | .b64 => true
  | _ => false

/-- The vector registers a value of the type occupies (R27, R97). -/
def IntTy.regs (t : IntTy) : Nat := t.bits / 32

/-- The width of an element of a format (R29, R30); the MX and q4 formats give the element's own width. -/
def Fmt.bits : Fmt → Nat
  | .i8 | .n8 | .e4m3 | .e5m2 | .mxe4m3 | .mxe5m2 => 8
  | .i16 | .n16 | .f16 | .bf16 => 16
  | .i32 | .n32 | .b32 | .f32 => 32
  | .i64 | .n64 | .b64 | .fa48 | .ia48 => 64
  | .e2m1 | .mxe2m1 | .q4 => 4
  | .t2 => 2

/-- The integer formats of R128. -/
def Fmt.isInt : Fmt → Bool
  | .i8 | .i16 | .i32 | .i64 | .n8 | .n16 | .n32 | .n64 => true
  | _ => false

/-- The signed integer formats. -/
def Fmt.signed : Fmt → Bool
  | .i8 | .i16 | .i32 | .i64 => true
  | _ => false

/-- f32, f16 and bf16 (the F of R128). -/
def Fmt.isF : Fmt → Bool
  | .f32 | .f16 | .bf16 => true
  | _ => false

/-- e4m3, e5m2 and e2m1 (the E of R128). -/
def Fmt.isE : Fmt → Bool
  | .e4m3 | .e5m2 | .e2m1 => true
  | _ => false

/-- The MX formats (R36). -/
def Fmt.isMx : Fmt → Bool
  | .mxe4m3 | .mxe5m2 | .mxe2m1 => true
  | _ => false

/-- K of a shape (R190). -/
def Shape.k : Shape → Nat
  | .k64 => 64 | .k128 => 128 | .k256 => 256

end Sys2Proof
end

