-- ==== Sys2Proof/Machine/Float.lean ====
section
/-! DEFINITION. Floating-point values, formats, exact arithmetic and the one rounding (R30-R34, R39-R44). -/

namespace Sys2Proof

/-- The sticky flags of $nstat in its bit order: NV, OV, SAT, AS, TR (R40). -/
abbrev NFlags := BitVec 5

def NFlags.none : NFlags := 0
def NFlags.nv : NFlags := 1
def NFlags.ov : NFlags := 2
def NFlags.sat : NFlags := 4
def NFlags.as : NFlags := 8
def NFlags.tr : NFlags := 16

/-- A number as the exact arithmetic sees it: a NaN, an infinity, or (−1)^neg × m × 2^e. -/
inductive Num where
  | nan
  | inf (neg : Bool)
  | fin (neg : Bool) (m : Nat) (e : Int)
  deriving DecidableEq, Repr

/-- The floating-point element formats of R30. -/
inductive FF where
  | f32 | f16 | bf16 | e5m2 | e4m3 | e2m1 | fa48
  deriving DecidableEq, Repr

namespace FF

/-- Fraction bits (R30). -/
def fb : FF → Nat
  | f32 => 23 | f16 => 10 | bf16 => 7 | e5m2 => 2 | e4m3 => 3 | e2m1 => 1 | fa48 => 37
/-- Exponent bits (R30). -/
def eb : FF → Nat
  | f32 => 8 | f16 => 5 | bf16 => 8 | e5m2 => 5 | e4m3 => 4 | e2m1 => 2 | fa48 => 10
/-- Bias (R30). -/
def bias : FF → Nat
  | f32 => 127 | f16 => 15 | bf16 => 127 | e5m2 => 15 | e4m3 => 7 | e2m1 => 1 | fa48 => 511
/-- Total width. -/
def bits (f : FF) : Nat := 1 + f.eb + f.fb
/-- Whether the format has infinities (R30). -/
def hasInf : FF → Bool
  | e4m3 | e2m1 => false
  | _ => true
/-- The code of the largest finite magnitude (R30). -/
def maxCode : FF → Nat
  | e4m3 => 0x7E
  | e2m1 => 7
  | f => (2 ^ f.eb - 1) * 2 ^ f.fb - 1
/-- The code of infinity where the format has one. -/
def infCode (f : FF) : Nat := (2 ^ f.eb - 1) * 2 ^ f.fb
/-- The canonical NaN (R31); e2m1 has none and gets +0 (R33). -/
def nanCode : FF → Nat
  | f32 => 0x7FC00000 | f16 => 0x7E00 | bf16 => 0x7FC0 | e5m2 => 0x7E | e4m3 => 0x7F | e2m1 => 0
  | fa48 => 0x7FF000000000
/-- The exponent of the unit of the subnormals. -/
def emin (f : FF) : Int := 1 - (f.bias : Int) - f.fb
/-- The sign bit's weight. -/
def signBit (f : FF) : Nat := 2 ^ (f.eb + f.fb)

/-- The value of a magnitude code and a sign (R30). -/
def ofMag (f : FF) (neg : Bool) (c : Nat) : Num :=
  if f.maxCode < c then (if f.hasInf && c == f.infCode then .inf neg else .nan)
  else
    let ex := c / 2 ^ f.fb
    let fr := c % 2 ^ f.fb
    if ex = 0 then .fin neg fr f.emin else .fin neg (2 ^ f.fb + fr) (f.emin + ex - 1)

/-- The value of a pattern (R30). -/
def dec (f : FF) (x : Nat) : Num :=
  f.ofMag (x.testBit (f.eb + f.fb)) (x % f.signBit)

/-- Whether a pattern is subnormal: exponent field zero, fraction not (R30). -/
def isSub (f : FF) (x : Nat) : Bool :=
  let c := x % f.signBit
  decide (0 < c) && decide (c < 2 ^ f.fb)

end FF

namespace Num

def zero : Num := .fin false 0 0

def isNan : Num → Bool
  | nan => true
  | _ => false
def isInf : Num → Bool
  | inf _ => true
  | _ => false
def isZero : Num → Bool
  | fin _ m _ => m == 0
  | _ => false
def neg : Num → Bool
  | nan => false
  | inf s => s
  | fin s _ _ => s
/-- The opposite number. -/
def negate : Num → Num
  | nan => nan
  | inf s => inf (!s)
  | fin s m e => fin (!s) m e
/-- The magnitude. -/
def abs : Num → Num
  | nan => nan
  | inf _ => inf false
  | fin _ m e => fin false m e

/-- The signed significand of a finite number at exponent `e0`, which is at most its own. -/
def sigAt (e0 : Int) : Num → Int
  | fin s m e =>
    let v : Int := (m * 2 ^ (e - e0).toNat : Nat)
    if s then -v else v
  | _ => 0

def expo : Num → Int
  | fin _ _ e => e
  | _ => 0

/-- An integer times a power of two; an exact zero takes the sign `zneg`. -/
def ofInt (zneg : Bool) (v : Int) (e : Int) : Num :=
  if v = 0 then .fin zneg 0 e else .fin (decide (v < 0)) v.natAbs e

/-- The exact product; a zero times an infinity is a NaN (R119). -/
def mul : Num → Num → Num
  | nan, _ => nan
  | _, nan => nan
  | inf s, inf t => inf (s != t)
  | inf s, fin t m _ => if m = 0 then nan else inf (s != t)
  | fin s m _, inf t => if m = 0 then nan else inf (s != t)
  | fin s m e, fin t n f => fin (s != t) (m * n) (e + f)

/-- Whether a product makes a NaN from operands that are none (R40). -/
def mulNew (x y : Num) : Bool := (x.isInf && y.isZero) || (x.isZero && y.isInf)

/-- The exact sum of finite numbers; a zero sum of terms of both signs takes the sign `zneg`, one of terms of one sign keeps it (R32). -/
def sumFin (zneg : Bool) (l : List Num) : Num :=
  let e0 := l.foldl (fun a x => if x.expo < a then x.expo else a) (match l with | [] => 0 | x :: _ => x.expo)
  let v := l.foldl (fun a x => a + x.sigAt e0) 0
  let z := if l.all Num.neg then true else if l.all (fun x => !x.neg) then false else zneg
  ofInt z v e0

/-- The exact sum of numbers: a NaN or both infinities give a NaN, an infinity stands, and otherwise `sumFin`. -/
def sum (zneg : Bool) (l : List Num) : Num :=
  if l.any isNan then nan
  else if l.any (· == inf true) && l.any (· == inf false) then nan
  else match l.find? isInf with
    | some i => i
    | none => sumFin zneg l

/-- Whether a sum makes a NaN from terms that are none (R40). -/
def sumNew (l : List Num) : Bool :=
  !l.any isNan && l.any (· == inf true) && l.any (· == inf false)

/-- Comparison of numbers that are no NaN: zeros equal, infinities at the ends. -/
def cmp (x y : Num) : Ordering :=
  match x, y with
  | inf s, inf t => if s = t then .eq else if s then .lt else .gt
  | inf s, _ => if s then .lt else .gt
  | _, inf t => if t then .gt else .lt
  | x, y =>
    let e0 := if x.expo < y.expo then x.expo else y.expo
    compare (x.sigAt e0) (y.sigAt e0)

/-- Scaling by a power of two. -/
def scale (k : Int) : Num → Num
  | fin s m e => fin s m (e + k)
  | x => x

/-- The floor of the base-two logarithm of a nonzero magnitude. -/
def floorLog2 : Num → Int
  | fin _ m e => (Nat.log2 m : Int) + e
  | _ => 0

end Num

/-- Rounding of m × 2^-k to an integer (R32): `up` decides on the quotient's parity, the remainder and half. -/
def roundShift (rm : Rm) (neg : Bool) (m k : Nat) : Nat :=
  let q := m / 2 ^ k
  let r := m % 2 ^ k
  let up : Bool := match rm with
    | .rn => decide (2 ^ k < 2 * r) || (2 * r == 2 ^ k && q % 2 == 1)
    | .rz => false
    | .rd => neg && r != 0
    | .ru => !neg && r != 0
  if up then q + 1 else q

/-- Rounding of m × 2^e to an integral value: an integer. -/
def roundInt (rm : Rm) (neg : Bool) (m : Nat) (e : Int) : Nat :=
  if 0 ≤ e then m * 2 ^ e.toNat else roundShift rm neg m (-e).toNat

/-- The magnitude code of m × 2^e in a format, rounded once and not yet limited: a code above `maxCode` is an overflow (R30, R32). -/
def FF.roundCode (f : FF) (rm : Rm) (neg : Bool) (m : Nat) (e : Int) : Nat :=
  if m = 0 then 0
  else
    let top := (Nat.log2 m : Int) + e - f.fb
    let u := if top < f.emin then f.emin else top
    let n := if u ≤ e then m * 2 ^ (e - u).toNat else roundShift rm neg m (u - e).toNat
    (u - f.emin).toNat * 2 ^ f.fb + n

/-- Whether an overflow delivers infinity (R32). -/
def overToInf (rm : Rm) (neg : Bool) : Bool :=
  match rm with
  | .rn => true
  | .rz => false
  | .rd => neg
  | .ru => !neg

/-- A pattern from a sign and a magnitude code. -/
def FF.pat (f : FF) (neg : Bool) (c : Nat) : Nat := (if neg then f.signBit else 0) + c

/-- The pattern of a number in a format with infinities, rounded once, with the flags of R40; `ftz` is the flush-to-zero flag (R32, R34). -/
def FF.round (f : FF) (rm : Rm) (ftz : Bool) : Num → Nat × NFlags
  | .nan => (f.nanCode, 0)
  | .inf s => (f.pat s f.infCode, 0)
  | .fin s m e =>
    if m = 0 then (f.pat s 0, 0)
    else if ftz && decide ((Nat.log2 m : Int) + e < 1 - f.bias) then (f.pat s 0, 0)
    else
      let c := f.roundCode rm s m e
      if f.maxCode < c then
        (f.pat s (if overToInf rm s then f.infCode else f.maxCode), NFlags.ov)
      else (f.pat s c, 0)

/-- The pattern of a number in e5m2, e4m3 or e2m1 (R33). -/
def FF.roundE (f : FF) (rm : Rm) (sat : Bool) : Num → Nat × NFlags
  | .nan => (f.nanCode, if f = .e2m1 then NFlags.nv else 0)
  | .inf s =>
    if sat then (f.pat s f.maxCode, NFlags.sat)
    else match f with
      | .e4m3 => (0x7F, 0)
      | .e2m1 => (f.pat s 7, 0)
      | _ => (f.pat s f.infCode, 0)
  | .fin s m e =>
    let c := f.roundCode rm s m e
    if f.maxCode < c then
      if sat then (f.pat s f.maxCode, NFlags.sat)
      else match f with
        | .e4m3 => (if overToInf rm s then 0x7F else f.pat s f.maxCode, NFlags.ov)
        | .e2m1 => (f.pat s 7, NFlags.ov)
        | _ => (f.pat s (if overToInf rm s then f.infCode else f.maxCode), NFlags.ov)
    else (f.pat s c, 0)

/-- The format of a floating type (R115). -/
def FloatTy.ff : FloatTy → FF
  | .f32 => .f32 | .f16 => .f16 | .bf16 => .bf16

/-- The format of a code where it is a floating element format. -/
def Fmt.ff? : Fmt → Option FF
  | .f32 => some .f32 | .f16 => some .f16 | .bf16 => some .bf16
  | .e4m3 => some .e4m3 | .e5m2 => some .e5m2 | .e2m1 => some .e2m1
  | .mxe4m3 => some .e4m3 | .mxe5m2 => some .e5m2 | .mxe2m1 => some .e2m1
  | .fa48 => some .fa48
  | _ => none

/-- The value of a pattern, a subnormal read as a zero of its sign under the flush-to-zero flag (R34). -/
def FF.read (f : FF) (ftz : Bool) (x : Nat) : Num :=
  if ftz && f.isSub x then .fin (x.testBit (f.eb + f.fb)) 0 0 else f.dec x

/-- An f32 immediate as a pattern of a type, where the type represents it exactly (R116); a NaN of any payload stands for the type's NaN (DESIGN CHOICE, log 57). -/
def immExact (t : FloatTy) (x : Lane) : Option Nat :=
  match t with
  | .f32 => some x.toNat
  | _ =>
    let v := FF.f32.dec x.toNat
    let p := (t.ff.round .rn false v).1
    match v, t.ff.dec p with
    | .nan, .nan => some p
    | .inf s, .inf t => if s = t then some p else none
    | .fin s m e, .fin t n f =>
      if s = t && Num.cmp (.fin s m e) (.fin t n f) == .eq then some p else none
    | _, _ => none

/-- The value of an E8M0 scale's exponent, none for the NaN scale (R35). -/
def e8m0 (x : Nat) : Option Int := if x = 255 then none else some ((x : Int) - 127)

end Sys2Proof
end

