-- ==== Sys2Proof/WellFormed.lean ====
section
/-! DEFINITION. Which instructions have a word: the encoding checks of R60 read on the instruction itself. Some of them depend on the team (R55, R179, R188, R200, R204), whose data `Env` holds. -/

namespace Sys2Proof

/-- What the encoding checks need to know of the team: rounded register count, declared tiles, lanes, teams of the group and the team's own index. -/
structure Env where
  regs : Nat
  accs : Nat
  lanes : Nat
  teams : Nat
  idx : Nat
  deriving DecidableEq, Repr

/-- A vector register group of `n` registers whose number is a multiple of `n` exists (R27, R55, R161). -/
def Env.v (e : Env) (n : Nat) (x : Fin 256) : Bool := x.val % n == 0 && decide (x.val + n ≤ e.regs)

/-- A run of `n` vector registers exists, whose first is a multiple of `a`. -/
def Env.run (e : Env) (a n : Nat) (x : Fin 256) : Bool := x.val % a == 0 && decide (x.val + n ≤ e.regs)

/-- An accumulator the group declares (R55, R179). -/
def Env.acc (e : Env) (x : Fin 8) : Bool := decide (x.val < e.accs)

def VSrc.wf (e : Env) (n : Nat) (imm : Bool) : VSrc → Bool
  | .reg v => e.v n v
  | .bcast _ => true
  | .imm _ => imm

def VSrc16.wf (e : Env) (n : Nat) : VSrc16 → Bool
  | .reg v => e.v n v
  | _ => true

/-- The vector predicates that may be written: p1 to p7 (R55). -/
def pdst (p : Fin 8) : Bool := p.val != 0

def PredReg.dst : PredReg → Bool
  | .p i => pdst i
  | .q _ => true

def PredReg.isQ : PredReg → Bool
  | .q _ => true
  | .p _ => false

/-- The guard (p0), which the scalar predicate forms take (R110, R168). -/
def LaneGuard.isP0 (g : LaneGuard) : Bool := !g.neg && g.p.val == 0

def tAll : List IntTy := [.i32, .n32, .b32, .i64, .n64, .b64]
def t32 : List IntTy := [.i32, .n32, .b32]
def tIN : List IntTy := [.i32, .n32]
def tMM : List IntTy := [.i32, .n32, .i64, .n64]
def tI32 : List IntTy := [.i32]
def tB32 : List IntTy := [.b32]
def fAll : List FloatTy := [.f32, .f16, .bf16]
def fHalf : List FloatTy := [.f16, .bf16]

def SSrc.wf (imm : Bool) : SSrc → Bool
  | .reg _ => true
  | .imm _ => imm

def SBinOps.wf (tys : List IntTy) (o : SBinOps) : Bool := tys.contains o.ty

def VUnOps.wf (e : Env) (tys : List IntTy) (o : VUnOps) : Bool :=
  tys.contains o.ty && e.v o.ty.regs o.d && e.v o.ty.regs o.a
def VImmOps.wf (e : Env) (o : VImmOps) : Bool := e.v o.ty.regs o.d
def VBcstOps.wf (e : Env) (o : VBcstOps) : Bool := e.v o.ty.regs o.d
def VBinOps.wf (e : Env) (tys : List IntTy) (o : VBinOps) : Bool :=
  tys.contains o.ty && e.v o.ty.regs o.d && e.v o.ty.regs o.a && o.b.wf e o.ty.regs true
def VTriOps.wf (e : Env) (tys : List IntTy) (o : VTriOps) : Bool :=
  tys.contains o.ty && e.v o.ty.regs o.d && e.v o.ty.regs o.a && o.b.wf e o.ty.regs false
    && o.c.wf e o.ty.regs false
def VBfOps.wf (e : Env) (o : VBfOps) : Bool :=
  t32.contains o.ty && e.v 1 o.d && e.v 1 o.a && match o.f with
    | .src b c => b.wf e 1 false && c.wf e 1 false
    | .imm _ _ => true
def VSelOps.wf (e : Env) (o : VSelOps) : Bool :=
  e.v o.ty.regs o.d && e.v o.ty.regs o.a && o.b.wf e o.ty.regs
def VCmpOps.wf (e : Env) (o : VCmpOps) : Bool :=
  pdst o.d && e.v o.ty.regs o.a && o.b.wf e o.ty.regs
def VLeaOps.wf (e : Env) (o : VLeaOps) : Bool := e.v 1 o.d && o.b.wf e 1 false
def VShfOps.wf (e : Env) (o : VShfOps) : Bool :=
  e.v o.ty.regs o.d && e.v o.ty.regs o.a && match o.f with
    | .idx b => b.wf e 1 false
    | _ => true
/-- .min and .max exclude b types (R108); .excl is VSCAN's. -/
def VRedOps.wf (e : Env) (scan : Bool) (o : VRedOps) : Bool :=
  (match o.op with
    | .min | .max => !o.ty.isB
    | _ => true) && e.v o.ty.regs o.d && e.v o.ty.regs o.a && (scan || !o.excl)
def VBalOps.wf (e : Env) (o : VBalOps) : Bool := e.v 1 o.d
def PBinOps.wf (o : PBinOps) : Bool :=
  o.d.dst && o.a.isQ == o.d.isQ && o.b.isQ == o.d.isQ && (!o.d.isQ || o.g.isP0)
def PUnOps.wf (o : PUnOps) : Bool := o.d.dst && o.a.isQ == o.d.isQ && (!o.d.isQ || o.g.isP0)

/-- The modifiers of R117: the types, the immediate form, the rounding code. -/
def FBinOps.wf (e : Env) (tys : List FloatTy) (imm rnd : Bool) (o : FBinOps) : Bool :=
  tys.contains o.ty && e.v 1 o.d && e.v 1 o.a && o.b.wf e 1 imm && (rnd || o.rm == .rn)
    && match o.b with
      | .imm x => (immExact o.ty x).isSome && o.rm == .rn
      | _ => true
def FTriOps.wf (e : Env) (tys : List FloatTy) (o : FTriOps) : Bool :=
  tys.contains o.ty && e.v 1 o.d && e.v 1 o.a && o.b.wf e 1 false && o.c.wf e 1 false
def FUnOps.wf (e : Env) (rnd : Bool) (o : FUnOps) : Bool :=
  e.v 1 o.d && e.v 1 o.a && (rnd || o.rm == .rn)
def FCmpOps.wf (e : Env) (o : FCmpOps) : Bool :=
  pdst o.d && e.v 1 o.a && o.b.wf e 1 false

/-- The pairs of CVT with what each takes: a rounding code, .sat (R128). -/
def cvtPair (dt st : Fmt) : Option (Bool × Bool) :=
  if dt = st then none
  else if st.isInt then
    if dt.isInt then some (false, true)
    else if dt.isF then some (true, false)
    else if dt.isE then some (true, true)
    else none
  else if st.isF then
    if dt.isInt then some (true, false)
    else if dt.isF then some (dt != .f32, false)
    else if dt.isE then some (true, true)
    else none
  else if st.isE then
    if dt.isInt then some (true, false)
    else if dt.isF then some (false, false)
    else if dt.isE then some (true, true)
    else none
  else none

/-- The pairs of PACK (R129). -/
def packPair (dt st : Fmt) : Option (Bool × Bool) :=
  match st, dt with
  | .f32, .f16 | .f32, .bf16 => some (true, false)
  | .f32, .e4m3 | .f32, .e5m2 | .f32, .e2m1 => some (true, true)
  | .i32, .i8 | .i32, .i16 | .n32, .n8 | .n32, .n16 => some (false, true)
  | _, _ => none

/-- The pairs of UNPK (R130). -/
def unpkPair (dt st : Fmt) : Option (Bool × Bool) :=
  match st, dt with
  | .f16, .f32 | .bf16, .f32 | .e4m3, .f32 | .e5m2, .f32 | .e2m1, .f32 => some (false, false)
  | .i8, .i32 | .i16, .i32 | .n8, .n32 | .n16, .n32 => some (false, false)
  | _, _ => none

/-- The pairs of QUANT (R131). -/
def quantPair (dt st : Fmt) : Option (Bool × Bool) :=
  if dt.isMx && st == .f32 then some (true, false) else none

/-- The pairs of DEQ (R132). -/
def deqPair (dt st : Fmt) : Option (Bool × Bool) :=
  if dt.isF && (st.isMx || st == .q4) then some (true, false) else none

/-- Elements in one lane: 32 over the width (R129). -/
def perLane (f : Fmt) : Nat := 32 / f.bits

/-- Registers of the destination of each conversion, the first a multiple of their number. -/
def cvtRegs (f : Fmt) : Nat := if f = .i64 ∨ f = .n64 then 2 else 1

def CvtOps.wfBy (pair : Fmt → Fmt → Option (Bool × Bool)) (dn sn : Nat) (e : Env) (o : CvtOps) : Bool :=
  (match pair o.dt o.st with
    | none => false
    | some (r, s) => (r || o.rm == .rn) && (s || !o.sat)) && e.v dn o.d && e.v sn o.a

def AddrOp.wf (e : Env) : AddrOp → Bool
  | .base _ => true
  | .index _ i _ => e.v 1 i

def AddrOp.isIndex : AddrOp → Bool
  | .base _ => false
  | .index _ _ _ => true

def AddrOp.scaleOf : AddrOp → Fin 4
  | .base _ => 0
  | .index _ _ k => k

/-- A signed 128-bit type does not exist (R81, R161). -/
def wsOk (w : Width) (signed : Bool) : Bool := !(w == .w128 && signed)

/-- GATH and SCAT take .g and .d (R161). -/
def gsSpace (s : Space) : Bool := s == .g || s == .d

def LoadOps.wf (e : Env) (gath : Bool) (o : LoadOps) : Bool :=
  wsOk o.w o.signed && e.v o.w.regs o.d && o.addr.wf e && (o.acq || o.scope == .team)
    && (!o.acq || o.limit.val == 0) && (!gath || (o.addr.isIndex && gsSpace o.sp))
def StoreOps.wf (e : Env) (scat : Bool) (o : StoreOps) : Bool :=
  wsOk o.w o.signed && e.v o.w.regs o.c && o.addr.wf e && (o.rel || o.scope == .team)
    && (!scat || (o.addr.isIndex && gsSpace o.sp))

/-- The operand of an atomic: a register group of the width, or the compare and new values of .cas (R165). -/
def Env.atomC (e : Env) (w : Width) (op : AtomOp) (c : Fin 256) : Bool :=
  if op = .cas then (if w = .w64 then e.v 4 c else e.run 1 2 c) else e.v w.regs c

def atomWidth (w : Width) (op : AtomOp) (signed : Bool) : Bool :=
  (w == .w32 || w == .w64) && (op != .addF32 || (w == .w32 && !signed))

/-- ATOM takes every order and operation, RED plain or .rel and no .xchg or .cas (R165). -/
def AtomOps.wf (e : Env) (red : Bool) (o : AtomOps) : Bool :=
  atomWidth o.w o.op o.signed && o.scope != .team && o.addr.isIndex && o.addr.wf e
    && e.atomC o.w o.op o.c
    && (if red then
        o.d.val == 0 && (o.ord == .plain || o.ord == .rel) && o.op != .xchg && o.op != .cas
      else e.v o.w.regs o.d)

def TintOps.wf (e : Env) (o : TintOps) : Bool :=
  match o.d with
  | .v i => e.v 1 i
  | .s _ => o.g.isP0
  | .pred r => r.dst && (!r.isQ || o.g.isP0)
def GtestOps.wf (e : Env) (o : GtestOps) : Bool :=
  o.d.dst && (!o.d.isQ || o.g.isP0) && match o.a with
    | .v i => e.v 1 i && !o.d.isQ
    | .s _ => o.d.isQ
    | .pred r => r.isQ == o.d.isQ
def GdemAddrOps.wf (e : Env) (o : GdemAddrOps) : Bool :=
  wsOk o.w o.signed && e.v o.w.regs o.d && o.addr.wf e
/-- A TMOV barrier never lies in .g; without one srcc is zero (R170). -/
def TmovOps.wf (o : TmovOps) : Bool :=
  o.bar != some .g && (o.bar.isSome || o.c.val == 0)
def PrefOps.wf (e : Env) (o : PrefOps) : Bool := wsOk o.w o.signed && o.addr.wf e

/-- The format pairs of R187; the MX pairs only in handle form. -/
def mmaPair (handle : Bool) (a b : Fmt) : Bool :=
  match a, b with
  | .bf16, .bf16 | .bf16, .q4 | .f16, .f16 | .e2m1, .e2m1 => true
  | .e4m3, .e4m3 | .e4m3, .e5m2 | .e5m2, .e4m3 | .e5m2, .e5m2 => true
  | .mxe4m3, .mxe4m3 | .mxe4m3, .mxe5m2 | .mxe5m2, .mxe4m3 | .mxe5m2, .mxe5m2 => handle
  | .mxe2m1, .mxe2m1 => handle
  | _, _ => false

/-- The 32-bit words of a register fragment (R188). -/
def fragWords (f : Fmt) (s : Shape) : Nat := 2 * s.k * f.bits

/-- A register fragment is legal for the team (R188). -/
def Env.frag (e : Env) (f : Fmt) (s : Shape) (v : Fin 256) : Bool :=
  let w := fragWords f s
  let n := w / e.lanes
  decide (0 < e.lanes) && w % e.lanes == 0 && decide (0 < n) && v.val % n == 0
    && decide (v.val + n ≤ e.regs)

def MmaOps.wf (e : Env) (o : MmaOps) : Bool :=
  e.acc o.d && match o.a with
    | .frag v => mmaPair false o.fa o.fb && e.frag o.fa o.shape v
    | .handle _ _ => mmaPair true o.fa o.fb
def MtrnOps.wf (e : Env) (o : MtrnOps) : Bool := e.acc o.d && e.frag .i8 o.shape o.a
def MtrnDltOps.wf (e : Env) (o : MtrnDltOps) : Bool := e.acc o.d && e.frag .i8 o.shape o.a

/-- The register slots of a tile window (R200). -/
def Env.span (e : Env) (span : Byte) : Nat :=
  if span = 0 then 4096 / e.lanes else span.toNat

def mrdaFmt (f : Fmt) : Bool :=
  match f with
  | .f32 | .f16 | .bf16 | .e4m3 | .e5m2 | .i32 | .fa48 | .ia48 => true
  | _ => false
def mwraFmt (f : Fmt) : Bool :=
  match f with
  | .f32 | .i32 | .fa48 | .ia48 => true
  | _ => false

/-- Registers per slot of a window: a pair for the raw formats. -/
def rawRegs (f : Fmt) : Nat := if f = .fa48 ∨ f = .ia48 then 2 else 1

def Env.window (e : Env) (f : Fmt) (span : Byte) (v : Fin 256) : Bool :=
  decide (e.span span * e.lanes ≤ 4096) && e.run (rawRegs f) (rawRegs f * e.span span) v

/-- MRDA takes .sat with every result format; it clamps in e4m3 and e5m2 alone (R33, R201; DESIGN CHOICE, log 84). -/
def MrdaOps.wf (e : Env) (o : MrdaOps) : Bool := mrdaFmt o.fmt && e.acc o.a && e.window o.fmt o.span o.d
def MrdaStatusOps.wf (e : Env) (o : MrdaStatusOps) : Bool := e.v 1 o.d
def MwraOps.wf (e : Env) (o : MwraOps) : Bool := mwraFmt o.fmt && e.acc o.d && e.window o.fmt o.span o.a

/-- A gang mask: empty, or 2 to 6 existing teams with the team's own (R204). -/
def Env.gang (e : Env) (m : BitVec 16) : Bool :=
  m == 0 || (let n := (bitList 16 m.toNat).length
    decide (2 ≤ n) && decide (n ≤ 6) && m.getLsbD e.idx && decide (m.toNat < 2 ^ e.teams))

/-- The scope of a barrier object: zero outside .g, and .die, .pkg or .pod in it (R221). -/
def ObjSpace.wf (o : ObjSpace) : Bool :=
  if o.sp = .g then o.scope == .die || o.scope == .pkg || o.scope == .pod else o.scope == .team

def BinitOps.wf (o : BinitOps) : Bool :=
  o.o.wf && match o.n with
    | .reg _ => true
    | .imm n => n != 0
def CpyOps.wf (o : CpyOps) : Bool := o.bar.isSome || o.c.val == 0
def CpytOps.wf (o : CpytOps) : Bool :=
  o.sp != .g && decide (o.a.val ≤ 61) && (o.bar.isSome || o.b.val == 0) && (o.map || o.c.val == 0)
def FenceOps.wf (o : FenceOps) : Bool := o.acq || o.rel
def CombOps.wf (e : Env) (o : CombOps) : Bool := e.v 2 o.d && e.v 2 o.c && o.addr.wf e
def CrepOps.wf (e : Env) (o : CrepOps) : Bool := e.v 2 o.a
def XsendOps.wf (o : XsendOps) : Bool := o.bar || o.c.val == 0
def XfetchOps.wf (e : Env) (o : XfetchOps) : Bool :=
  wsOk o.w o.signed && e.v o.w.regs o.d && o.addr.wf e && (!o.acq || o.limit.val == 0)
def XatomOps.wf (e : Env) (nr : Bool) (o : XatomOps) : Bool :=
  atomWidth o.w o.op o.signed && o.addr.isIndex && o.addr.wf e && e.atomC o.w o.op o.c
    && (if nr then
        o.d.val == 0 && (o.ord == .plain || o.ord == .rel) && o.op != .xchg && o.op != .cas
      else e.v o.w.regs o.d)
def XsigOps.wf (o : XsigOps) : Bool := !(o.ordf && o.rlx)

/-- The numbers of the system registers (R278). -/
def sysNum (n : Nat) : Bool :=
  decide (n ≤ 9) || (decide (0x10 ≤ n) && decide (n ≤ 0x15)) || (decide (0x18 ≤ n) && decide (n ≤ 0x1B))
    || (decide (0x20 ≤ n) && decide (n ≤ 0x25))

/-- The system registers an SWR may name (R278). -/
def sysWr (n : Nat) : Bool :=
  (decide (0x10 ≤ n) && decide (n ≤ 0x15)) || (decide (0x19 ≤ n) && decide (n ≤ 0x1B))

/-- $lane and $row have no scalar form (R283). -/
def SrdOps.wf (e : Env) (o : SrdOps) : Bool :=
  sysNum o.n.toNat && match o.d with
    | .s _ => decide (1 < o.n.toNat)
    | .v i => e.v 1 i
def SwrOps.wf (o : SwrOps) : Bool := sysWr o.n.toNat

/-- The well-formed instructions of a team: those that have a word; an event is always well formed. -/
def Instr.wf (e : Env) : Instr → Bool
  | .nop _ | .bra _ | .brq _ | .brd _ | .join _ | .loop _ | .call _ | .ret _ | .exit _ | .bkpt _
  | .slda _ => true
  | .smov _ | .smovi _ | .scmp _ | .ssel _ => true
  | .sadd o | .ssub o | .smul o | .smulh o | .sand o | .sor o | .sxor o | .sshl o | .sshr o
  | .ssar o => o.wf tAll
  | .smin o | .smax o => o.wf tMM
  | .vmov o | .vnot o => o.wf e tAll
  | .vmovi o => o.wf e
  | .vbcst o => o.wf e
  | .vadd o | .vsub o | .vand o | .vor o | .vxor o => o.wf e tAll
  | .vadds o | .vsubs o | .vmulh o => o.wf e tIN
  | .vmul o | .vshl o | .vshr o | .vsar o => o.wf e t32
  | .vmad o => o.wf e t32
  | .vabs o | .vneg o => o.wf e tI32
  | .vmin o | .vmax o => o.wf e tMM
  | .vclz o | .vpopc o => o.wf e t32
  | .vbfe o | .vbfi o => o.wf e
  | .vperm o => o.wf e tB32
  | .vsel o => o.wf e
  | .vcmp o => o.wf e
  | .vlea o => o.wf e
  | .vshf o => o.wf e
  | .vred o => o.wf e false
  | .vscan o => o.wf e true
  | .vbal o => o.wf e
  | .pand o | .por o | .pxor o => o.wf
  | .pnot o | .pmov o => o.wf
  | .pany _ | .pall _ => true
  | .fadd o | .fsub o | .fmul o => o.wf e fAll true true
  | .fmin o | .fmax o => o.wf e fAll true false
  | .ffma o => o.wf e fAll
  | .fabs o | .fneg o | .fclass o => o.wf e false
  | .frnd o => o.wf e true
  | .fcmp o => o.wf e
  | .hadd2 o | .hmul2 o => o.wf e fHalf false true
  | .hfma2 o | .fdot2 o => o.wf e fHalf
  | .frcp o | .frsq o | .fsqrt o | .fexp2 o | .flog2 o | .fsinpi o | .fcospi o | .ftanh o
  | .fsigm o => o.wf e false
  | .cvt o => o.wfBy cvtPair (cvtRegs o.dt) (cvtRegs o.st) e
  | .pack o => o.wfBy packPair 1 (perLane o.dt) e
  | .unpk o => o.wfBy unpkPair (perLane o.st) 1 e
  | .quant o => o.wfBy quantPair 1 1 e
  | .deq o => o.wfBy deqPair 1 1 e
  | .ld o => o.wf e false
  | .gath o => o.wf e true
  | .st o => o.wf e false
  | .scat o => o.wf e true
  | .atom o => o.wf e false
  | .red o => o.wf e true
  | .fix o | .gdrop o => o.wf e
  | .gtest o => o.wf e
  | .gdemShort o => e.v 1 o.d
  | .gdemAddress o => o.wf e
  | .tmov o => o.wf
  | .pref o => o.wf e
  | .mzero o => e.acc o.d
  | .mma o | .mmag o => o.wf e
  | .mtrn o => o.wf e
  | .mtrnDlt o => o.wf e
  | .mldw _ | .mldwSave _ | .mldwRaw _ => true
  | .mrda o => o.wf e
  | .mrdaStatus o => o.wf e
  | .mwra o => o.wf e
  | .mgang o => e.gang o.mask
  | .binit o => o.wf
  | .binv o => o.o.wf
  | .barv o => o.o.wf
  | .bexp o => o.o.wf
  | .bwait o => o.o.wf
  | .btest o => o.o.wf
  | .bbind o => o.o.wf
  | .cpy o => o.wf
  | .cpytLd o | .cpytSt o => o.wf
  | .chtest _ | .chwp _ | .tlsig _ | .tlrd _ => true
  | .fence o => o.wf
  | .creg _ | .cdreg _ => true
  | .comb o => o.wf e
  | .crep o => o.wf e
  | .xsend o => o.wf
  | .xfetch o => o.wf e
  | .xatom o => o.wf e false
  | .xatomNr o => o.wf e true
  | .xsig o => o.wf
  | .trap _ | .trapKill _ | .rte _ | .park _ | .yield _ | .ipref _ | .ipin _ | .iunpin _ | .launch _
  | .enq _ | .rsh _ => true
  | .srd o => o.wf e
  | .swr o => o.wf
  | .specialFunctionResult .. | .matrixEngineStart .. | .matrixInstructionDone .. | .gangTimeout ..
  | .barrierBytesCounted .. | .bindingFire .. | .copyChannelWord .. | .blockTransferBytes ..
  | .engineOperationComplete .. | .combinerRequestArrival .. | .skeinForm .. | .methodReturn ..
  | .methodFault .. | .methodTimeout .. | .combinerReplyWrite .. | .combinerGuardReject ..
  | .clauseStart .. | .codeFillArrival .. | .scoreboardRelease .. | .loadExpiry ..
  | .exactAnswerArrival .. | .lateAnswerArrival .. | .loadDestinationWrite .. | .tmovDeadline ..
  | .nearLeaseRecall .. | .routerPowerDown .. | .routerWake .. | .groupPlacement ..
  | .activeSetEntry .. | .parkRequest .. | .timeSliceExpiry .. | .parkTrap .. | .pageFaultPark ..
  | .redirectedValueWrite .. | .wakeCondition .. | .migrationRequest .. | .coreMapRewrite ..
  | .restoreStart .. | .groupKill .. | .groupRetire .. | .teamRetire .. | .bwaitWake ..
  | .kernelAccept .. | .kernelDrained .. | .outstandingAck .. | .kernelSignal .. | .errorRecordEntry ..
  | .queueHeadWatch .. | .queueBlockFetch .. | .queueDispatch .. | .queueLink .. | .queueRestart ..
  | .commandCompletion .. | .cmdNop .. | .cmdLaunch .. | .cmdWaittl .. | .cmdSigtl .. | .settlr ..
  | .map .. | .unmap .. | .reshard .. | .appendSwap .. | .create .. | .qreg | .qdrop | .recover
  | .destroy | .destructionComplete .. | .pretry | .pfail | .fwstage | .fwact | .health | .hwin
  | .migrate .. | .halt | .resume | .slice | .mailboxUnknownCode | .faultNoticeSend .. | .pageWalk ..
  | .pageMigration .. | .hostWindowRead .. | .hostWindowWrite .. | .hostAtomicop .. | .hrowcfgWrite ..
  | .eyeselWrite .. | .registerWrite .. | .rowActivationAlert .. | .eyeMarginLow .. | .poisonConsumed ..
  | .headerCrcFail | .errorSelfTest .. | .thermalTrip .. | .clockClamp .. | .powerClamp ..
  | .junctionShutdown | .reset | .powerGood | .stageReached .. | .portEnable .. | .linkTrainingResult ..
  | .linkError .. | .detourRetry .. | .flitReplay .. | .routeChange .. | .incarnationLearned ..
  | .stalePacketDrop .. | .fabricPacketArrival .. | .dropNotice .. | .reservationGrant ..
  | .grantWindowExpiry .. | .fabricAck .. | .planCompute .. | .reshardRunSend .. | .reshardRunAck ..
  | .planStop .. | .planDrained .. | .eyeMarginMeasurement .. | .apertureTableWrite .. => true

end Sys2Proof
end

