-- ==== Sys2Proof/Decode.lean ====
section
/-! DEFINITION. Decoding an instruction word in the order of R60, and encoding. A word that is no instruction is rejected with the slot code of R55. -/

namespace Sys2Proof

/-- The operand slots with their codes in $fopnd (R55). -/
inductive Slot where
  | guard | dst | srca | srcb | srcc | mod | ext | op
  deriving DecidableEq, Repr

def Slot.code : Slot → Nat
  | .guard => 0 | .dst => 1 | .srca => 2 | .srcb => 3 | .srcc => 4 | .mod => 5 | .ext => 6 | .op => 7

/-- A decoder's answer: a value, or the slot of the first failed check (R60). -/
abbrev Dec (α : Type) := Except Slot α

def chk (s : Slot) (b : Bool) : Dec Unit := if b then .ok () else .error s

def need {α : Type} (s : Slot) : Option α → Dec α
  | some x => .ok x
  | none => .error s

/-! ### Fields of the word (R54) -/

def fOp (w : Word) : BitVec 8 := w.extractLsb' 56 8
def fG (w : Word) : BitVec 4 := w.extractLsb' 52 4
def fMod (w : Word) : BitVec 4 := w.extractLsb' 48 4
def fD (w : Word) : BitVec 8 := w.extractLsb' 40 8
def fA (w : Word) : BitVec 8 := w.extractLsb' 32 8
def fB (w : Word) : BitVec 8 := w.extractLsb' 24 8
def fC (w : Word) : BitVec 8 := w.extractLsb' 16 8
def fExt (w : Word) : BitVec 16 := w.extractLsb' 0 16
def fImm (w : Word) : Lane := w.extractLsb' 0 32

/-- A word from its fields (R54). -/
def mkWord (op : BitVec 8) (g mod : BitVec 4) (d a b c : BitVec 8) (ext : BitVec 16) : Word :=
  (op ++ (g ++ (mod ++ (d ++ (a ++ (b ++ (c ++ ext)))))) : BitVec (8 + (4 + (4 + (8 + (8 + (8 + (8 + 16))))))))

/-- A word of the imm32 form (R54, R58). -/
def mkImm (op : BitVec 8) (g mod : BitVec 4) (d a : BitVec 8) (imm : Lane) : Word :=
  (op ++ (g ++ (mod ++ (d ++ (a ++ imm)))) : BitVec (8 + (4 + (4 + (8 + (8 + 32))))))

/-- A memory-format ext (R59). -/
def mkMem (sp : BitVec 2) (wd : BitVec 3) (lim : BitVec 4) (sc : BitVec 3) (scale sub : BitVec 2) : BitVec 16 :=
  (sp ++ (wd ++ (lim ++ (sc ++ (scale ++ sub)))) : BitVec (2 + (3 + (4 + (3 + (2 + 2))))))

/-- A register number of 0 to 255 in a slot. -/
def r8 {n : Nat} (x : Fin n) : BitVec 8 := BitVec.ofNat 8 x.val

/-! ### Codes of the enumerations -/

def IntTy.code : IntTy → BitVec 3
  | .i32 => 0 | .n32 => 1 | .b32 => 2 | .i64 => 4 | .n64 => 5 | .b64 => 6
def IntTy.ofCode (c : BitVec 3) : Option IntTy :=
  match c.toNat with
  | 0 => some .i32 | 1 => some .n32 | 2 => some .b32 | 4 => some .i64 | 5 => some .n64 | 6 => some .b64
  | _ => none

def FloatTy.code : FloatTy → BitVec 3
  | .f32 => 0 | .f16 => 1 | .bf16 => 2
def FloatTy.ofCode (c : BitVec 3) : Option FloatTy :=
  match c.toNat with
  | 0 => some .f32 | 1 => some .f16 | 2 => some .bf16
  | _ => none

/-- The format codes of R29. -/
def Fmt.code : Fmt → BitVec 5
  | .i8 => 0 | .i16 => 1 | .i32 => 2 | .i64 => 3 | .n8 => 4 | .n16 => 5 | .n32 => 6 | .n64 => 7
  | .b32 => 8 | .b64 => 9 | .f32 => 10 | .f16 => 11 | .bf16 => 12 | .e4m3 => 13 | .e5m2 => 14 | .e2m1 => 15
  | .mxe4m3 => 16 | .mxe5m2 => 17 | .mxe2m1 => 18 | .q4 => 19 | .t2 => 20 | .fa48 => 21 | .ia48 => 22
def Fmt.ofNum : Nat → Option Fmt
  | 0 => some .i8 | 1 => some .i16 | 2 => some .i32 | 3 => some .i64 | 4 => some .n8 | 5 => some .n16
  | 6 => some .n32 | 7 => some .n64 | 8 => some .b32 | 9 => some .b64 | 10 => some .f32 | 11 => some .f16
  | 12 => some .bf16 | 13 => some .e4m3 | 14 => some .e5m2 | 15 => some .e2m1 | 16 => some .mxe4m3
  | 17 => some .mxe5m2 | 18 => some .mxe2m1 | 19 => some .q4 | 20 => some .t2 | 21 => some .fa48
  | 22 => some .ia48
  | _ => none
def Fmt.ofCode (c : BitVec 5) : Option Fmt := Fmt.ofNum c.toNat

def Rm.code : Rm → BitVec 2
  | .rn => 0 | .rz => 1 | .rd => 2 | .ru => 3
def Rm.ofCode (c : BitVec 2) : Rm :=
  match c.toNat with
  | 0 => .rn | 1 => .rz | 2 => .rd | _ => .ru

def Space.code : Space → BitVec 2
  | .g => 0 | .k => 1 | .q => 2 | .d => 3
def Space.ofCode (c : BitVec 2) : Space :=
  match c.toNat with
  | 0 => .g | 1 => .k | 2 => .q | _ => .d

def Scope.code : Scope → BitVec 3
  | .team => 0 | .core => 1 | .quad => 2 | .die => 3 | .pkg => 4 | .pod => 5
def Scope.ofCode (c : BitVec 3) : Option Scope :=
  match c.toNat with
  | 0 => some .team | 1 => some .core | 2 => some .quad | 3 => some .die | 4 => some .pkg | 5 => some .pod
  | _ => none

def MemOrder.code : MemOrder → BitVec 2
  | .plain => 0 | .acq => 1 | .rel => 2 | .acqrel => 3
def MemOrder.ofCode (c : BitVec 2) : MemOrder :=
  match c.toNat with
  | 0 => .plain | 1 => .acq | 2 => .rel | _ => .acqrel

def Width.code : Width → BitVec 3
  | .w8 => 0 | .w16 => 1 | .w32 => 2 | .w64 => 3 | .w128 => 4
def Width.ofCode (c : BitVec 3) : Option Width :=
  match c.toNat with
  | 0 => some .w8 | 1 => some .w16 | 2 => some .w32 | 3 => some .w64 | 4 => some .w128
  | _ => none

def Cond.code : Cond → BitVec 3
  | .eq => 0 | .ne => 1 | .lt => 2 | .le => 3 | .gt => 4 | .ge => 5
def Cond.ofCode (c : BitVec 3) : Option Cond :=
  match c.toNat with
  | 0 => some .eq | 1 => some .ne | 2 => some .lt | 3 => some .le | 4 => some .gt | 5 => some .ge
  | _ => none

/-- The condition codes of R121. -/
def FCond.code : FCond → BitVec 4
  | .rel c u => BitVec.ofBool u ++ c.code
  | .num => 6
  | .nan => 14
def FCond.ofCode (c : BitVec 4) : Option FCond :=
  match Cond.ofCode (c.extractLsb' 0 3) with
  | some k => some (.rel k (c.getLsbD 3))
  | none => if c = 6 then some .num else if c = 14 then some .nan else none

def RedOp.code : RedOp → BitVec 3
  | .add => 0 | .min => 1 | .max => 2 | .and => 3 | .or => 4 | .xor => 5
def RedOp.ofCode (c : BitVec 3) : Option RedOp :=
  match c.toNat with
  | 0 => some .add | 1 => some .min | 2 => some .max | 3 => some .and | 4 => some .or | 5 => some .xor
  | _ => none

def AtomOp.code : AtomOp → BitVec 4
  | .add => 0 | .min => 1 | .max => 2 | .and => 3 | .or => 4 | .xor => 5 | .xchg => 6 | .cas => 7 | .addF32 => 8
def AtomOp.ofCode (c : BitVec 4) : Option AtomOp :=
  match c.toNat with
  | 0 => some .add | 1 => some .min | 2 => some .max | 3 => some .and | 4 => some .or | 5 => some .xor
  | 6 => some .xchg | 7 => some .cas | 8 => some .addF32
  | _ => none

def Placement.code : Placement → BitVec 2
  | .auto => 0 | .near => 1 | .home => 2
def Placement.ofCode (c : BitVec 2) : Option Placement :=
  match c.toNat with
  | 0 => some .auto | 1 => some .near | 2 => some .home
  | _ => none

def Shape.code : Shape → BitVec 3
  | .k64 => 0 | .k128 => 1 | .k256 => 2
def Shape.ofCode (c : BitVec 3) : Option Shape :=
  match c.toNat with
  | 0 => some .k64 | 1 => some .k128 | 2 => some .k256
  | _ => none

def BindKind.code : BindKind → BitVec 11
  | .tl => 0 | .chunk => 1 | .watch => 2
def BindKind.ofCode (c : BitVec 11) : Option BindKind :=
  match c.toNat with
  | 0 => some .tl | 1 => some .chunk | 2 => some .watch
  | _ => none

def SigOp.code : SigOp → BitVec 2
  | .st => 0 | .max => 1 | .add => 2 | .cnt => 3
def SigOp.ofCode (c : BitVec 2) : SigOp :=
  match c.toNat with
  | 0 => .st | 1 => .max | 2 => .add | _ => .cnt

/-- The barrier-space field of CPY and CPYT (R228). -/
def barCode : Option Space → BitVec 3
  | none => 0 | some .k => 1 | some .q => 2 | some .d => 3 | some .g => 4
def barOf (c : BitVec 3) : Option (Option Space) :=
  match c.toNat with
  | 0 => some none | 1 => some (some .k) | 2 => some (some .q) | 3 => some (some .d) | 4 => some (some .g)
  | _ => none

/-! ### Guards (R56) -/

def LaneGuard.code (g : LaneGuard) : BitVec 4 := BitVec.ofBool g.neg ++ BitVec.ofNat 3 g.p.val
def laneGuard (g : BitVec 4) : LaneGuard :=
  { neg := g.getLsbD 3, p := ⟨(g.extractLsb' 0 3).toNat, (g.extractLsb' 0 3).isLt⟩ }

def TeamGuard.code (g : TeamGuard) : BitVec 4 :=
  BitVec.ofBool g.neg ++ (match g.q with
    | none => (0 : BitVec 3)
    | some q => BitVec.ofNat 3 (4 + q.val))
def teamGuard (g : BitVec 4) : Dec TeamGuard :=
  let n := (g.extractLsb' 0 3).toNat
  if n = 0 then .ok { neg := g.getLsbD 3, q := none }
  else if 4 ≤ n then .ok { neg := g.getLsbD 3, q := some (Fin.ofNat 4 (n - 4)) }
  else .error .guard

/-! ### Slots (R55) -/

def dS (s : Slot) (x : BitVec 8) : Dec (Fin 64) :=
  if h : x.toNat < 64 then .ok ⟨x.toNat, h⟩ else .error s
def dV (e : Env) (s : Slot) (n : Nat) (x : BitVec 8) : Dec (Fin 256) :=
  let v : Fin 256 := ⟨x.toNat, x.isLt⟩
  if e.v n v then .ok v else .error s
def dRun (e : Env) (s : Slot) (a n : Nat) (x : BitVec 8) : Dec (Fin 256) :=
  let v : Fin 256 := ⟨x.toNat, x.isLt⟩
  if e.run a n v then .ok v else .error s
def dP (s : Slot) (x : BitVec 8) : Dec (Fin 8) :=
  if h : x.toNat < 8 then .ok ⟨x.toNat, h⟩ else .error s
def dPdst (s : Slot) (x : BitVec 8) : Dec (Fin 8) :=
  if h : x.toNat < 8 then (if x.toNat = 0 then .error s else .ok ⟨x.toNat, h⟩) else .error s
def dQ (s : Slot) (x : BitVec 8) : Dec (Fin 4) :=
  if 8 ≤ x.toNat ∧ x.toNat < 12 then .ok (Fin.ofNat 4 (x.toNat - 8)) else .error s
def dAcc (e : Env) (s : Slot) (x : BitVec 8) : Dec (Fin 8) :=
  if h : x.toNat < 8 then (if e.acc ⟨x.toNat, h⟩ then .ok ⟨x.toNat, h⟩ else .error s) else .error s
def dZero (s : Slot) (x : BitVec 8) : Dec Unit := chk s (x == 0)
/-- A predicate slot of either kind: p0 to p7, then q0 to q3. -/
def dPred (s : Slot) (x : BitVec 8) : Dec PredReg :=
  if h : x.toNat < 8 then .ok (.p ⟨x.toNat, h⟩)
  else if x.toNat < 12 then .ok (.q (Fin.ofNat 4 (x.toNat - 8))) else .error s
def qCode (q : Fin 4) : BitVec 8 := BitVec.ofNat 8 (8 + q.val)
def PredReg.code : PredReg → BitVec 8
  | .p i => r8 i
  | .q i => qCode i

/-- A vector source that may be a scalar broadcast (R58). -/
def dVSrc (e : Env) (s : Slot) (n : Nat) (bc : Bool) (x : BitVec 8) : Dec VSrc :=
  if bc then (dS s x).map .bcast else (dV e s n x).map .reg
def VSrc.num : VSrc → BitVec 8
  | .reg v => r8 v
  | .bcast s => r8 s
  | .imm _ => 0
def VSrc.isB : VSrc → Bool
  | .bcast _ => true
  | _ => false

/-- The bits of ext outside a mask are zero. -/
def extIn (x mask : BitVec 16) : Dec Unit := chk .ext ((x &&& ~~~mask) == 0)

/-- The broadcast bits and the rounding code of an ALU ext (R58). -/
def mkAlu (bb bc : Bool) (rm : BitVec 2) (sat : Bool) (low : BitVec 11) : BitVec 16 :=
  (BitVec.ofBool bb ++ (BitVec.ofBool bc ++ (rm ++ (BitVec.ofBool sat ++ low))) : BitVec (1 + (1 + (2 + (1 + 11)))))
def aluLow (x : BitVec 16) : BitVec 11 := x.extractLsb' 0 11
def aluRm (x : BitVec 16) : BitVec 2 := x.extractLsb' 12 2

/-! ### Control and scalar shapes (R98, R100-R102, R112) -/

def modIs (w : Word) (m : BitVec 4) : Dec Unit := chk .mod (fMod w == m)
def extIs (w : Word) (x : BitVec 16) : Dec Unit := chk .ext (fExt w == x)

/-- A word whose only field is its team guard. -/
def dNone (w : Word) : Dec TeamGuard := do
  let g ← teamGuard (fG w)
  modIs w 0
  extIs w 0
  dZero .dst (fD w); dZero .srca (fA w); dZero .srcb (fB w); dZero .srcc (fC w)
  return g
def eNone (op : BitVec 8) (g : TeamGuard) : Word := mkWord op g.code 0 0 0 0 0 0

def dBra (w : Word) : Dec BranchOps := do
  let g ← teamGuard (fG w)
  modIs w 0
  dZero .dst (fD w); dZero .srca (fA w)
  return { g, off := fImm w }
def eBra (op : BitVec 8) (o : BranchOps) : Word := mkImm op o.g.code 0 0 0 o.off

/-- The sense field of BRQ and BRD: 0 or 1 (R112). -/
def dSense (x : BitVec 8) : Dec Bool :=
  if x = 0 then .ok false else if x = 1 then .ok true else .error .dst
def senseCode (b : Bool) : BitVec 8 := if b then 1 else 0

def dBrq (w : Word) : Dec BrqOps := do
  let g ← teamGuard (fG w)
  modIs w 0
  let sense ← dSense (fD w)
  let q ← dQ .srca (fA w)
  return { g, sense, q, off := fImm w }
def eBrq (op : BitVec 8) (o : BrqOps) : Word := mkImm op o.g.code 0 (senseCode o.sense) (qCode o.q) o.off

def dBrd (w : Word) : Dec BrdOps := do
  let g := laneGuard (fG w)
  modIs w 0
  let sense ← dSense (fD w)
  let p ← dP .srca (fA w)
  return { g, sense, p, off := fImm w }
def eBrd (op : BitVec 8) (o : BrdOps) : Word := mkImm op o.g.code 0 (senseCode o.sense) (r8 o.p) o.off

def dLoop (w : Word) : Dec SBranchOps := do
  let g ← teamGuard (fG w)
  modIs w 0
  let s ← dS .srca (fA w)
  dZero .dst (fD w)
  return { g, s, off := fImm w }
def eLoop (op : BitVec 8) (o : SBranchOps) : Word := mkImm op o.g.code 0 0 (r8 o.s) o.off

/-- CALL and SLDA: a scalar destination and an offset. -/
def dCall (m : BitVec 4) (w : Word) : Dec SBranchOps := do
  let g ← teamGuard (fG w)
  modIs w m
  let s ← dS .dst (fD w)
  dZero .srca (fA w)
  return { g, s, off := fImm w }
def eCall (op : BitVec 8) (m : BitVec 4) (o : SBranchOps) : Word := mkImm op o.g.code m (r8 o.s) 0 o.off

def dRet (w : Word) : Dec RetOps := do
  let g ← teamGuard (fG w)
  modIs w 0
  extIs w 0
  let s ← dS .srca (fA w)
  dZero .dst (fD w); dZero .srcb (fB w); dZero .srcc (fC w)
  return { g, s }
def eRet (op : BitVec 8) (o : RetOps) : Word := mkWord op o.g.code 0 0 (r8 o.s) 0 0 0

def dCode (m : BitVec 4) (w : Word) : Dec CodeOps := do
  let g ← teamGuard (fG w)
  modIs w m
  dZero .dst (fD w); dZero .srca (fA w); dZero .srcb (fB w); dZero .srcc (fC w)
  return { g, code := fExt w }
def eCode (op : BitVec 8) (m : BitVec 4) (o : CodeOps) : Word := mkWord op o.g.code m 0 0 0 0 o.code

/-- The type code of mod bits 50:48, one of those listed (R96, R98). -/
def dTy (tys : List IntTy) (w : Word) : Dec IntTy :=
  match IntTy.ofCode ((fMod w).extractLsb' 0 3) with
  | none => .error .mod
  | some t => if tys.contains t then .ok t else .error .mod
def immBit (w : Word) : Bool := (fMod w).getLsbD 3
def IntTy.mod (t : IntTy) (imm : Bool) : BitVec 4 := BitVec.ofBool imm ++ t.code

def dSUn (w : Word) : Dec SUnOps := do
  let g ← teamGuard (fG w)
  let ty ← dTy tAll w
  chk .mod (!immBit w)
  extIs w 0
  let d ← dS .dst (fD w)
  let a ← dS .srca (fA w)
  dZero .srcb (fB w); dZero .srcc (fC w)
  return { g, ty, d, a }
def eSUn (op : BitVec 8) (o : SUnOps) : Word := mkWord op o.g.code (o.ty.mod false) (r8 o.d) (r8 o.a) 0 0 0

def dSImm (w : Word) : Dec SImmOps := do
  let g ← teamGuard (fG w)
  let ty ← dTy tAll w
  chk .mod (immBit w)
  let d ← dS .dst (fD w)
  dZero .srca (fA w)
  return { g, ty, d, imm := fImm w }
def eSImm (op : BitVec 8) (o : SImmOps) : Word := mkImm op o.g.code (o.ty.mod true) (r8 o.d) 0 o.imm

def dSBin (tys : List IntTy) (w : Word) : Dec SBinOps := do
  let g ← teamGuard (fG w)
  let ty ← dTy tys w
  if immBit w then
    let d ← dS .dst (fD w)
    let a ← dS .srca (fA w)
    return { g, ty, d, a, b := .imm (fImm w) }
  else
    extIs w 0
    let d ← dS .dst (fD w)
    let a ← dS .srca (fA w)
    let b ← dS .srcb (fB w)
    dZero .srcc (fC w)
    return { g, ty, d, a, b := .reg b }
def eSBin (op : BitVec 8) (o : SBinOps) : Word :=
  match o.b with
  | .imm x => mkImm op o.g.code (o.ty.mod true) (r8 o.d) (r8 o.a) x
  | .reg b => mkWord op o.g.code (o.ty.mod false) (r8 o.d) (r8 o.a) (r8 b) 0 0

/-- The condition of SCMP and VCMP in srcc (R101). -/
def dCond (x : BitVec 8) : Dec Cond :=
  if x.extractLsb' 3 5 = 0 then need .srcc (Cond.ofCode (x.extractLsb' 0 3)) else .error .srcc
def condCode (c : Cond) : BitVec 8 := ((0 : BitVec 5) ++ c.code : BitVec (5 + 3))

def dSCmp (w : Word) : Dec SCmpOps := do
  let g ← teamGuard (fG w)
  let ty ← dTy tAll w
  if immBit w then
    let d ← dQ .dst (fD w)
    let a ← dS .srca (fA w)
    let c ← dCond (fC w)
    dZero .srcb (fB w)
    return { g, ty, c, d, a, b := .imm (fExt w) }
  else
    extIs w 0
    let d ← dQ .dst (fD w)
    let a ← dS .srca (fA w)
    let b ← dS .srcb (fB w)
    let c ← dCond (fC w)
    return { g, ty, c, d, a, b := .reg b }
def eSCmp (op : BitVec 8) (o : SCmpOps) : Word :=
  match o.b with
  | .imm x => mkWord op o.g.code (o.ty.mod true) (qCode o.d) (r8 o.a) 0 (condCode o.c) x
  | .reg b => mkWord op o.g.code (o.ty.mod false) (qCode o.d) (r8 o.a) (r8 b) (condCode o.c) 0

def dSSel (w : Word) : Dec SSelOps := do
  let g ← teamGuard (fG w)
  let ty ← dTy tAll w
  chk .mod (!immBit w)
  extIs w 0
  let d ← dS .dst (fD w)
  let a ← dS .srca (fA w)
  let b ← dS .srcb (fB w)
  let c ← dQ .srcc (fC w)
  return { g, ty, d, a, b, c }
def eSSel (op : BitVec 8) (o : SSelOps) : Word :=
  mkWord op o.g.code (o.ty.mod false) (r8 o.d) (r8 o.a) (r8 o.b) (qCode o.c) 0

/-! ### Vector integer shapes (R103-R109) -/

def dVUn (e : Env) (tys : List IntTy) (w : Word) : Dec VUnOps := do
  let ty ← dTy tys w
  chk .mod (!immBit w)
  extIs w 0
  let d ← dV e .dst ty.regs (fD w)
  let a ← dV e .srca ty.regs (fA w)
  dZero .srcb (fB w); dZero .srcc (fC w)
  return { g := laneGuard (fG w), ty, d, a }
def eVUn (op : BitVec 8) (o : VUnOps) : Word := mkWord op o.g.code (o.ty.mod false) (r8 o.d) (r8 o.a) 0 0 0

def dVImm (e : Env) (w : Word) : Dec VImmOps := do
  let ty ← dTy tAll w
  chk .mod (immBit w)
  let d ← dV e .dst ty.regs (fD w)
  dZero .srca (fA w)
  return { g := laneGuard (fG w), ty, d, imm := fImm w }
def eVImm (op : BitVec 8) (o : VImmOps) : Word := mkImm op o.g.code (o.ty.mod true) (r8 o.d) 0 o.imm

def dVBcst (e : Env) (w : Word) : Dec VBcstOps := do
  let ty ← dTy tAll w
  chk .mod (!immBit w)
  extIs w 0
  let d ← dV e .dst ty.regs (fD w)
  let a ← dS .srca (fA w)
  dZero .srcb (fB w); dZero .srcc (fC w)
  return { g := laneGuard (fG w), ty, d, a }
def eVBcst (op : BitVec 8) (o : VBcstOps) : Word := mkWord op o.g.code (o.ty.mod false) (r8 o.d) (r8 o.a) 0 0 0

def dVBin (e : Env) (tys : List IntTy) (w : Word) : Dec VBinOps := do
  let ty ← dTy tys w
  if immBit w then
    let d ← dV e .dst ty.regs (fD w)
    let a ← dV e .srca ty.regs (fA w)
    return { g := laneGuard (fG w), ty, d, a, b := .imm (fImm w) }
  else
    let x := fExt w
    extIn x 0x8000
    let d ← dV e .dst ty.regs (fD w)
    let a ← dV e .srca ty.regs (fA w)
    let b ← dVSrc e .srcb ty.regs (x.getLsbD 15) (fB w)
    dZero .srcc (fC w)
    return { g := laneGuard (fG w), ty, d, a, b }
def eVBin (op : BitVec 8) (o : VBinOps) : Word :=
  match o.b with
  | .imm x => mkImm op o.g.code (o.ty.mod true) (r8 o.d) (r8 o.a) x
  | b => mkWord op o.g.code (o.ty.mod false) (r8 o.d) (r8 o.a) b.num 0 (mkAlu b.isB false 0 false 0)

def dVTri (e : Env) (tys : List IntTy) (w : Word) : Dec VTriOps := do
  let ty ← dTy tys w
  chk .mod (!immBit w)
  let x := fExt w
  extIn x 0xC000
  let d ← dV e .dst ty.regs (fD w)
  let a ← dV e .srca ty.regs (fA w)
  let b ← dVSrc e .srcb ty.regs (x.getLsbD 15) (fB w)
  let c ← dVSrc e .srcc ty.regs (x.getLsbD 14) (fC w)
  return { g := laneGuard (fG w), ty, d, a, b, c }
def eVTri (op : BitVec 8) (o : VTriOps) : Word :=
  mkWord op o.g.code (o.ty.mod false) (r8 o.d) (r8 o.a) o.b.num o.c.num (mkAlu o.b.isB o.c.isB 0 false 0)

/-- The immediate field of VBFE and VBFI: pos in 4:0, len in 13:8, at most 32 (R104). -/
def fieldImm (pos : Fin 32) (len : Fin 33) : Lane :=
  ((0 : BitVec 18) ++ (BitVec.ofNat 6 len.val ++ ((0 : BitVec 3) ++ BitVec.ofNat 5 pos.val)) :
    BitVec (18 + (6 + (3 + 5))))

def dVBf (e : Env) (w : Word) : Dec VBfOps := do
  let ty ← dTy t32 w
  if immBit w then
    let x := fImm w
    let len := (x.extractLsb' 8 6).toNat
    chk .ext ((x &&& ~~~(0x3F1F : Lane)) == 0 && decide (len ≤ 32))
    let d ← dV e .dst 1 (fD w)
    let a ← dV e .srca 1 (fA w)
    return { g := laneGuard (fG w), ty, d, a,
             f := .imm ⟨(x.extractLsb' 0 5).toNat, (x.extractLsb' 0 5).isLt⟩ (Fin.ofNat 33 len) }
  else
    let x := fExt w
    extIn x 0xC000
    let d ← dV e .dst 1 (fD w)
    let a ← dV e .srca 1 (fA w)
    let b ← dVSrc e .srcb 1 (x.getLsbD 15) (fB w)
    let c ← dVSrc e .srcc 1 (x.getLsbD 14) (fC w)
    return { g := laneGuard (fG w), ty, d, a, f := .src b c }
def eVBf (op : BitVec 8) (o : VBfOps) : Word :=
  match o.f with
  | .imm pos len => mkImm op o.g.code (o.ty.mod true) (r8 o.d) (r8 o.a) (fieldImm pos len)
  | .src b c => mkWord op o.g.code (o.ty.mod false) (r8 o.d) (r8 o.a) b.num c.num (mkAlu b.isB c.isB 0 false 0)

/-- The second source of VSEL and VCMP in its register form. -/
def dVSrc16 (e : Env) (n : Nat) (bc : Bool) (x : BitVec 8) : Dec VSrc16 :=
  if bc then (dS .srcb x).map .bcast else (dV e .srcb n x).map .reg
def VSrc16.num : VSrc16 → BitVec 8
  | .reg v => r8 v
  | .bcast s => r8 s
  | .imm _ => 0
def VSrc16.isImm : VSrc16 → Bool
  | .imm _ => true
  | _ => false
def VSrc16.ext : VSrc16 → BitVec 16
  | .imm x => x
  | .bcast _ => mkAlu true false 0 false 0
  | .reg _ => mkAlu false false 0 false 0

def dVSel (e : Env) (w : Word) : Dec VSelOps := do
  let ty ← dTy tAll w
  let x := fExt w
  if immBit w then
    let d ← dV e .dst ty.regs (fD w)
    let a ← dV e .srca ty.regs (fA w)
    let c ← dP .srcc (fC w)
    dZero .srcb (fB w)
    return { g := laneGuard (fG w), ty, d, a, b := .imm x, c }
  else
    extIn x 0x8000
    let d ← dV e .dst ty.regs (fD w)
    let a ← dV e .srca ty.regs (fA w)
    let b ← dVSrc16 e ty.regs (x.getLsbD 15) (fB w)
    let c ← dP .srcc (fC w)
    return { g := laneGuard (fG w), ty, d, a, b, c }
def eVSel (op : BitVec 8) (o : VSelOps) : Word :=
  mkWord op o.g.code (o.ty.mod o.b.isImm) (r8 o.d) (r8 o.a) o.b.num (r8 o.c) o.b.ext

def dVCmp (e : Env) (w : Word) : Dec VCmpOps := do
  let ty ← dTy tAll w
  let x := fExt w
  if immBit w then
    let d ← dPdst .dst (fD w)
    let a ← dV e .srca ty.regs (fA w)
    let c ← dCond (fC w)
    dZero .srcb (fB w)
    return { g := laneGuard (fG w), ty, c, d, a, b := .imm x }
  else
    extIn x 0x8000
    let d ← dPdst .dst (fD w)
    let a ← dV e .srca ty.regs (fA w)
    let b ← dVSrc16 e ty.regs (x.getLsbD 15) (fB w)
    let c ← dCond (fC w)
    return { g := laneGuard (fG w), ty, c, d, a, b }
def eVCmp (op : BitVec 8) (o : VCmpOps) : Word :=
  mkWord op o.g.code (o.ty.mod o.b.isImm) (r8 o.d) (r8 o.a) o.b.num (condCode o.c) o.b.ext

def dVLea (e : Env) (w : Word) : Dec VLeaOps := do
  modIs w 0
  let x := fExt w
  extIn x 0x801F
  let d ← dV e .dst 1 (fD w)
  let a ← dS .srca (fA w)
  let b ← dVSrc e .srcb 1 (x.getLsbD 15) (fB w)
  dZero .srcc (fC w)
  return { g := laneGuard (fG w), d, a, b, k := ⟨(x.extractLsb' 0 5).toNat, (x.extractLsb' 0 5).isLt⟩ }
def eVLea (op : BitVec 8) (o : VLeaOps) : Word :=
  mkWord op o.g.code 0 (r8 o.d) (r8 o.a) o.b.num 0 (mkAlu o.b.isB false 0 false (BitVec.ofNat 11 o.k.val))

def dVShf (e : Env) (w : Word) : Dec VShfOps := do
  let ty ← dTy tAll w
  chk .mod (!immBit w)
  let x := fExt w
  let form := (x.extractLsb' 9 2).toNat
  let n : Fin 32 := ⟨(x.extractLsb' 0 5).toNat, (x.extractLsb' 0 5).isLt⟩
  if form = 0 then
    extIn x 0x8000
    let d ← dV e .dst ty.regs (fD w)
    let a ← dV e .srca ty.regs (fA w)
    let b ← dVSrc e .srcb 1 (x.getLsbD 15) (fB w)
    dZero .srcc (fC w)
    return { g := laneGuard (fG w), ty, d, a, f := .idx b }
  else
    extIn x 0x061F
    let d ← dV e .dst ty.regs (fD w)
    let a ← dV e .srca ty.regs (fA w)
    dZero .srcb (fB w); dZero .srcc (fC w)
    return { g := laneGuard (fG w), ty, d, a,
             f := if form = 1 then .up n else if form = 2 then .dn n else .bfly n }
def ShfForm.num : ShfForm → BitVec 8
  | .idx b => b.num
  | _ => 0
def ShfForm.ext : ShfForm → BitVec 16
  | .idx b => mkAlu b.isB false 0 false 0
  | .up n => mkAlu false false 0 false (BitVec.ofNat 11 (512 + n.val))
  | .dn n => mkAlu false false 0 false (BitVec.ofNat 11 (1024 + n.val))
  | .bfly n => mkAlu false false 0 false (BitVec.ofNat 11 (1536 + n.val))
def eVShf (op : BitVec 8) (o : VShfOps) : Word :=
  mkWord op o.g.code (o.ty.mod false) (r8 o.d) (r8 o.a) o.f.num 0 o.f.ext

/-- .min and .max exclude b types: their type code is not listed, slot 5 (R99, R108). -/
def redTys (x : BitVec 16) : List IntTy :=
  let op := (x.extractLsb' 8 3).toNat
  if op = 1 ∨ op = 2 then tMM else tAll
def dVRed (e : Env) (scan : Bool) (w : Word) : Dec VRedOps := do
  let x := fExt w
  let ty ← dTy (redTys x) w
  chk .mod (!immBit w)
  extIn x (if scan then 0x0780 else 0x0700)
  let op ← need .ext (RedOp.ofCode (x.extractLsb' 8 3))
  let d ← dV e .dst ty.regs (fD w)
  let a ← dV e .srca ty.regs (fA w)
  dZero .srcb (fB w); dZero .srcc (fC w)
  return { g := laneGuard (fG w), ty, op, excl := x.getLsbD 7, d, a }
def redExt (op : RedOp) (excl : Bool) : BitVec 16 :=
  ((0 : BitVec 5) ++ (op.code ++ (BitVec.ofBool excl ++ (0 : BitVec 7))) : BitVec (5 + (3 + (1 + 7))))
def eVRed (op : BitVec 8) (o : VRedOps) : Word :=
  mkWord op o.g.code (o.ty.mod false) (r8 o.d) (r8 o.a) 0 0 (redExt o.op o.excl)

def dVBal (e : Env) (w : Word) : Dec VBalOps := do
  modIs w 0
  extIs w 0
  let d ← dV e .dst 1 (fD w)
  let p ← dP .srca (fA w)
  dZero .srcb (fB w); dZero .srcc (fC w)
  return { g := laneGuard (fG w), d, p }
def eVBal (op : BitVec 8) (o : VBalOps) : Word := mkWord op o.g.code 0 (r8 o.d) (r8 o.p) 0 0 0

/-! ### Predicate shapes (R110, R111) -/

/-- The guard of a form whose destination may be a scalar predicate: then (p0) only. -/
def dPredGuard (isQ : Bool) (g : BitVec 4) : Dec LaneGuard :=
  if isQ && g != 0 then .error .guard else .ok (laneGuard g)
/-- A destination code names a scalar predicate. -/
def qSlot (x : BitVec 8) : Bool := decide (8 ≤ x.toNat) && decide (x.toNat < 12)
def dPredDst (x : BitVec 8) : Dec PredReg :=
  if qSlot x then (dQ .dst x).map .q else (dPdst .dst x).map .p
def dPredSrc (s : Slot) (isQ : Bool) (x : BitVec 8) : Dec PredReg :=
  if isQ then (dQ s x).map .q else (dP s x).map .p

def dPBin (w : Word) : Dec PBinOps := do
  let k := qSlot (fD w)
  let g ← dPredGuard k (fG w)
  modIs w 0
  extIs w 0
  let d ← dPredDst (fD w)
  let a ← dPredSrc .srca k (fA w)
  let b ← dPredSrc .srcb k (fB w)
  dZero .srcc (fC w)
  return { g, d, a, b }
def ePBin (op : BitVec 8) (o : PBinOps) : Word := mkWord op o.g.code 0 o.d.code o.a.code o.b.code 0 0

def dPUn (w : Word) : Dec PUnOps := do
  let k := qSlot (fD w)
  let g ← dPredGuard k (fG w)
  modIs w 0
  extIs w 0
  let d ← dPredDst (fD w)
  let a ← dPredSrc .srca k (fA w)
  dZero .srcb (fB w); dZero .srcc (fC w)
  return { g, d, a }
def ePUn (op : BitVec 8) (o : PUnOps) : Word := mkWord op o.g.code 0 o.d.code o.a.code 0 0 0

def dPAny (w : Word) : Dec PAnyOps := do
  modIs w 0
  extIs w 0
  let d ← dQ .dst (fD w)
  let a ← dP .srca (fA w)
  dZero .srcb (fB w); dZero .srcc (fC w)
  return { g := laneGuard (fG w), d, a }
def ePAny (op : BitVec 8) (o : PAnyOps) : Word := mkWord op o.g.code 0 (qCode o.d) (r8 o.a) 0 0 0

/-! ### Floating shapes (R115-R132) -/

def dFTy (tys : List FloatTy) (w : Word) : Dec FloatTy :=
  match FloatTy.ofCode ((fMod w).extractLsb' 0 3) with
  | none => .error .mod
  | some t => if tys.contains t then .ok t else .error .mod
def FloatTy.mod (t : FloatTy) (imm : Bool) : BitVec 4 := BitVec.ofBool imm ++ t.code

def dFBin (e : Env) (tys : List FloatTy) (imm rnd : Bool) (w : Word) : Dec FBinOps := do
  let ty ← dFTy tys w
  if immBit w then
    chk .mod imm
    chk .ext (immExact ty (fImm w)).isSome
    let d ← dV e .dst 1 (fD w)
    let a ← dV e .srca 1 (fA w)
    return { g := laneGuard (fG w), ty, rm := .rn, d, a, b := .imm (fImm w) }
  else
    let x := fExt w
    extIn x (if rnd then 0xB000 else 0x8000)
    let d ← dV e .dst 1 (fD w)
    let a ← dV e .srca 1 (fA w)
    let b ← dVSrc e .srcb 1 (x.getLsbD 15) (fB w)
    dZero .srcc (fC w)
    return { g := laneGuard (fG w), ty, rm := Rm.ofCode (aluRm x), d, a, b }
def eFBin (op : BitVec 8) (o : FBinOps) : Word :=
  match o.b with
  | .imm x => mkImm op o.g.code (o.ty.mod true) (r8 o.d) (r8 o.a) x
  | b => mkWord op o.g.code (o.ty.mod false) (r8 o.d) (r8 o.a) b.num 0 (mkAlu b.isB false o.rm.code false 0)

def dFTri (e : Env) (tys : List FloatTy) (w : Word) : Dec FTriOps := do
  let ty ← dFTy tys w
  chk .mod (!immBit w)
  let x := fExt w
  extIn x 0xF000
  let d ← dV e .dst 1 (fD w)
  let a ← dV e .srca 1 (fA w)
  let b ← dVSrc e .srcb 1 (x.getLsbD 15) (fB w)
  let c ← dVSrc e .srcc 1 (x.getLsbD 14) (fC w)
  return { g := laneGuard (fG w), ty, rm := Rm.ofCode (aluRm x), d, a, b, c }
def eFTri (op : BitVec 8) (o : FTriOps) : Word :=
  mkWord op o.g.code (o.ty.mod false) (r8 o.d) (r8 o.a) o.b.num o.c.num (mkAlu o.b.isB o.c.isB o.rm.code false 0)

def dFUn (e : Env) (rnd : Bool) (w : Word) : Dec FUnOps := do
  let ty ← dFTy fAll w
  chk .mod (!immBit w)
  let x := fExt w
  extIn x (if rnd then 0x3000 else 0)
  let d ← dV e .dst 1 (fD w)
  let a ← dV e .srca 1 (fA w)
  dZero .srcb (fB w); dZero .srcc (fC w)
  return { g := laneGuard (fG w), ty, rm := Rm.ofCode (aluRm x), d, a }
def eFUn (op : BitVec 8) (o : FUnOps) : Word :=
  mkWord op o.g.code (o.ty.mod false) (r8 o.d) (r8 o.a) 0 0 (mkAlu false false o.rm.code false 0)

/-- The condition of FCMP in srcc bits 19:16 (R121). -/
def dFCond (x : BitVec 8) : Dec FCond :=
  if x.extractLsb' 4 4 = 0 then need .srcc (FCond.ofCode (x.extractLsb' 0 4)) else .error .srcc
def fcondCode (c : FCond) : BitVec 8 := ((0 : BitVec 4) ++ c.code : BitVec (4 + 4))

def dFCmp (e : Env) (w : Word) : Dec FCmpOps := do
  let ty ← dFTy fAll w
  chk .mod (!immBit w)
  let x := fExt w
  extIn x 0x8000
  let d ← dPdst .dst (fD w)
  let a ← dV e .srca 1 (fA w)
  let b ← dVSrc e .srcb 1 (x.getLsbD 15) (fB w)
  let c ← dFCond (fC w)
  return { g := laneGuard (fG w), ty, c, d, a, b }
def eFCmp (op : BitVec 8) (o : FCmpOps) : Word :=
  mkWord op o.g.code (o.ty.mod false) (r8 o.d) (r8 o.a) o.b.num (fcondCode o.c) (mkAlu o.b.isB false 0 false 0)

/-- CVT, PACK, UNPK, QUANT, DEQ: ext holds the formats, the rounding code and .sat (R128). -/
def dCvt (pair : Fmt → Fmt → Option (Bool × Bool)) (dn sn : Fmt → Fmt → Nat) (e : Env) (w : Word) : Dec CvtOps := do
  modIs w 0
  let x := fExt w
  extIn x 0x3BFF
  let dt ← need .ext (Fmt.ofCode (x.extractLsb' 5 5))
  let st ← need .ext (Fmt.ofCode (x.extractLsb' 0 5))
  let rm := Rm.ofCode (aluRm x)
  let sat := x.getLsbD 11
  let (r, s) ← need .ext (pair dt st)
  chk .ext ((r || rm == .rn) && (s || !sat))
  let d ← dV e .dst (dn dt st) (fD w)
  let a ← dV e .srca (sn dt st) (fA w)
  dZero .srcb (fB w); dZero .srcc (fC w)
  return { g := laneGuard (fG w), dt, st, rm, sat, d, a }
def cvtExt (o : CvtOps) : BitVec 16 :=
  mkAlu false false o.rm.code o.sat ((0 : BitVec 1) ++ (o.dt.code ++ o.st.code) : BitVec (1 + (5 + 5)))
def eCvt (op : BitVec 8) (o : CvtOps) : Word := mkWord op o.g.code 0 (r8 o.d) (r8 o.a) 0 0 (cvtExt o)

/-! ### Memory-format shapes (R59, R161-R172) -/

def mSp (x : BitVec 16) : BitVec 2 := x.extractLsb' 14 2
def mWd (x : BitVec 16) : BitVec 3 := x.extractLsb' 11 3
def mLim (x : BitVec 16) : BitVec 4 := x.extractLsb' 7 4
def mSc (x : BitVec 16) : BitVec 3 := x.extractLsb' 4 3
def mScale (x : BitVec 16) : BitVec 2 := x.extractLsb' 2 2
def mSub (x : BitVec 16) : BitVec 2 := x.extractLsb' 0 2
def mOrd (w : Word) : BitVec 2 := (fMod w).extractLsb' 2 2
def mSigned (w : Word) : Bool := (fMod w).getLsbD 0
/-- A memory-format mod: the order, a zero and the signed bit. -/
def memMod (ord : BitVec 2) (signed : Bool) : BitVec 4 :=
  (ord ++ ((0 : BitVec 1) ++ BitVec.ofBool signed) : BitVec (2 + (1 + 1)))
def mBit49 (w : Word) : Dec Unit := chk .mod (!(fMod w).getLsbD 1)

/-- The address operand: base alone, or base, index and scale (R134); under base alone the scale bits are not looked at (DESIGN CHOICE, log 59). -/
def dAddr (e : Env) (base : Bool) (x : BitVec 16) (w : Word) : Dec AddrOp := do
  let b ← dS .srca (fA w)
  if base then
    return .base b
  else
    let i ← dV e .srcb 1 (fB w)
    return .index b i ⟨(mScale x).toNat, (mScale x).isLt⟩
def AddrOp.a : AddrOp → BitVec 8
  | .base b => r8 b
  | .index b _ _ => r8 b
def AddrOp.b : AddrOp → BitVec 8
  | .base _ => 0
  | .index _ i _ => r8 i
def AddrOp.scale : AddrOp → BitVec 2
  | .base _ => 0
  | .index _ _ k => BitVec.ofNat 2 k.val
def AddrOp.sub0 (a : AddrOp) : Bool := !a.isIndex

/-- LD and GATH: order plain or .acq with w0, scope zero when plain (R161). A limit beside .acq fails as the order, slot 5 (DESIGN CHOICE, log 60), and a signed bit at 128 bits fails as it, slot 5 (DESIGN CHOICE, log 86). -/
def dLoad (e : Env) (gath : Bool) (w : Word) : Dec LoadOps := do
  let x := fExt w
  let acq := mOrd w == 1
  let signed := mSigned w
  mBit49 w
  chk .mod ((mOrd w == 0 || acq) && (!acq || mLim x == 0))
  chk .mod (!(mWd x == 4 && signed))
  let wd ← need .ext (Width.ofCode (mWd x))
  let scope ← need .ext (Scope.ofCode (mSc x))
  let sp := Space.ofCode (mSp x)
  let base := mSub x == 1
  chk .ext ((acq || scope == .team) && (mSub x == 0 || (base && !gath)) && (!gath || gsSpace sp))
  let d ← dV e .dst wd.regs (fD w)
  let addr ← dAddr e base x w
  chk .srcb (!base || fB w == 0)
  dZero .srcc (fC w)
  return { g := laneGuard (fG w), sp, w := wd, signed, limit := ⟨(mLim x).toNat, (mLim x).isLt⟩, acq, scope, d, addr }
def ordAcq (acq : Bool) : BitVec 2 := if acq then 1 else 0
def ordRel (rel : Bool) : BitVec 2 := if rel then 2 else 0
def subBase (a : AddrOp) (bit1 : Bool) : BitVec 2 := BitVec.ofBool bit1 ++ BitVec.ofBool a.sub0
def eLoad (op : BitVec 8) (o : LoadOps) : Word :=
  mkWord op o.g.code (memMod (ordAcq o.acq) o.signed) (r8 o.d) o.addr.a o.addr.b 0
    (mkMem o.sp.code o.w.code (BitVec.ofNat 4 o.limit.val) o.scope.code o.addr.scale (subBase o.addr false))

/-- ST and SCAT: order plain or .rel (R161). -/
def dStore (e : Env) (scat : Bool) (w : Word) : Dec StoreOps := do
  let x := fExt w
  let rel := mOrd w == 2
  let signed := mSigned w
  mBit49 w
  chk .mod (mOrd w == 0 || rel)
  chk .mod (!(mWd x == 4 && signed))
  let wd ← need .ext (Width.ofCode (mWd x))
  let scope ← need .ext (Scope.ofCode (mSc x))
  let sp := Space.ofCode (mSp x)
  let base := mSub x == 1
  chk .ext (mLim x == 0 && (rel || scope == .team) && (mSub x == 0 || (base && !scat)) && (!scat || gsSpace sp))
  let addr ← dAddr e base x w
  let c ← dV e .srcc wd.regs (fC w)
  dZero .dst (fD w)
  chk .srcb (!base || fB w == 0)
  return { g := laneGuard (fG w), sp, w := wd, signed, rel, scope, addr, c }
def eStore (op : BitVec 8) (o : StoreOps) : Word :=
  mkWord op o.g.code (memMod (ordRel o.rel) o.signed) 0 o.addr.a o.addr.b (r8 o.c)
    (mkMem o.sp.code o.w.code 0 o.scope.code o.addr.scale (subBase o.addr false))

def dAtomC (e : Env) (wd : Width) (op : AtomOp) (x : BitVec 8) : Dec (Fin 256) :=
  let v : Fin 256 := ⟨x.toNat, x.isLt⟩
  if e.atomC wd op v then .ok v else .error .srcc

/-- ATOM and RED (R165). -/
def dAtom (e : Env) (red : Bool) (w : Word) : Dec AtomOps := do
  let x := fExt w
  let ord := MemOrder.ofCode (mOrd w)
  let signed := mSigned w
  mBit49 w
  chk .mod (!red || ord == .plain || ord == .rel)
  chk .mod (!(mLim x == 8 && signed))
  let wd ← need .ext (Width.ofCode (mWd x))
  let scope ← need .ext (Scope.ofCode (mSc x))
  let op ← need .ext (AtomOp.ofCode (mLim x))
  let place ← need .ext (Placement.ofCode (mSub x))
  chk .ext (atomWidth wd op signed && scope != .team && (!red || (op != .xchg && op != .cas)))
  let d ← if red then .ok (0 : Fin 256) else dV e .dst wd.regs (fD w)
  let addr ← dAddr e false x w
  let c ← dAtomC e wd op (fC w)
  chk .dst (!red || fD w == 0)
  return { g := laneGuard (fG w), sp := Space.ofCode (mSp x), w := wd, signed, op, ord, scope, place, d, addr, c }
def eAtom (op : BitVec 8) (o : AtomOps) : Word :=
  mkWord op o.g.code (memMod o.ord.code o.signed) (r8 o.d) o.addr.a o.addr.b (r8 o.c)
    (mkMem o.sp.code o.w.code o.op.code o.scope.code o.addr.scale o.place.code)

/-- The operand kind of FIX, GTEST and GDROP in mod (R168). -/
def TintReg.kind : TintReg → BitVec 4
  | .v _ => 0
  | .s _ => 1
  | .pred _ => 2
def TintReg.code : TintReg → BitVec 8
  | .v i => r8 i
  | .s i => r8 i
  | .pred r => r.code
def dTint (e : Env) (w : Word) : Dec TintOps := do
  let k := (fMod w).toNat
  let g ← dPredGuard (k == 1 || (k == 2 && qSlot (fD w))) (fG w)
  chk .mod (decide (k ≤ 2))
  extIs w 0
  let d ← (if k = 0 then (dV e .dst 1 (fD w)).map TintReg.v
    else if k = 1 then (dS .dst (fD w)).map TintReg.s
    else (dPredDst (fD w)).map TintReg.pred)
  dZero .srca (fA w); dZero .srcb (fB w); dZero .srcc (fC w)
  return { g, d }
def eTint (op : BitVec 8) (o : TintOps) : Word := mkWord op o.g.code o.d.kind o.d.code 0 0 0 0

def dGtest (e : Env) (w : Word) : Dec GtestOps := do
  let k := (fMod w).toNat
  let q := k == 1 || (k == 2 && qSlot (fD w))
  let g ← dPredGuard q (fG w)
  chk .mod (decide (k ≤ 2))
  extIs w 0
  let d ← (if q then (dQ .dst (fD w)).map PredReg.q else (dPdst .dst (fD w)).map PredReg.p)
  let a ← (if k = 0 then (dV e .srca 1 (fA w)).map TintReg.v
    else if k = 1 then (dS .srca (fA w)).map TintReg.s
    else (dPredSrc .srca q (fA w)).map TintReg.pred)
  dZero .srcb (fB w); dZero .srcc (fC w)
  return { g, d, a }
def eGtest (op : BitVec 8) (o : GtestOps) : Word := mkWord op o.g.code o.a.kind o.d.code o.a.code 0 0 0

/-- GDEM: the short form with sub 0b00, the address form with sub bit 1 (R169). -/
def dGdemShort (e : Env) (w : Word) : Dec GdemShortOps := do
  modIs w 0
  extIs w 0
  let d ← dV e .dst 1 (fD w)
  dZero .srca (fA w); dZero .srcb (fB w); dZero .srcc (fC w)
  return { g := laneGuard (fG w), d }
def eGdemShort (op : BitVec 8) (o : GdemShortOps) : Word := mkWord op o.g.code 0 (r8 o.d) 0 0 0 0
def dGdemAddr (e : Env) (w : Word) : Dec GdemAddrOps := do
  let x := fExt w
  let signed := mSigned w
  mBit49 w
  chk .mod (mOrd w == 0)
  chk .mod (!(mWd x == 4 && signed))
  let wd ← need .ext (Width.ofCode (mWd x))
  chk .ext (mLim x == 0 && mSc x == 0 && (mSub x).getLsbD 1)
  let base := (mSub x).getLsbD 0
  let d ← dV e .dst wd.regs (fD w)
  let addr ← dAddr e base x w
  chk .srcb (!base || fB w == 0)
  dZero .srcc (fC w)
  return { g := laneGuard (fG w), sp := Space.ofCode (mSp x), w := wd, signed, d, addr }
def eGdemAddr (op : BitVec 8) (o : GdemAddrOps) : Word :=
  mkWord op o.g.code (memMod 0 o.signed) (r8 o.d) o.addr.a o.addr.b 0
    (mkMem o.sp.code o.w.code 0 0 o.addr.scale (subBase o.addr true))

/-- TMOV: destination space, barrier space in the width field, source space in sub (R170). -/
def dTmov (w : Word) : Dec TmovOps := do
  let g ← teamGuard (fG w)
  let x := fExt w
  modIs w 0
  let bar ← need .ext (barOf (mWd x))
  chk .ext (bar != some .g && mSc x == 0 && mScale x == 0)
  let d ← dS .dst (fD w)
  let a ← dS .srca (fA w)
  let b ← dS .srcb (fB w)
  let c ← (if bar.isSome then dS .srcc (fC w) else (dZero .srcc (fC w)).map fun _ => (0 : Fin 64))
  return { g, dsp := Space.ofCode (mSp x), ssp := Space.ofCode (mSub x), bar,
           limit := ⟨(mLim x).toNat, (mLim x).isLt⟩, d, a, b, c }
def eTmov (op : BitVec 8) (o : TmovOps) : Word :=
  mkWord op o.g.code 0 (r8 o.d) (r8 o.a) (r8 o.b) (r8 o.c)
    (mkMem o.dsp.code (barCode o.bar) (BitVec.ofNat 4 o.limit.val) 0 0 o.ssp.code)

def dPref (e : Env) (w : Word) : Dec PrefOps := do
  let x := fExt w
  let signed := mSigned w
  mBit49 w
  chk .mod (mOrd w == 0)
  chk .mod (!(mWd x == 4 && signed))
  let wd ← need .ext (Width.ofCode (mWd x))
  let base := mSub x == 1
  chk .ext (mSc x == 0 && (mSub x == 0 || base))
  let addr ← dAddr e base x w
  dZero .dst (fD w)
  chk .srcb (!base || fB w == 0)
  dZero .srcc (fC w)
  return { g := laneGuard (fG w), sp := Space.ofCode (mSp x), w := wd, signed,
           limit := ⟨(mLim x).toNat, (mLim x).isLt⟩, addr }
def ePref (op : BitVec 8) (o : PrefOps) : Word :=
  mkWord op o.g.code (memMod 0 o.signed) 0 o.addr.a o.addr.b 0
    (mkMem o.sp.code o.w.code (BitVec.ofNat 4 o.limit.val) 0 o.addr.scale (subBase o.addr false))

/-! ### Matrix shapes (R187-R204) -/

def dMzero (e : Env) (w : Word) : Dec MzeroOps := do
  let g ← teamGuard (fG w)
  modIs w 0
  extIn (fExt w) 1
  let d ← dAcc e .dst (fD w)
  dZero .srca (fA w); dZero .srcb (fB w); dZero .srcc (fC w)
  return { g, ia := (fExt w).getLsbD 0, d }
def eMzero (op : BitVec 8) (o : MzeroOps) : Word :=
  mkWord op o.g.code 0 (r8 o.d) 0 0 0 ((0 : BitVec 15) ++ BitVec.ofBool o.ia : BitVec (15 + 1))

def dFrag (e : Env) (f : Fmt) (s : Shape) (x : BitVec 8) : Dec (Fin 256) :=
  let v : Fin 256 := ⟨x.toNat, x.isLt⟩
  if e.frag f s v then .ok v else .error .srca

/-- MMA and MMAG: formats, shape and the handle bit in ext (R190). -/
def dMma (e : Env) (w : Word) : Dec MmaOps := do
  let g ← teamGuard (fG w)
  modIs w 0
  let x := fExt w
  extIn x 0x3FFF
  let fa ← need .ext (Fmt.ofCode (x.extractLsb' 0 5))
  let fb ← need .ext (Fmt.ofCode (x.extractLsb' 5 5))
  let shape ← need .ext (Shape.ofCode (x.extractLsb' 10 3))
  let h := x.getLsbD 13
  chk .ext (mmaPair h fa fb)
  let d ← dAcc e .dst (fD w)
  if h then
    let a ← dS .srca (fA w)
    let b ← dS .srcb (fB w)
    let c ← dS .srcc (fC w)
    return { g, fa, fb, shape, d, a := .handle a c, b }
  else
    let a ← dFrag e fa shape (fA w)
    let b ← dS .srcb (fB w)
    dZero .srcc (fC w)
    return { g, fa, fb, shape, d, a := .frag a, b }
def MmaA.isH : MmaA → Bool
  | .handle _ _ => true
  | .frag _ => false
def MmaA.a : MmaA → BitVec 8
  | .handle a _ => r8 a
  | .frag v => r8 v
def MmaA.c : MmaA → BitVec 8
  | .handle _ c => r8 c
  | .frag _ => 0
def matExt (h : Bool) (s : Shape) (low : BitVec 10) : BitVec 16 :=
  ((0 : BitVec 2) ++ (BitVec.ofBool h ++ (s.code ++ low)) : BitVec (2 + (1 + (3 + 10))))
def eMma (op : BitVec 8) (o : MmaOps) : Word :=
  mkWord op o.g.code 0 (r8 o.d) o.a.a (r8 o.b) o.a.c (matExt o.a.isH o.shape (o.fb.code ++ o.fa.code : BitVec (5 + 5)))

def dMtrn (e : Env) (w : Word) : Dec MtrnOps := do
  let g ← teamGuard (fG w)
  modIs w 0
  let x := fExt w
  extIn x 0x1C00
  let shape ← need .ext (Shape.ofCode (x.extractLsb' 10 3))
  let d ← dAcc e .dst (fD w)
  let a ← dFrag e .i8 shape (fA w)
  let b ← dS .srcb (fB w)
  dZero .srcc (fC w)
  return { g, shape, d, a, b }
def eMtrn (op : BitVec 8) (o : MtrnOps) : Word :=
  mkWord op o.g.code 0 (r8 o.d) (r8 o.a) (r8 o.b) 0 (matExt false o.shape 0)
def dMtrnDlt (e : Env) (w : Word) : Dec MtrnDltOps := do
  let g ← teamGuard (fG w)
  modIs w 0
  let x := fExt w
  extIn x 0x3CFF
  let shape ← need .ext (Shape.ofCode (x.extractLsb' 10 3))
  let d ← dAcc e .dst (fD w)
  let a ← dFrag e .i8 shape (fA w)
  let b ← dS .srcb (fB w)
  let c ← dS .srcc (fC w)
  return { g, shape, th := x.extractLsb' 0 8, d, a, b, c }
def eMtrnDlt (op : BitVec 8) (o : MtrnDltOps) : Word :=
  mkWord op o.g.code 0 (r8 o.d) (r8 o.a) (r8 o.b) (r8 o.c) (matExt true o.shape ((0 : BitVec 2) ++ o.th : BitVec (2 + 8)))

def dMldw (w : Word) : Dec MldwOps := do
  let g ← teamGuard (fG w)
  modIs w 0
  extIs w 0
  let a ← dS .srca (fA w)
  let b ← dS .srcb (fB w)
  dZero .dst (fD w); dZero .srcc (fC w)
  return { g, a, b }
def eMldw (op : BitVec 8) (o : MldwOps) : Word := mkWord op o.g.code 0 0 (r8 o.a) (r8 o.b) 0 0
def dMldwR (x : BitVec 16) (w : Word) : Dec MldwRegionOps := do
  let g ← teamGuard (fG w)
  modIs w 0
  extIs w x
  let a ← dS .srca (fA w)
  let b ← dS .srcb (fB w)
  let c ← dS .srcc (fC w)
  dZero .dst (fD w)
  return { g, a, b, c }
def eMldwR (op : BitVec 8) (x : BitVec 16) (o : MldwRegionOps) : Word :=
  mkWord op o.g.code 0 0 (r8 o.a) (r8 o.b) (r8 o.c) x

def dWindow (e : Env) (s : Slot) (f : Fmt) (span : Byte) (x : BitVec 8) : Dec (Fin 256) :=
  dRun e s (rawRegs f) (rawRegs f * e.span span) x

def dMrda (e : Env) (w : Word) : Dec MrdaOps := do
  let g ← teamGuard (fG w)
  chk .mod ((fMod w).extractLsb' 1 3 == 0)
  let x := fExt w
  let fmt ← need .ext (Fmt.ofCode (x.extractLsb' 8 5))
  let span : Byte := x.extractLsb' 0 8
  chk .ext (mrdaFmt fmt && decide (e.span span * e.lanes ≤ 4096))
  let d ← dWindow e .dst fmt span (fD w)
  let a ← dAcc e .srca (fA w)
  let b ← dS .srcb (fB w)
  dZero .srcc (fC w)
  return { g, noscale := (fMod w).getLsbD 0, sat := x.getLsbD 15, rm := Rm.ofCode (x.extractLsb' 13 2), fmt, span, d, a, b }
def mrdaExt (sat : Bool) (rm : BitVec 2) (f : Fmt) (span : Byte) : BitVec 16 :=
  (BitVec.ofBool sat ++ (rm ++ (f.code ++ span)) : BitVec (1 + (2 + (5 + 8))))
def eMrda (op : BitVec 8) (o : MrdaOps) : Word :=
  mkWord op o.g.code ((0 : BitVec 3) ++ BitVec.ofBool o.noscale : BitVec (3 + 1)) (r8 o.d) (r8 o.a) (r8 o.b) 0
    (mrdaExt o.sat o.rm.code o.fmt o.span)
/-- The status form: b32, span 0 and a0; the modifiers it ignores are dropped (R202). -/
def dMrdaStatus (e : Env) (w : Word) : Dec MrdaStatusOps := do
  let g ← teamGuard (fG w)
  chk .mod ((fMod w).extractLsb' 1 3 == 0)
  chk .ext ((fExt w).extractLsb' 0 8 == 0)
  let d ← dV e .dst 1 (fD w)
  chk .srca (fA w == 0)
  let b ← dS .srcb (fB w)
  dZero .srcc (fC w)
  return { g, d, b }
def eMrdaStatus (op : BitVec 8) (o : MrdaStatusOps) : Word :=
  mkWord op o.g.code 0 (r8 o.d) 0 (r8 o.b) 0 (mrdaExt false 0 .b32 0)

def dMwra (e : Env) (w : Word) : Dec MwraOps := do
  let g ← teamGuard (fG w)
  modIs w 0
  let x := fExt w
  extIn x 0x1FFF
  let fmt ← need .ext (Fmt.ofCode (x.extractLsb' 8 5))
  let span : Byte := x.extractLsb' 0 8
  chk .ext (mwraFmt fmt && decide (e.span span * e.lanes ≤ 4096))
  let d ← dAcc e .dst (fD w)
  let a ← dWindow e .srca fmt span (fA w)
  let b ← dS .srcb (fB w)
  dZero .srcc (fC w)
  return { g, fmt, span, d, a, b }
def eMwra (op : BitVec 8) (o : MwraOps) : Word :=
  mkWord op o.g.code 0 (r8 o.d) (r8 o.a) (r8 o.b) 0 (mrdaExt false 0 o.fmt o.span)

def dMgang (e : Env) (w : Word) : Dec MgangOps := do
  let g ← teamGuard (fG w)
  modIs w 0
  chk .ext (e.gang (fExt w))
  dZero .dst (fD w); dZero .srca (fA w); dZero .srcb (fB w); dZero .srcc (fC w)
  return { g, mask := fExt w }
def eMgang (op : BitVec 8) (o : MgangOps) : Word := mkWord op o.g.code 0 0 0 0 0 o.mask

/-! ### Sync shapes (R221-R232) -/

/-- The space and scope of an object; ext 10:0 stays to each instruction (R221). -/
def dObj (x : BitVec 16) : Dec ObjSpace := do
  let sp := Space.ofCode (x.extractLsb' 14 2)
  let scope ← need .ext (Scope.ofCode (x.extractLsb' 11 3))
  let o : ObjSpace := { sp, scope }
  chk .ext o.wf
  return o
def synLow (x : BitVec 16) : BitVec 11 := x.extractLsb' 0 11
def synExt (o : ObjSpace) (low : BitVec 11) : BitVec 16 :=
  (o.sp.code ++ (o.scope.code ++ low) : BitVec (2 + (3 + 11)))

def dBinit (w : Word) : Dec BinitOps := do
  let g ← teamGuard (fG w)
  let imm := fMod w == 8
  chk .mod (imm || fMod w == 0)
  let x := fExt w
  let o ← dObj x
  if imm then
    chk .ext (synLow x != 0)
    let a ← dS .srca (fA w)
    dZero .dst (fD w); dZero .srcb (fB w); dZero .srcc (fC w)
    return { g, o, a, n := .imm (synLow x) }
  else
    chk .ext (synLow x == 0)
    let a ← dS .srca (fA w)
    let b ← dS .srcb (fB w)
    dZero .dst (fD w); dZero .srcc (fC w)
    return { g, o, a, n := .reg b }
def eBinit (op : BitVec 8) (o : BinitOps) : Word :=
  match o.n with
  | .imm n => mkWord op o.g.code 8 0 (r8 o.a) 0 0 (synExt o.o n)
  | .reg b => mkWord op o.g.code 0 0 (r8 o.a) (r8 b) 0 (synExt o.o 0)

def dBinv (w : Word) : Dec BinvOps := do
  let g ← teamGuard (fG w)
  modIs w 0
  let x := fExt w
  let o ← dObj x
  chk .ext (synLow x == 0)
  let a ← dS .srca (fA w)
  dZero .dst (fD w); dZero .srcb (fB w); dZero .srcc (fC w)
  return { g, o, a }
def eBinv (op : BitVec 8) (o : BinvOps) : Word := mkWord op o.g.code 0 0 (r8 o.a) 0 0 (synExt o.o 0)

def dBarv (w : Word) : Dec BarvOps := do
  let g ← teamGuard (fG w)
  modIs w 0
  let x := fExt w
  let o ← dObj x
  chk .ext (synLow x == 0)
  let d ← dS .dst (fD w)
  let a ← dS .srca (fA w)
  dZero .srcb (fB w); dZero .srcc (fC w)
  return { g, o, d, a }
def eBarv (op : BitVec 8) (o : BarvOps) : Word := mkWord op o.g.code 0 (r8 o.d) (r8 o.a) 0 0 (synExt o.o 0)

def dBexp (w : Word) : Dec BexpOps := do
  let g ← teamGuard (fG w)
  modIs w 0
  let x := fExt w
  let o ← dObj x
  chk .ext ((synLow x).extractLsb' 1 10 == 0)
  let a ← dS .srca (fA w)
  let b ← dS .srcb (fB w)
  dZero .dst (fD w); dZero .srcc (fC w)
  return { g, o, out := (synLow x).getLsbD 0, a, b }
def eBexp (op : BitVec 8) (o : BexpOps) : Word :=
  mkWord op o.g.code 0 0 (r8 o.a) (r8 o.b) 0 (synExt o.o ((0 : BitVec 10) ++ BitVec.ofBool o.out : BitVec (10 + 1)))

def dBwait (w : Word) : Dec BwaitOps := do
  let g ← teamGuard (fG w)
  modIs w 0
  let x := fExt w
  let o ← dObj x
  chk .ext (synLow x == 0)
  let d ← (if fD w = 0 then .ok none else (dQ .dst (fD w)).map some)
  let a ← dS .srca (fA w)
  let b ← dS .srcb (fB w)
  dZero .srcc (fC w)
  return { g, o, d, a, b }
def optQ : Option (Fin 4) → BitVec 8
  | none => 0
  | some q => qCode q
def eBwait (op : BitVec 8) (o : BwaitOps) : Word := mkWord op o.g.code 0 (optQ o.d) (r8 o.a) (r8 o.b) 0 (synExt o.o 0)

def dBtest (w : Word) : Dec BtestOps := do
  let g ← teamGuard (fG w)
  modIs w 0
  let x := fExt w
  let o ← dObj x
  chk .ext (synLow x == 0)
  let d ← dQ .dst (fD w)
  let a ← dS .srca (fA w)
  let b ← dS .srcb (fB w)
  dZero .srcc (fC w)
  return { g, o, d, a, b }
def eBtest (op : BitVec 8) (o : BtestOps) : Word := mkWord op o.g.code 0 (qCode o.d) (r8 o.a) (r8 o.b) 0 (synExt o.o 0)

def dBbind (w : Word) : Dec BbindOps := do
  let g ← teamGuard (fG w)
  modIs w 0
  let x := fExt w
  let o ← dObj x
  let kind ← need .ext (BindKind.ofCode (synLow x))
  let a ← dS .srca (fA w)
  let b ← dS .srcb (fB w)
  let c ← dS .srcc (fC w)
  dZero .dst (fD w)
  return { g, o, kind, a, b, c }
def eBbind (op : BitVec 8) (o : BbindOps) : Word :=
  mkWord op o.g.code 0 0 (r8 o.a) (r8 o.b) (r8 o.c) (synExt o.o o.kind.code)

/-- A scalar slot that is used, or a zero field and s0 in the term. -/
def dOptS (used : Bool) (s : Slot) (x : BitVec 8) : Dec (Fin 64) :=
  if used then dS s x else if x = 0 then .ok 0 else .error s

def dCpy (w : Word) : Dec CpyOps := do
  let g ← teamGuard (fG w)
  modIs w 0
  let x := fExt w
  chk .ext (x.extractLsb' 0 4 == 0)
  let bar ← need .ext (barOf (x.extractLsb' 9 3))
  let d ← dS .dst (fD w)
  let a ← dS .srca (fA w)
  let b ← dS .srcb (fB w)
  let c ← dOptS bar.isSome .srcc (fC w)
  return { g, dsp := Space.ofCode (x.extractLsb' 14 2), ssp := Space.ofCode (x.extractLsb' 12 2), bar,
           out := x.getLsbD 8, chan := ⟨(x.extractLsb' 4 4).toNat, (x.extractLsb' 4 4).isLt⟩, d, a, b, c }
def eCpy (op : BitVec 8) (o : CpyOps) : Word :=
  mkWord op o.g.code 0 (r8 o.d) (r8 o.a) (r8 o.b) (r8 o.c)
    (o.dsp.code ++ (o.ssp.code ++ (barCode o.bar ++ (BitVec.ofBool o.out ++ (BitVec.ofNat 4 o.chan.val ++ (0 : BitVec 4))))) :
      BitVec (2 + (2 + (3 + (1 + (4 + 4))))))

/-- CPYT; bit 13 is the direction, which picks the constructor (R229). -/
def dCpyt (w : Word) : Dec CpytOps := do
  let g ← teamGuard (fG w)
  modIs w 0
  let x := fExt w
  let sp := Space.ofCode (x.extractLsb' 14 2)
  chk .ext (sp != .g && x.extractLsb' 0 8 == 0)
  let bar ← need .ext (barOf (x.extractLsb' 9 3))
  let map := x.getLsbD 12
  let d ← dS .dst (fD w)
  let a ← dS .srca (fA w)
  chk .srca (decide (a.val ≤ 61))
  let b ← dOptS bar.isSome .srcb (fB w)
  let c ← dOptS map .srcc (fC w)
  return { g, sp, map, bar, out := x.getLsbD 8, d, a, b, c }
def eCpyt (op : BitVec 8) (st : Bool) (o : CpytOps) : Word :=
  mkWord op o.g.code 0 (r8 o.d) (r8 o.a) (r8 o.b) (r8 o.c)
    (o.sp.code ++ (BitVec.ofBool st ++ (BitVec.ofBool o.map ++ (barCode o.bar ++ (BitVec.ofBool o.out ++ (0 : BitVec 8))))) :
      BitVec (2 + (1 + (1 + (3 + (1 + 8))))))

def dChtest (w : Word) : Dec ChtestOps := do
  let g ← teamGuard (fG w)
  modIs w 0
  extIs w 0
  let d ← dQ .dst (fD w)
  let a ← dS .srca (fA w)
  let b ← dS .srcb (fB w)
  dZero .srcc (fC w)
  return { g, d, a, b }
def eChtest (op : BitVec 8) (o : ChtestOps) : Word := mkWord op o.g.code 0 (qCode o.d) (r8 o.a) (r8 o.b) 0 0

def dChwp (w : Word) : Dec ChwpOps := do
  let g ← teamGuard (fG w)
  modIs w 0
  let x := fExt w
  extIn x 0x00F0
  let d ← dS .dst (fD w)
  let a ← dS .srca (fA w)
  dZero .srcb (fB w); dZero .srcc (fC w)
  return { g, chan := ⟨(x.extractLsb' 4 4).toNat, (x.extractLsb' 4 4).isLt⟩, d, a }
def eChwp (op : BitVec 8) (o : ChwpOps) : Word :=
  mkWord op o.g.code 0 (r8 o.d) (r8 o.a) 0 0
    ((0 : BitVec 8) ++ (BitVec.ofNat 4 o.chan.val ++ (0 : BitVec 4)) : BitVec (8 + (4 + 4)))

/-- The scope field of TLSIG, TLRD and FENCE (R231, R232). -/
def tlExt (s : Scope) : BitVec 16 := ((0 : BitVec 2) ++ (s.code ++ (0 : BitVec 11)) : BitVec (2 + (3 + 11)))
def dTlScope (x : BitVec 16) : Dec Scope := do
  extIn x 0x3800
  need .ext (Scope.ofCode (x.extractLsb' 11 3))

def dTlsig (w : Word) : Dec TlsigOps := do
  let g ← teamGuard (fG w)
  chk .mod (fMod w == 0 || fMod w == 8)
  let scope ← dTlScope (fExt w)
  let a ← dS .srca (fA w)
  let b ← dS .srcb (fB w)
  dZero .dst (fD w); dZero .srcc (fC w)
  return { g, rel := fMod w == 8, scope, a, b }
def eTlsig (op : BitVec 8) (o : TlsigOps) : Word :=
  mkWord op o.g.code (if o.rel then 8 else 0) 0 (r8 o.a) (r8 o.b) 0 (tlExt o.scope)

def dTlrd (w : Word) : Dec TlrdOps := do
  let g ← teamGuard (fG w)
  chk .mod (fMod w == 0 || fMod w == 4)
  let scope ← dTlScope (fExt w)
  let d ← dS .dst (fD w)
  let a ← dS .srca (fA w)
  dZero .srcb (fB w); dZero .srcc (fC w)
  return { g, acq := fMod w == 4, scope, d, a }
def eTlrd (op : BitVec 8) (o : TlrdOps) : Word :=
  mkWord op o.g.code (if o.acq then 4 else 0) (r8 o.d) (r8 o.a) 0 0 (tlExt o.scope)

def dFence (w : Word) : Dec FenceOps := do
  let g ← teamGuard (fG w)
  chk .mod (fMod w == 4 || fMod w == 8 || fMod w == 12)
  let scope ← dTlScope (fExt w)
  dZero .dst (fD w); dZero .srca (fA w); dZero .srcb (fB w); dZero .srcc (fC w)
  return { g, acq := (fMod w).getLsbD 2, rel := (fMod w).getLsbD 3, scope }
def eFence (op : BitVec 8) (o : FenceOps) : Word :=
  mkWord op o.g.code (BitVec.ofBool o.rel ++ (BitVec.ofBool o.acq ++ (0 : BitVec 2)) : BitVec (1 + (1 + 2))) 0 0 0 0
    (tlExt o.scope)

/-! ### Combiner and fabric shapes (R345, R346, R366) -/

def dCreg (w : Word) : Dec CregOps := do
  let g ← teamGuard (fG w)
  modIs w 0
  extIs w 0
  let d ← dQ .dst (fD w)
  let a ← dS .srca (fA w)
  dZero .srcb (fB w); dZero .srcc (fC w)
  return { g, d, a }
def eCreg (op : BitVec 8) (o : CregOps) : Word := mkWord op o.g.code 0 (qCode o.d) (r8 o.a) 0 0 0

def dComb (e : Env) (w : Word) : Dec CombOps := do
  modIs w 0
  let x := fExt w
  let base := mSub x == 1
  chk .ext (mSp x == 0 && mWd x == 3 && mLim x == 0 && (mSub x == 0 || base))
  let d ← dV e .dst 2 (fD w)
  let addr ← dAddr e base x w
  let c ← dV e .srcc 2 (fC w)
  chk .srcb (!base || fB w == 0)
  return { g := laneGuard (fG w), status := ⟨(mSc x).toNat, (mSc x).isLt⟩, d, addr, c }
def eComb (op : BitVec 8) (o : CombOps) : Word :=
  mkWord op o.g.code 0 (r8 o.d) o.addr.a o.addr.b (r8 o.c)
    (mkMem 0 3 0 (BitVec.ofNat 3 o.status.val) o.addr.scale (subBase o.addr false))

def dCrep (e : Env) (w : Word) : Dec CrepOps := do
  let g ← teamGuard (fG w)
  modIs w 0
  extIs w 0
  let a ← dV e .srca 2 (fA w)
  dZero .dst (fD w); dZero .srcb (fB w); dZero .srcc (fC w)
  return { g, a }
def eCrep (op : BitVec 8) (o : CrepOps) : Word := mkWord op o.g.code 0 0 (r8 o.a) 0 0 0

/-- The path of an XSEND with the relay of .via (R366). -/
def dPath (x : BitVec 16) : Option SendPath :=
  let r : Fin 16 := ⟨(x.extractLsb' 4 4).toNat, (x.extractLsb' 4 4).isLt⟩
  match (x.extractLsb' 8 2).toNat with
  | 0 => if r.val = 0 then some .auto else none
  | 1 => if r.val = 0 then some .direct else none
  | 2 => some (.via r)
  | _ => none
def SendPath.code : SendPath → BitVec 2
  | .auto => 0
  | .direct => 1
  | .via _ => 2
def SendPath.relay : SendPath → BitVec 4
  | .via r => BitVec.ofNat 4 r.val
  | _ => 0

def dXsend (w : Word) : Dec XsendOps := do
  let g ← teamGuard (fG w)
  chk .mod (fMod w == 0 || fMod w == 8)
  let x := fExt w
  extIn x 0x03F5
  let path ← need .ext (dPath x)
  let bar := x.getLsbD 0
  let d ← dS .dst (fD w)
  let a ← dS .srca (fA w)
  let b ← dS .srcb (fB w)
  let c ← dOptS bar .srcc (fC w)
  return { g, rel := fMod w == 8, path, rlx := x.getLsbD 2, bar, d, a, b, c }
def eXsend (op : BitVec 8) (o : XsendOps) : Word :=
  mkWord op o.g.code (if o.rel then 8 else 0) (r8 o.d) (r8 o.a) (r8 o.b) (r8 o.c)
    ((0 : BitVec 6) ++ (o.path.code ++ (o.path.relay ++ ((0 : BitVec 1) ++ (BitVec.ofBool o.rlx ++
      ((0 : BitVec 1) ++ BitVec.ofBool o.bar))))) : BitVec (6 + (2 + (4 + (1 + (1 + (1 + 1)))))))

def dXfetch (e : Env) (w : Word) : Dec XfetchOps := do
  let x := fExt w
  let acq := mOrd w == 1
  let signed := mSigned w
  mBit49 w
  chk .mod ((mOrd w == 0 || acq) && (!acq || mLim x == 0))
  chk .mod (!(mWd x == 4 && signed))
  let wd ← need .ext (Width.ofCode (mWd x))
  chk .ext (mSp x == 0 && mSc x == (if acq then 5 else 0))
  let base := (mSub x).getLsbD 0
  let d ← dV e .dst wd.regs (fD w)
  let addr ← dAddr e base x w
  chk .srcb (!base || fB w == 0)
  dZero .srcc (fC w)
  return { g := laneGuard (fG w), w := wd, signed, limit := ⟨(mLim x).toNat, (mLim x).isLt⟩, acq,
           rlx := (mSub x).getLsbD 1, d, addr }
def eXfetch (op : BitVec 8) (o : XfetchOps) : Word :=
  mkWord op o.g.code (memMod (ordAcq o.acq) o.signed) (r8 o.d) o.addr.a o.addr.b 0
    (mkMem 0 o.w.code (BitVec.ofNat 4 o.limit.val) (if o.acq then 5 else 0) o.addr.scale (subBase o.addr o.rlx))

/-- XATOM and XATOM.nr; sub bit 0 picks the constructor (R366). -/
def dXatom (e : Env) (nr : Bool) (w : Word) : Dec XatomOps := do
  let x := fExt w
  let ord := MemOrder.ofCode (mOrd w)
  let signed := mSigned w
  mBit49 w
  chk .mod (!nr || ord == .plain || ord == .rel)
  chk .mod (!(mLim x == 8 && signed))
  let wd ← need .ext (Width.ofCode (mWd x))
  let op ← need .ext (AtomOp.ofCode (mLim x))
  chk .ext (mSp x == 0 && mSc x == 5 && atomWidth wd op signed && (!nr || (op != .xchg && op != .cas)))
  let d ← if nr then .ok (0 : Fin 256) else dV e .dst wd.regs (fD w)
  let addr ← dAddr e false x w
  let c ← dAtomC e wd op (fC w)
  chk .dst (!nr || fD w == 0)
  return { g := laneGuard (fG w), w := wd, signed, op, ord, rlx := (mSub x).getLsbD 1, d, addr, c }
def eXatom (op : BitVec 8) (nr : Bool) (o : XatomOps) : Word :=
  mkWord op o.g.code (memMod o.ord.code o.signed) (r8 o.d) o.addr.a o.addr.b (r8 o.c)
    (mkMem 0 o.w.code o.op.code 5 o.addr.scale (BitVec.ofBool o.rlx ++ BitVec.ofBool nr))

def dXsig (w : Word) : Dec XsigOps := do
  let g ← teamGuard (fG w)
  chk .mod (fMod w == 0 || fMod w == 8)
  let x := fExt w
  extIn x 0x000F
  let o : XsigOps := { g, op := SigOp.ofCode (x.extractLsb' 0 2), rel := fMod w == 8, rlx := x.getLsbD 3,
                       ordf := x.getLsbD 2, a := 0, b := 0 }
  chk .ext o.wf
  let a ← dS .srca (fA w)
  let b ← dS .srcb (fB w)
  dZero .dst (fD w); dZero .srcc (fC w)
  return { o with a, b }
def eXsig (op : BitVec 8) (o : XsigOps) : Word :=
  mkWord op o.g.code (if o.rel then 8 else 0) 0 (r8 o.a) (r8 o.b) 0
    ((0 : BitVec 12) ++ (BitVec.ofBool o.rlx ++ (BitVec.ofBool o.ordf ++ o.op.code)) : BitVec (12 + (1 + (1 + 2))))

/-! ### System shapes (R278, R279, R294, R383) -/

def dSrd (e : Env) (w : Word) : Dec SrdOps := do
  let g ← teamGuard (fG w)
  chk .mod (fMod w == 0 || fMod w == 1)
  extIs w 0
  let n := fA w
  let d ← (if fMod w = 0 then (dS .dst (fD w)).map SrdDst.s else (dV e .dst 1 (fD w)).map SrdDst.v)
  let o : SrdOps := { g, d, n }
  chk .srca (o.wf e)
  dZero .srcb (fB w); dZero .srcc (fC w)
  return o
def SrdDst.code : SrdDst → BitVec 8
  | .s i => r8 i
  | .v i => r8 i
def SrdDst.mod : SrdDst → BitVec 4
  | .s _ => 0
  | .v _ => 1
def eSrd (op : BitVec 8) (o : SrdOps) : Word := mkWord op o.g.code o.d.mod o.d.code o.n 0 0 0

def dSwr (w : Word) : Dec SwrOps := do
  let g ← teamGuard (fG w)
  modIs w 0
  extIs w 0
  chk .dst (sysWr (fD w).toNat)
  let a ← dS .srca (fA w)
  dZero .srcb (fB w); dZero .srcc (fC w)
  return { g, n := fD w, a }
def eSwr (op : BitVec 8) (o : SwrOps) : Word := mkWord op o.g.code 0 o.n (r8 o.a) 0 0 0

/-- IPREF, ENQ and RSH: two scalars. -/
def dTwo (w : Word) : Dec TwoOps := do
  let g ← teamGuard (fG w)
  modIs w 0
  extIs w 0
  let a ← dS .srca (fA w)
  let b ← dS .srcb (fB w)
  dZero .dst (fD w); dZero .srcc (fC w)
  return { g, a, b }
def eTwo (op : BitVec 8) (o : TwoOps) : Word := mkWord op o.g.code 0 0 (r8 o.a) (r8 o.b) 0 0

def dLaunch (w : Word) : Dec LaunchOps := do
  let g ← teamGuard (fG w)
  modIs w 0
  extIs w 0
  let a ← dS .srca (fA w)
  dZero .dst (fD w); dZero .srcb (fB w); dZero .srcc (fC w)
  return { g, a }
def eLaunch (op : BitVec 8) (o : LaunchOps) : Word := mkWord op o.g.code 0 0 (r8 o.a) 0 0 0

def TwoOps.toIpref (o : TwoOps) : IprefOps := { g := o.g, a := o.a, b := o.b }
def IprefOps.toTwo (o : IprefOps) : TwoOps := { g := o.g, a := o.a, b := o.b }
def ChtestOps.toIpin (o : ChtestOps) : IpinOps := { g := o.g, d := o.d, a := o.a, b := o.b }
def IpinOps.toChtest (o : IpinOps) : ChtestOps := { g := o.g, d := o.d, a := o.a, b := o.b }

/-! ### The opcode map (R61) -/

def decode0 (lo : Nat) (w : Word) : Dec Instr :=
  match lo with
  | 0x0 => (dNone w).map .nop
  | 0x1 => (dBra w).map .bra
  | 0x2 => (dBrq w).map .brq
  | 0x3 => (dBrd w).map .brd
  | 0x4 => (dNone w).map .join
  | 0x5 => (dLoop w).map .loop
  | 0x6 => (dCall 0 w).map .call
  | 0x7 => (dRet w).map .ret
  | 0x8 => (dNone w).map .exit
  | 0x9 => (dCode 0 w).map .bkpt
  | 0xA => (dCall 8 w).map .slda
  | _ => .error .op

def decode1 (lo : Nat) (w : Word) : Dec Instr :=
  match lo with
  | 0x0 => (dSUn w).map .smov
  | 0x1 => (dSImm w).map .smovi
  | 0x2 => (dSBin tAll w).map .sadd
  | 0x3 => (dSBin tAll w).map .ssub
  | 0x4 => (dSBin tAll w).map .smul
  | 0x5 => (dSBin tAll w).map .smulh
  | 0x6 => (dSBin tAll w).map .sand
  | 0x7 => (dSBin tAll w).map .sor
  | 0x8 => (dSBin tAll w).map .sxor
  | 0x9 => (dSBin tAll w).map .sshl
  | 0xA => (dSBin tAll w).map .sshr
  | 0xB => (dSBin tAll w).map .ssar
  | 0xC => (dSBin tMM w).map .smin
  | 0xD => (dSBin tMM w).map .smax
  | 0xE => (dSCmp w).map .scmp
  | 0xF => (dSSel w).map .ssel
  | _ => .error .op

def decode2 (e : Env) (lo : Nat) (w : Word) : Dec Instr :=
  match lo with
  | 0x0 => (dVUn e tAll w).map .vmov
  | 0x1 => (dVImm e w).map .vmovi
  | 0x2 => (dVBcst e w).map .vbcst
  | 0x3 => (dVBin e tAll w).map .vadd
  | 0x4 => (dVBin e tAll w).map .vsub
  | 0x5 => (dVBin e tIN w).map .vadds
  | 0x6 => (dVBin e tIN w).map .vsubs
  | 0x7 => (dVBin e t32 w).map .vmul
  | 0x8 => (dVBin e tIN w).map .vmulh
  | 0x9 => (dVTri e t32 w).map .vmad
  | 0xA => (dVUn e tI32 w).map .vabs
  | 0xB => (dVUn e tI32 w).map .vneg
  | 0xC => (dVBin e tMM w).map .vmin
  | 0xD => (dVBin e tMM w).map .vmax
  | 0xE => (dVBin e tAll w).map .vand
  | 0xF => (dVBin e tAll w).map .vor
  | _ => .error .op

def decode3 (e : Env) (lo : Nat) (w : Word) : Dec Instr :=
  match lo with
  | 0x0 => (dVBin e tAll w).map .vxor
  | 0x1 => (dVUn e tAll w).map .vnot
  | 0x2 => (dVBin e t32 w).map .vshl
  | 0x3 => (dVBin e t32 w).map .vshr
  | 0x4 => (dVBin e t32 w).map .vsar
  | 0x5 => (dVUn e t32 w).map .vclz
  | 0x6 => (dVUn e t32 w).map .vpopc
  | 0x7 => (dVBf e w).map .vbfe
  | 0x8 => (dVBf e w).map .vbfi
  | 0x9 => (dVTri e tB32 w).map .vperm
  | 0xA => (dVSel e w).map .vsel
  | 0xB => (dVCmp e w).map .vcmp
  | 0xC => (dVLea e w).map .vlea
  | _ => .error .op

def decode4 (e : Env) (lo : Nat) (w : Word) : Dec Instr :=
  match lo with
  | 0x0 => (dVShf e w).map .vshf
  | 0x1 => (dVRed e false w).map .vred
  | 0x2 => (dVRed e true w).map .vscan
  | 0x3 => (dVBal e w).map .vbal
  | 0x8 => (dPBin w).map .pand
  | 0x9 => (dPBin w).map .por
  | 0xA => (dPBin w).map .pxor
  | 0xB => (dPUn w).map .pnot
  | 0xC => (dPUn w).map .pmov
  | 0xD => (dPAny w).map .pany
  | 0xE => (dPAny w).map .pall
  | _ => .error .op

def decode5 (e : Env) (lo : Nat) (w : Word) : Dec Instr :=
  match lo with
  | 0x0 => (dFBin e fAll true true w).map .fadd
  | 0x1 => (dFBin e fAll true true w).map .fsub
  | 0x2 => (dFBin e fAll true true w).map .fmul
  | 0x3 => (dFTri e fAll w).map .ffma
  | 0x4 => (dFBin e fAll true false w).map .fmin
  | 0x5 => (dFBin e fAll true false w).map .fmax
  | 0x6 => (dFUn e false w).map .fabs
  | 0x7 => (dFUn e false w).map .fneg
  | 0x8 => (dFCmp e w).map .fcmp
  | 0x9 => (dFUn e false w).map .fclass
  | 0xA => (dFUn e true w).map .frnd
  | 0xB => (dFBin e fHalf false true w).map .hadd2
  | 0xC => (dFBin e fHalf false true w).map .hmul2
  | 0xD => (dFTri e fHalf w).map .hfma2
  | 0xE => (dFTri e fHalf w).map .fdot2
  | _ => .error .op

def decode6 (e : Env) (lo : Nat) (w : Word) : Dec Instr :=
  match lo with
  | 0x0 => (dFUn e false w).map .frcp
  | 0x1 => (dFUn e false w).map .frsq
  | 0x2 => (dFUn e false w).map .fsqrt
  | 0x3 => (dFUn e false w).map .fexp2
  | 0x4 => (dFUn e false w).map .flog2
  | 0x5 => (dFUn e false w).map .fsinpi
  | 0x6 => (dFUn e false w).map .fcospi
  | 0x7 => (dFUn e false w).map .ftanh
  | 0x8 => (dFUn e false w).map .fsigm
  | 0xA => (dCvt cvtPair (fun d _ => cvtRegs d) (fun _ s => cvtRegs s) e w).map .cvt
  | 0xB => (dCvt packPair (fun _ _ => 1) (fun d _ => perLane d) e w).map .pack
  | 0xC => (dCvt unpkPair (fun _ s => perLane s) (fun _ _ => 1) e w).map .unpk
  | 0xD => (dCvt quantPair (fun _ _ => 1) (fun _ _ => 1) e w).map .quant
  | 0xE => (dCvt deqPair (fun _ _ => 1) (fun _ _ => 1) e w).map .deq
  | _ => .error .op

def decode7 (e : Env) (lo : Nat) (w : Word) : Dec Instr :=
  match lo with
  | 0x0 => (dLoad e false w).map .ld
  | 0x1 => (dStore e false w).map .st
  | 0x2 => (dLoad e true w).map .gath
  | 0x3 => (dStore e true w).map .scat
  | 0x4 => (dAtom e false w).map .atom
  | 0x5 => (dAtom e true w).map .red
  | 0x6 => (dTint e w).map .fix
  | 0x7 => if mSub (fExt w) = 0 then (dGdemShort e w).map .gdemShort else (dGdemAddr e w).map .gdemAddress
  | 0x8 => (dGtest e w).map .gtest
  | 0x9 => (dTint e w).map .gdrop
  | 0xA => (dTmov w).map .tmov
  | 0xB => (dPref e w).map .pref
  | _ => .error .op

def decode8 (e : Env) (lo : Nat) (w : Word) : Dec Instr :=
  match lo with
  | 0x0 => (dMzero e w).map .mzero
  | 0x1 => (dMma e w).map .mma
  | 0x2 => (dMma e w).map .mmag
  | 0x3 => if (fExt w).getLsbD 13 then (dMtrnDlt e w).map .mtrnDlt else (dMtrn e w).map .mtrn
  | 0x4 =>
    if (fExt w).extractLsb' 0 2 = 1 then (dMldwR 1 w).map .mldwSave
    else if (fExt w).extractLsb' 0 2 = 2 then (dMldwR 2 w).map .mldwRaw
    else (dMldw w).map .mldw
  | 0x5 => if (fExt w).extractLsb' 8 5 = 8 then (dMrdaStatus e w).map .mrdaStatus else (dMrda e w).map .mrda
  | 0x6 => (dMwra e w).map .mwra
  | 0x7 => (dMgang e w).map .mgang
  | _ => .error .op

def decode9 (lo : Nat) (w : Word) : Dec Instr :=
  match lo with
  | 0x0 => (dBinit w).map .binit
  | 0x1 => (dBinv w).map .binv
  | 0x2 => (dBarv w).map .barv
  | 0x3 => (dBexp w).map .bexp
  | 0x4 => (dBwait w).map .bwait
  | 0x5 => (dBtest w).map .btest
  | 0x6 => (dBbind w).map .bbind
  | 0x7 => (dCpy w).map .cpy
  | 0x8 => if (fExt w).getLsbD 13 then (dCpyt w).map .cpytSt else (dCpyt w).map .cpytLd
  | 0x9 => (dChtest w).map .chtest
  | 0xA => (dChwp w).map .chwp
  | 0xB => (dTlsig w).map .tlsig
  | 0xC => (dTlrd w).map .tlrd
  | 0xD => (dFence w).map .fence
  | _ => .error .op

def decodeA (e : Env) (lo : Nat) (w : Word) : Dec Instr :=
  match lo with
  | 0x0 => (dCreg w).map .creg
  | 0x1 => (dCreg w).map .cdreg
  | 0x2 => (dComb e w).map .comb
  | 0x3 => (dCrep e w).map .crep
  | 0x8 => (dXsend w).map .xsend
  | 0x9 => (dXfetch e w).map .xfetch
  | 0xA => if (mSub (fExt w)).getLsbD 0 then (dXatom e true w).map .xatomNr else (dXatom e false w).map .xatom
  | 0xB => (dXsig w).map .xsig
  | _ => .error .op

def decodeB (e : Env) (lo : Nat) (w : Word) : Dec Instr :=
  match lo with
  | 0x0 => if fMod w = 1 then (dCode 1 w).map .trapKill else (dCode 0 w).map .trap
  | 0x1 => (dNone w).map .rte
  | 0x2 => (dSrd e w).map .srd
  | 0x3 => (dSwr w).map .swr
  | 0x4 => (dNone w).map .park
  | 0x5 => (dNone w).map .yield
  | 0x6 => (dTwo w).map fun o => .ipref o.toIpref
  | 0x7 => (dChtest w).map fun o => .ipin o.toIpin
  | 0x8 => (dChtest w).map fun o => .iunpin o.toIpin
  | 0x9 => (dLaunch w).map .launch
  | 0xA => (dTwo w).map .enq
  | 0xB => (dTwo w).map .rsh
  | _ => .error .op

/-- The instruction a word stands for in a team, or the slot of the first failed check (R60, R61). -/
def decodeWord (e : Env) (w : Word) : Dec Instr :=
  let lo := (fOp w).toNat % 16
  match (fOp w).toNat / 16 with
  | 0x0 => decode0 lo w
  | 0x1 => decode1 lo w
  | 0x2 => decode2 e lo w
  | 0x3 => decode3 e lo w
  | 0x4 => decode4 e lo w
  | 0x5 => decode5 e lo w
  | 0x6 => decode6 e lo w
  | 0x7 => decode7 e lo w
  | 0x8 => decode8 e lo w
  | 0x9 => decode9 lo w
  | 0xA => decodeA e lo w
  | 0xB => decodeB e lo w
  | _ => .error .op

/-- Decoding of bytes: a word is eight bytes, the lowest first; fewer bytes are no instruction (R45). -/
def decode (e : Env) (bs : List Byte) : Option (Instr × List Byte) :=
  if bs.length < 8 then none
  else match decodeWord e (BitVec.ofNat 64 (fromBytes (bs.take 8))) with
    | .ok i => some (i, bs.drop 8)
    | .error _ => none

/-- The team `decodeTableWord` reads a word for: every register and tile exists, 32 lanes, team 0 of 16. -/
def Env.table : Env := { regs := 256, accs := 8, lanes := 32, teams := 16, idx := 0 }

/-- The instruction of the bits `w`, bit 0 the least significant of the first word: the eight bytes lowest first, given to `decode`. -/
def decodeTableWord (_nbits w : Nat) : Option Instr :=
  (decode Env.table (leBytes 8 w)).map Prod.fst

/-! ### The encoder -/

/-- The word of an instruction; an event has none. -/
def encodeWord : Instr → Option Word
  | .nop g => some (eNone 0x00 g)
  | .bra o => some (eBra 0x01 o)
  | .brq o => some (eBrq 0x02 o)
  | .brd o => some (eBrd 0x03 o)
  | .join g => some (eNone 0x04 g)
  | .loop o => some (eLoop 0x05 o)
  | .call o => some (eCall 0x06 0 o)
  | .ret o => some (eRet 0x07 o)
  | .exit g => some (eNone 0x08 g)
  | .bkpt o => some (eCode 0x09 0 o)
  | .slda o => some (eCall 0x0A 8 o)
  | .smov o => some (eSUn 0x10 o)
  | .smovi o => some (eSImm 0x11 o)
  | .sadd o => some (eSBin 0x12 o)
  | .ssub o => some (eSBin 0x13 o)
  | .smul o => some (eSBin 0x14 o)
  | .smulh o => some (eSBin 0x15 o)
  | .sand o => some (eSBin 0x16 o)
  | .sor o => some (eSBin 0x17 o)
  | .sxor o => some (eSBin 0x18 o)
  | .sshl o => some (eSBin 0x19 o)
  | .sshr o => some (eSBin 0x1A o)
  | .ssar o => some (eSBin 0x1B o)
  | .smin o => some (eSBin 0x1C o)
  | .smax o => some (eSBin 0x1D o)
  | .scmp o => some (eSCmp 0x1E o)
  | .ssel o => some (eSSel 0x1F o)
  | .vmov o => some (eVUn 0x20 o)
  | .vmovi o => some (eVImm 0x21 o)
  | .vbcst o => some (eVBcst 0x22 o)
  | .vadd o => some (eVBin 0x23 o)
  | .vsub o => some (eVBin 0x24 o)
  | .vadds o => some (eVBin 0x25 o)
  | .vsubs o => some (eVBin 0x26 o)
  | .vmul o => some (eVBin 0x27 o)
  | .vmulh o => some (eVBin 0x28 o)
  | .vmad o => some (eVTri 0x29 o)
  | .vabs o => some (eVUn 0x2A o)
  | .vneg o => some (eVUn 0x2B o)
  | .vmin o => some (eVBin 0x2C o)
  | .vmax o => some (eVBin 0x2D o)
  | .vand o => some (eVBin 0x2E o)
  | .vor o => some (eVBin 0x2F o)
  | .vxor o => some (eVBin 0x30 o)
  | .vnot o => some (eVUn 0x31 o)
  | .vshl o => some (eVBin 0x32 o)
  | .vshr o => some (eVBin 0x33 o)
  | .vsar o => some (eVBin 0x34 o)
  | .vclz o => some (eVUn 0x35 o)
  | .vpopc o => some (eVUn 0x36 o)
  | .vbfe o => some (eVBf 0x37 o)
  | .vbfi o => some (eVBf 0x38 o)
  | .vperm o => some (eVTri 0x39 o)
  | .vsel o => some (eVSel 0x3A o)
  | .vcmp o => some (eVCmp 0x3B o)
  | .vlea o => some (eVLea 0x3C o)
  | .vshf o => some (eVShf 0x40 o)
  | .vred o => some (eVRed 0x41 o)
  | .vscan o => some (eVRed 0x42 o)
  | .vbal o => some (eVBal 0x43 o)
  | .pand o => some (ePBin 0x48 o)
  | .por o => some (ePBin 0x49 o)
  | .pxor o => some (ePBin 0x4A o)
  | .pnot o => some (ePUn 0x4B o)
  | .pmov o => some (ePUn 0x4C o)
  | .pany o => some (ePAny 0x4D o)
  | .pall o => some (ePAny 0x4E o)
  | .fadd o => some (eFBin 0x50 o)
  | .fsub o => some (eFBin 0x51 o)
  | .fmul o => some (eFBin 0x52 o)
  | .ffma o => some (eFTri 0x53 o)
  | .fmin o => some (eFBin 0x54 o)
  | .fmax o => some (eFBin 0x55 o)
  | .fabs o => some (eFUn 0x56 o)
  | .fneg o => some (eFUn 0x57 o)
  | .fcmp o => some (eFCmp 0x58 o)
  | .fclass o => some (eFUn 0x59 o)
  | .frnd o => some (eFUn 0x5A o)
  | .hadd2 o => some (eFBin 0x5B o)
  | .hmul2 o => some (eFBin 0x5C o)
  | .hfma2 o => some (eFTri 0x5D o)
  | .fdot2 o => some (eFTri 0x5E o)
  | .frcp o => some (eFUn 0x60 o)
  | .frsq o => some (eFUn 0x61 o)
  | .fsqrt o => some (eFUn 0x62 o)
  | .fexp2 o => some (eFUn 0x63 o)
  | .flog2 o => some (eFUn 0x64 o)
  | .fsinpi o => some (eFUn 0x65 o)
  | .fcospi o => some (eFUn 0x66 o)
  | .ftanh o => some (eFUn 0x67 o)
  | .fsigm o => some (eFUn 0x68 o)
  | .cvt o => some (eCvt 0x6A o)
  | .pack o => some (eCvt 0x6B o)
  | .unpk o => some (eCvt 0x6C o)
  | .quant o => some (eCvt 0x6D o)
  | .deq o => some (eCvt 0x6E o)
  | .ld o => some (eLoad 0x70 o)
  | .st o => some (eStore 0x71 o)
  | .gath o => some (eLoad 0x72 o)
  | .scat o => some (eStore 0x73 o)
  | .atom o => some (eAtom 0x74 o)
  | .red o => some (eAtom 0x75 o)
  | .fix o => some (eTint 0x76 o)
  | .gdemShort o => some (eGdemShort 0x77 o)
  | .gdemAddress o => some (eGdemAddr 0x77 o)
  | .gtest o => some (eGtest 0x78 o)
  | .gdrop o => some (eTint 0x79 o)
  | .tmov o => some (eTmov 0x7A o)
  | .pref o => some (ePref 0x7B o)
  | .mzero o => some (eMzero 0x80 o)
  | .mma o => some (eMma 0x81 o)
  | .mmag o => some (eMma 0x82 o)
  | .mtrn o => some (eMtrn 0x83 o)
  | .mtrnDlt o => some (eMtrnDlt 0x83 o)
  | .mldw o => some (eMldw 0x84 o)
  | .mldwSave o => some (eMldwR 0x84 1 o)
  | .mldwRaw o => some (eMldwR 0x84 2 o)
  | .mrda o => some (eMrda 0x85 o)
  | .mrdaStatus o => some (eMrdaStatus 0x85 o)
  | .mwra o => some (eMwra 0x86 o)
  | .mgang o => some (eMgang 0x87 o)
  | .binit o => some (eBinit 0x90 o)
  | .binv o => some (eBinv 0x91 o)
  | .barv o => some (eBarv 0x92 o)
  | .bexp o => some (eBexp 0x93 o)
  | .bwait o => some (eBwait 0x94 o)
  | .btest o => some (eBtest 0x95 o)
  | .bbind o => some (eBbind 0x96 o)
  | .cpy o => some (eCpy 0x97 o)
  | .cpytLd o => some (eCpyt 0x98 false o)
  | .cpytSt o => some (eCpyt 0x98 true o)
  | .chtest o => some (eChtest 0x99 o)
  | .chwp o => some (eChwp 0x9A o)
  | .tlsig o => some (eTlsig 0x9B o)
  | .tlrd o => some (eTlrd 0x9C o)
  | .fence o => some (eFence 0x9D o)
  | .creg o => some (eCreg 0xA0 o)
  | .cdreg o => some (eCreg 0xA1 o)
  | .comb o => some (eComb 0xA2 o)
  | .crep o => some (eCrep 0xA3 o)
  | .xsend o => some (eXsend 0xA8 o)
  | .xfetch o => some (eXfetch 0xA9 o)
  | .xatom o => some (eXatom 0xAA false o)
  | .xatomNr o => some (eXatom 0xAA true o)
  | .xsig o => some (eXsig 0xAB o)
  | .trap o => some (eCode 0xB0 0 o)
  | .trapKill o => some (eCode 0xB0 1 o)
  | .rte g => some (eNone 0xB1 g)
  | .srd o => some (eSrd 0xB2 o)
  | .swr o => some (eSwr 0xB3 o)
  | .park g => some (eNone 0xB4 g)
  | .yield g => some (eNone 0xB5 g)
  | .ipref o => some (eTwo 0xB6 o.toTwo)
  | .ipin o => some (eChtest 0xB7 o.toChtest)
  | .iunpin o => some (eChtest 0xB8 o.toChtest)
  | .launch o => some (eLaunch 0xB9 o)
  | .enq o => some (eTwo 0xBA o)
  | .rsh o => some (eTwo 0xBB o)
  | .specialFunctionResult .. | .matrixEngineStart .. | .matrixInstructionDone .. | .gangTimeout ..
  | .barrierBytesCounted .. | .bindingFire .. | .copyChannelWord .. | .blockTransferBytes ..
  | .engineOperationComplete .. | .combinerRequestArrival .. | .skeinForm .. | .methodReturn ..
  | .methodFault .. | .methodTimeout .. | .combinerReplyWrite .. | .combinerGuardReject ..
  | .clauseStart .. | .codeFillArrival .. | .scoreboardRelease .. | .loadExpiry ..
  | .exactAnswerArrival .. | .lateAnswerArrival .. | .loadDestinationWrite .. | .tmovDeadline ..
  | .nearLeaseRecall .. | .routerPowerDown .. | .routerWake .. | .groupPlacement ..
  | .activeSetEntry .. | .parkRequest .. | .timeSliceExpiry .. | .parkTrap .. | .pageFaultPark ..
  | .redirectedValueWrite .. | .wakeCondition .. | .migrationRequest .. | .coreMapRewrite ..
  | .restoreStart .. | .groupKill .. | .groupRetire .. | .teamRetire .. | .bwaitWake ..
  | .kernelAccept .. | .kernelDrained .. | .outstandingAck .. | .kernelSignal .. | .errorRecordEntry ..
  | .queueHeadWatch .. | .queueBlockFetch .. | .queueDispatch .. | .queueLink .. | .queueRestart ..
  | .commandCompletion .. | .cmdNop .. | .cmdLaunch .. | .cmdWaittl .. | .cmdSigtl .. | .settlr ..
  | .map .. | .unmap .. | .reshard .. | .appendSwap .. | .create .. | .qreg | .qdrop | .recover
  | .destroy | .destructionComplete .. | .pretry | .pfail | .fwstage | .fwact | .health | .hwin
  | .migrate .. | .halt | .resume | .slice | .mailboxUnknownCode | .faultNoticeSend .. | .pageWalk ..
  | .pageMigration .. | .hostWindowRead .. | .hostWindowWrite .. | .hostAtomicop .. | .hrowcfgWrite ..
  | .eyeselWrite .. | .registerWrite .. | .rowActivationAlert .. | .eyeMarginLow .. | .poisonConsumed ..
  | .headerCrcFail | .errorSelfTest .. | .thermalTrip .. | .clockClamp .. | .powerClamp ..
  | .junctionShutdown | .reset | .powerGood | .stageReached .. | .portEnable .. | .linkTrainingResult ..
  | .linkError .. | .detourRetry .. | .flitReplay .. | .routeChange .. | .incarnationLearned ..
  | .stalePacketDrop .. | .fabricPacketArrival .. | .dropNotice .. | .reservationGrant ..
  | .grantWindowExpiry .. | .fabricAck .. | .planCompute .. | .reshardRunSend .. | .reshardRunAck ..
  | .planStop .. | .planDrained .. | .eyeMarginMeasurement .. | .apertureTableWrite .. => none

/-- The bytes of a word as memory holds them (R45). -/
def encode (i : Instr) : Option (List Byte) := (encodeWord i).map fun w => leBytes 8 w.toNat

end Sys2Proof
end

