-- ==== Sys2Proof/Config.lean ====
section
/-! DEFINITION. The values the spec leaves open, as constants without a body: nothing can be proved of their value, and a claim holds whatever they are. -/

namespace Sys2Proof.Config

/-- The f32 result a special function gives where R127 only bounds it (log 6).
The first argument is the major opcode of the function, the second its f32 operand.
The meaning takes this value only where it lies within the bound of R127. -/
opaque specialResult : Nat → Lane → Lane

/-- A byte of a weight-buffer region at placement, which R183 calls undefined (log 7).
The first argument numbers the placement, the second is the offset in the region. -/
opaque weightByte : Nat → Nat → Byte

/-- What an ATOM returns whose access to a guarded barrier object its home has rejected: R209 states no result (log 11).
The argument numbers the access and its lane. -/
opaque rejectedAtom : Nat → Word

/-- A register of a team whose group is placed again, until its handler loads it: the spec states no contents (log 19).
The argument numbers the placement and the register. -/
opaque restoredRegister : Nat → Word

/-- The bank of its pseudo-channel that holds an HBM address, as ROW_ACTIVATION_ALERT numbers it: R329 gives no numbering (log 69). -/
opaque bankOf : Nat → Nat

/-- What MRDA.i32 delivers of an fa48 element under a tinted sB, where R201 raises no fault and states no value (log 72). -/
opaque illegalTileRead : Nat → Lane

/-- The SHA-512 digest of an image body (R388, log 10). -/
opaque sha512 : List Byte → BitVec 512

/-- The Ed25519 check of a signature over a digest under a public key (R388, log 10). -/
opaque ed25519 : BitVec 256 → BitVec 512 → BitVec 512 → Bool

/-- Where an image keeps its header fields: the spec names the fields and no layout (R388, log 10).
The four results are the digest, the signature, the public key and the version of the image. -/
opaque imageHeader : List Byte → BitVec 512 × BitVec 512 × BitVec 256 × Nat

/-- The body of an image, over which its digest is taken (R388, log 10). -/
opaque imageBody : List Byte → List Byte

end Sys2Proof.Config
end

