-- ==== Sys2Proof/Machine/SMap.lean ====
section
/-! DEFINITION. Sparse data by number: a list of (key, value) pairs with keys strictly rising and no pair holding the value an unlisted key reads as. Memory, register files and tables are kept in this form, so that equal contents are equal lists. -/

namespace Sys2Proof

/-- A sparse map; its default value is given to every operation. -/
abbrev SMap (α : Type) := List (Nat × α)

/-- The value at a key. -/
def SMap.get {α : Type} (d : α) : SMap α → Nat → α
  | [], _ => d
  | (j, x) :: m, k => if j = k then x else SMap.get d m k

/-- The map without a key. -/
def SMap.erase {α : Type} : SMap α → Nat → SMap α
  | [], _ => []
  | (j, x) :: m, k => if j = k then SMap.erase m k else (j, x) :: SMap.erase m k

/-- The map with a pair put in its place. -/
def SMap.put {α : Type} : SMap α → Nat → α → SMap α
  | [], k, y => [(k, y)]
  | (j, x) :: m, k, y =>
    if j = k then (k, y) :: m
    else if k < j then (k, y) :: (j, x) :: m
    else (j, x) :: SMap.put m k y

/-- The map with the value at a key replaced, in canonical form. -/
def SMap.set {α : Type} [DecidableEq α] (d : α) (m : SMap α) (k : Nat) (y : α) : SMap α :=
  if y = d then m.erase k else m.put k y

/-- The keys rise strictly and each exceeds `lo`. -/
def SMap.risesFrom {α : Type} : Nat → SMap α → Bool
  | _, [] => true
  | lo, (j, _) :: m => decide (lo ≤ j) && SMap.risesFrom (j + 1) m

/-- The canonical form: strictly rising keys and no default value listed. -/
def SMap.wf {α : Type} [DecidableEq α] (d : α) (m : SMap α) : Bool :=
  SMap.risesFrom 0 m && m.all fun p => decide (p.2 ≠ d)

/-- The keys of `lo` to `hi - 1` at the default value. -/
def SMap.clear {α : Type} (m : SMap α) (lo hi : Nat) : SMap α :=
  m.filter fun p => p.1 < lo || hi ≤ p.1

/-- The listed pairs with keys of `lo` to `hi - 1`. -/
def SMap.slice {α : Type} (m : SMap α) (lo hi : Nat) : SMap α :=
  m.filter fun p => lo ≤ p.1 && p.1 < hi

/-- The values at `n` keys from `k`; the pairs given begin at or after `k`. -/
def SMap.dense {α : Type} (d : α) : Nat → Nat → SMap α → List α
  | 0, _, _ => []
  | n + 1, k, [] => d :: SMap.dense d n (k + 1) []
  | n + 1, k, (j, x) :: m =>
    if j = k then x :: SMap.dense d n (k + 1) m else d :: SMap.dense d n (k + 1) ((j, x) :: m)

/-- The map with the values of consecutive keys from `k` replaced, in canonical form. -/
def SMap.splice {α : Type} [DecidableEq α] (d : α) (m : SMap α) (k : Nat) (xs : List α) : SMap α :=
  (m.filter fun p => decide (p.1 < k))
    ++ ((xs.zipIdx k).filterMap fun p => if p.1 = d then none else some (p.2, p.1))
    ++ m.filter fun p => decide (k + xs.length ≤ p.1)

end Sys2Proof
end

