-- ==== Sys2Proof/Machine/State.lean ====
section
/-! DEFINITION. The state of one package as plain data: teams, groups, kernels, contexts, memory and every unit the spec gives registers, with what waits to be performed between them; and the state after reset. -/

namespace Sys2Proof.Machine

/-- The reasons a step can stop with. -/
inductive Fault where
  /-- Raised by a restore of a group whose device-owned save bytes a program has written: R270 leaves it undefined. Safe: the machine stops where the spec gives no effect. -/
  | restoreUndefined
  deriving DecidableEq, Repr

/-- The reasons for which the model has no meaning. -/
inductive Refusal where
  /-- Raised by the dispatcher for an instruction without a meaning. Safe: nothing is claimed of it. -/
  | notModelled (mnemonic : String)
  deriving DecidableEq, Repr

/-! ### Registers of a team -/

/-- A vector register lane: 32 value bits and a tint (R26). -/
structure VCell where
  val : Lane
  tint : Bool
  deriving DecidableEq, Repr
def VCell.zero : VCell := { val := 0, tint := false }

/-- A scalar register (R26). -/
structure SCell where
  val : Word
  tint : Bool
  deriving DecidableEq, Repr
def SCell.zero : SCell := { val := 0, tint := false }

/-- A predicate bit (R26). -/
structure PCell where
  val : Bool
  tint : Bool
  deriving DecidableEq, Repr
def PCell.zero : PCell := { val := false, tint := false }

/-- The states of a team (R89). -/
inductive TState where
  | created | pending | active | blocked | saved | exiting | retired
  deriving DecidableEq, Repr

/-- The mode of a team: HM of R274, and the method mode of R342. -/
inductive Mode where
  | program | user | system | method
  deriving DecidableEq, Repr

/-- The summary word of a lane set: bit r is set exactly when its word of row r is not zero (R90). -/
def summaryOf (m : LaneSet) : Lane := BitVec.ofNat 32 (bitsOf 32 fun r => bitsAt m.toNat (32 * r) 32 != 0)

/-- An entry of the mask stack (R92); the summary word it saves follows from the mask it saves. -/
structure StackEntry where
  target : Word
  mask : LaneSet
  ctl : LaneSet
  deriving DecidableEq, Repr
def StackEntry.summary (e : StackEntry) : Lane := summaryOf e.mask

/-- A clause that has started: its header address, the header and the instruction words, and the index of the next instruction (R45, R53). -/
structure Clause where
  hdr : Word
  header : Word
  words : List Word
  idx : Nat
  deriving DecidableEq, Repr

/-- The five fault registers and $gorigin, which the shadow set copies (R274, R282). -/
structure FaultRegs where
  cause : Word
  fpc : Word
  addr : Word
  lanes : Word
  opnd : Word
  gorigin : Word
  deriving DecidableEq, Repr
def FaultRegs.zero : FaultRegs := { cause := 0, fpc := 0, addr := 0, lanes := 0, opnd := 0, gorigin := 0 }

/-- The other system registers of a team (R40, R147, R278). -/
structure SysRegs where
  nstat : NFlags
  /-- Flags of MMA, MMAG and MTRN that $nstat shows once a clause has waited on WMX (R40, R49). -/
  mflags : NFlags
  gdrop : BitVec 32
  gdrill : Bool
  tvec : Word
  deriving DecidableEq, Repr
def SysRegs.zero : SysRegs := { nstat := 0, mflags := 0, gdrop := 0, gdrill := false, tvec := 0 }

/-- A trap to be taken: cause code, $faddr, $flanes, $fopnd, SUB and SKIP (R273, R274); a fault without translation carries ACC and WHY of its notice (R323). -/
structure Trap where
  cause : Nat
  addr : Nat
  lanes : Nat
  opnd : Nat
  sub : Nat
  skip : Bool
  acc : Nat
  why : Nat
  deriving DecidableEq, Repr

/-- Where a fault that waits in a team is taken: at a clause start, before the checks of R51 (R195, R265); where the team next stands, which for an instruction inside a clause is that instruction (R418); or there once its restore handler has returned, for a value that a park redirected (log 26). -/
inductive FaultAt where
  | clause | stand | restored
  deriving DecidableEq, Repr

/-- A fault that waits in a team. -/
structure Deferred where
  trap : Trap
  at_ : FaultAt
  deriving DecidableEq, Repr

/-- What a request carries of its issuer: words 5 to 7 of a report (R310). -/
structure ReqHdr where
  team : Nat
  lcore : Nat
  pcore : Nat
  kernel : Nat
  group : Nat
  deriving DecidableEq, Repr
def ReqHdr.nobody : ReqHdr := { team := 0, lcore := 0, pcore := 0, kernel := 0, group := 0 }

/-- A fault without translation that waits for its group to park: what its notice says, and the completed MAPs that its walk saw (R323, R324). -/
structure PageFault where
  acc : Nat
  why : Nat
  va : Nat
  maps : Nat
  /-- The fault has been handed to the fault service (R323). -/
  posted : Bool
  deriving DecidableEq, Repr

/-- A register that a pending result will write (R49). -/
inductive Reg where
  | v (i : Nat)
  | s (i : Nat)
  | p (i : Nat)
  | q (i : Nat)
  deriving DecidableEq, Repr

/-- A special-function result on its way to its register: the lanes it writes (R48, R126). -/
structure SfResult where
  key : Nat
  d : Nat
  lanes : List (Nat × VCell)
  /-- The lanes whose values are overwritten. -/
  act : List Nat
  deriving DecidableEq, Repr

/-- An open fence: what it waits for is every earlier access; what it holds is every later one (R232). -/
structure FenceRec where
  seq : Nat
  scope : Scope
  acq : Bool
  rel : Bool
  deriving DecidableEq, Repr

/-- A barrier object: in a group's scratchpad, at a physical address of this package, or at one of a peer (R207). -/
inductive ObjLoc where
  | scratch (gid : Nat) (sp : Space) (off : Nat)
  | phys (addr : Nat)
  | peer (rank : Nat) (addr : Nat)
  deriving DecidableEq, Repr

/-- What a Blocked team waits for: the object, the phase, the predicate that takes the outcome and the resume point (R89, R225). -/
structure WaitFor where
  obj : ObjLoc
  va : Nat
  phase : Nat
  q : Option (Fin 4)
  scope : Scope
  hdr : Word
  idx : Nat
  count : Nat
  /-- Its clause carries the yield hint (R52). -/
  hint : Bool
  /-- The home's answer: none while it waits, then success, or the failure code. -/
  answer : Option (Option Nat)
  deriving DecidableEq, Repr

/-- How a method failed: the cause of R344, the address of its instruction and the lane (R337). -/
structure MethodFail where
  cause : Nat
  pc : Word
  lane : Nat
  deriving DecidableEq, Repr

/-- What a method team works on: its registration, the object's range in its context and in memory, the buffered stores by offset and the replies so far (R342, R343). -/
structure MethodCtx where
  msu : Nat
  reg : Nat
  ctx : Nat
  base : Nat
  size : Nat
  phys : Nat
  stores : SMap (Option Byte)
  replies : SMap Word
  failed : Option MethodFail
  deriving DecidableEq, Repr

/-- A team slot (R18, R88, R89). Registers are sparse: vector lane `1024 * r + L`, scalar `r`, predicate `1024 * p + L`, scalar predicate `q`. -/
structure Team where
  id : TeamId
  lanes : Nat
  regs : Nat
  accs : Nat
  teams : Nat
  ftz : Bool
  prio : Nat
  v : SMap VCell
  s : SMap SCell
  p : SMap PCell
  q : SMap PCell
  mask : LaneSet
  ctl : LaneSet
  stack : List StackEntry
  pc : Word
  /-- The index at which the clause at `pc` starts: 0, or a resume index (R53). -/
  start : Nat
  clause : Option Clause
  gang : BitVec 16
  sys : SysRegs
  fr : FaultRegs
  shadow : FaultRegs
  mode : Mode
  state : TState
  /-- Member of the active set of its core (R263). -/
  inSet : Bool
  age : Nat
  readyAt : Option Nat
  issuedAt : Nat
  /-- The yield hint stands, with the teams that have started a clause since (R52). -/
  yielding : Option (List TeamId)
  /-- The group's park or migrate trap waits for this team's next clause boundary (R260, R269). -/
  parkDue : Option Nat
  /-- A page fault of this team waits for its park: the handler is entered then (R260, R267). -/
  faultPark : Option PageFault
  /-- It has executed RTE from a restore handler and waits for the others (R272). -/
  restored : Bool
  deferred : List Deferred
  sf : List SfResult
  fences : List FenceRec
  wait : Option WaitFor
  seq : Nat
  /-- Registers whose writer is held elsewhere: a BARV or a BTEST of a Plain object (R210, R49). -/
  heldRegs : List Reg
  method : Option MethodCtx
  deriving DecidableEq, Repr

/-- A team as it is created (R88), with the given place and code address. -/
def Team.create (id : TeamId) (lanes regs accs teams : Nat) (ftz : Bool) (prio : Nat) (pc s0 : Word) : Team :=
  { id, lanes, regs, accs, teams, ftz, prio,
    v := [], s := if s0 = 0 then [] else [(0, { val := s0, tint := false })], p := [], q := [],
    mask := BitVec.ofNat 1024 (2 ^ lanes - 1), ctl := 0, stack := [], pc, start := 0, clause := none,
    gang := 0, sys := SysRegs.zero, fr := FaultRegs.zero, shadow := FaultRegs.zero,
    mode := .program, state := .created, inSet := false, age := 0, readyAt := none, issuedAt := 0,
    yielding := none, parkDue := none, faultPark := none, restored := false, deferred := [], sf := [],
    fences := [], wait := none, seq := 0, heldRegs := [], method := none }

/-- The summary words of a team's mask and of its control-tint mask (R88, R90). -/
def Team.summary (t : Team) : Lane := summaryOf t.mask

/-! ### Groups, kernels, contexts -/

/-- The states of a group (R260); Halted keeps the state it left. -/
inductive GState where
  | queued | resident | saving | parked | moving | restoring | halted (from_ : Nat) | killed | retired
  deriving DecidableEq, Repr

/-- What started the Saving state (R267, R268). -/
inductive SaveCause where
  | none | park | slice | migrate | page
  deriving DecidableEq, Repr

/-- What a parked group waits for (R268). -/
inductive Wake where
  | object (o : ObjLoc) (phase : Nat)
  | values
  | page (ctx : Nat) (region : Nat)
  | now
  deriving DecidableEq, Repr

/-- Where the bytes of an access lie. -/
inductive Place where
  | scratch (gid : Nat) (sp : Space) (off : Nat)
  | phys (addr : Nat)
  | peer (rank : Nat) (addr : Nat)
  | nowhere
  deriving DecidableEq, Repr

/-- One team's part in an MMA or MMAG: its elements of A by rows, or the load that reads its window, its tile, and whether an operand or a scalar operand was tinted (R181, R192, R193). -/
structure MatPart where
  team : TeamId
  seq : Nat
  pc : Word
  num : Nat
  d : Nat
  frag : List Nat
  win : Option Nat
  tint : Bool
  skip : Bool
  /-- sB was tinted: the image there is not checked for this part. -/
  blind : Bool
  deriving DecidableEq, Repr

/-- What a queued matrix instruction does (R191-R204). -/
inductive MatKind where
  /-- A tinted team guard that was false: the tile-tint bit alone (R181). -/
  | mark (d : Nat)
  | zero (d : Nat) (ia tint : Bool)
  | mma (fa fb : Fmt) (k off : Nat) (parts : List MatPart)
  | trn (k off : Nat) (part : MatPart) (dlt : Option (Nat × Nat))
  | ldw (off len : Nat) (load : Option Nat)
  | save (off len : Nat) (va : Nat) (runs : List (Place × Nat)) (post : Option Nat)
  | rda (fmt : Fmt) (rm : Rm) (sat : Bool) (tau : Option Lane) (d a e0 nreg : Nat) (lanes : List (Nat × Bool))
  | status (d : Nat) (lanes : List (Nat × Bool))
  | wra (d : Nat) (ia : Bool) (els : List (Nat × Nat)) (tint clear : Bool)
  | gang
  deriving DecidableEq, Repr

/-- A matrix instruction in its core's queue, in issue order (R180): `started` is the cycle in which the engine started it. -/
structure MatJob where
  key : Nat
  team : TeamId
  seq : Nat
  pc : Word
  core : Nat
  num : Option Nat
  fences : List FenceRec
  kind : MatKind
  started : Option Nat
  deriving DecidableEq, Repr

/-- The rendezvous latch of a group while it gathers (R194); `sb` is the first untinted value of sB. -/
structure Latch where
  mask : BitVec 16
  fa : Fmt
  fb : Fmt
  shape : Shape
  handle : Bool
  sb : Option Word
  since : Nat
  arrived : List MatPart
  deriving DecidableEq, Repr

/-- One engine timeline: the last number taken and the numbers above the value that have completed (R215, R216). -/
structure Timeline where
  taken : Nat
  value : Nat
  done : List Nat
  deriving DecidableEq, Repr
def Timeline.zero : Timeline := { taken := 0, value := 0, done := [] }

/-- A barrier operation at the home of its object (R208, R210): the number of an armed binding stands for BBIND. -/
inductive BarOp where
  | init (n : Nat)
  | inv
  | arrive
  | expect (out : Bool) (n : Nat)
  | count (out : Bool) (n : Nat)
  | bind (key : Nat)
  | wait (phase : Nat)
  | test (phase : Nat)
  deriving DecidableEq, Repr

/-- A request that the home of a Plain object holds: the team and the register that its answer goes to, if any (R210). -/
structure HeldReq where
  sp : Space
  off : Nat
  op : BarOp
  team : Option TeamId
  d : Nat
  /-- The result is tinted: the team's control-tint bit was set at issue (R94). -/
  tint : Bool
  deriving DecidableEq, Repr

/-- A team's state as the device saves it in its slot image; the layout of the bytes is the device's own (R270). -/
structure SlotImage where
  s : SMap SCell
  p : SMap PCell
  q : SMap PCell
  mask : LaneSet
  ctl : LaneSet
  stack : List StackEntry
  gang : BitVec 16
  sys : SysRegs
  fr : FaultRegs
  shadow : FaultRegs
  mode : Mode
  pc : Word
  start : Nat
  deriving DecidableEq, Repr

/-- A scratchpad allocation: bytes by offset, guard marks by 16-byte unit, poison marks by 32-byte sector (R209, R262, R331). -/
structure Scratch where
  mem : SMap Byte
  guard : SMap Bool
  poison : SMap Bool
  deriving DecidableEq, Repr
def Scratch.zero : Scratch := { mem := [], guard := [], poison := [] }

/-- A group (R260-R276). Scratchpad bytes and guards are sparse by offset and by 16-byte unit; tile element `e` of tile `j` is `4096 * j + e`. -/
structure Group where
  gid : Nat
  kid : Nat
  ctx : Nat
  index : Nat
  state : GState
  lcore : Nat
  retry : Nat
  k : Scratch
  q : Scratch
  d : Scratch
  held : List HeldReq
  tl : SMap Timeline
  tiles : SMap Nat
  tileIa : SMap Bool
  tileTint : SMap Bool
  wbuf : SMap (Option Byte)
  /-- The number of the placement, which names the undefined weight bytes (R183). -/
  placement : Nat
  latch : Option Latch
  saveAddr : Option Nat
  constAddr : Option Nat
  residentSince : Nat
  /-- Since when it has stood at a blocking point, as of the last cycle (R266). -/
  blockedSince : Option Nat
  cause : SaveCause
  parkAsked : Option ParkSource
  migrateAsked : Bool
  wakes : List Wake
  awake : Bool
  images : List (Nat × SlotImage)
  savedGuards : List (Nat × Nat)
  savedBinds : List Nat
  /-- A program has written the device's own bytes of the save area (R270). -/
  imageLost : Bool
  hasImage : Bool
  /-- The .d offset of its allocation in its die's lower part, for the home of its bytes (R315, R327). -/
  dBase : Nat
  killCause : Option Nat
  deriving DecidableEq, Repr

/-- The states of a kernel (R291). -/
inductive KState where
  | accepted | running | erroring | draining | signalling | done | abandoned
  deriving DecidableEq, Repr

/-- The fields of a launch parameter block (R287). -/
structure Lpb where
  code : Nat
  gx : Nat
  gy : Nat
  gz : Nat
  argq : Nat
  mig : Bool
  retry : Nat
  idem : Bool
  prio : Nat
  ftz : Bool
  accs : Nat
  regs : Nat
  teams : Nat
  lanes : Nat
  d : Nat
  q : Nat
  k : Nat
  wbuf : Nat
  tlAddr : Nat
  tlVal : Nat
  stAddr : Nat
  deriving DecidableEq, Repr

/-- A kernel and its record in the context (R290, R291); groups above `next` have not been made yet. -/
structure Kernel where
  kid : Nat
  ctx : Nat
  id : Nat
  state : KState
  lpb : Lpb
  /-- The LPB as it was read at acceptance: none where it could not be read (R288, R290). -/
  raw : Option (List Byte)
  args : List Byte
  prio : Nat
  code : Nat
  cause : Nat
  retries : Nat
  /-- Groups made so far, and groups retired. -/
  made : Nat
  retired : Nat
  cmd : Option Nat
  deriving DecidableEq, Repr

/-- The states of a context (R307). -/
inductive CState where
  | active | faulted | destroying
  deriving DecidableEq, Repr

/-- The walk of a queue (R303). -/
inductive QState where
  | empty | fetching | held | linking | stopped | gone
  deriving DecidableEq, Repr

/-- A queue registration with its walk (R298, R303). -/
structure QueueReg where
  desc : Nat
  prio : Nat
  privileged : Bool
  state : QState
  cur : Nat
  block : List Word
  /-- The command that cur became at its dispatch, and the WAITTL still unsatisfied. -/
  curCmd : Option Nat
  waiting : Option Nat
  /-- A number that rises with each dispatch, for the turn among queues of equal priority (R303). -/
  served : Nat
  deriving DecidableEq, Repr

/-- A live context (R305-R307). -/
structure Ctx where
  slot : Nat
  id : Nat
  state : CState
  root : Nat
  table : Nat
  tableLen : Nat
  errAddr : Nat
  save : Nat
  saveSize : Nat
  const : Nat
  constSize : Nat
  setup : Nat
  setupSize : Nat
  handler : Nat
  queues : List QueueReg
  nextKernel : Nat
  maps : Nat
  deriving DecidableEq, Repr

/-! ### Accesses in flight -/

/-- The states of a load's lane (R141). In `expired` the record's own states are told by `late`, `gone` and `dem` of the lane: Late held where the answer has come, Demanded where a GDEM waits. -/
inductive LaneSt where
  | waiting | exact | expired | guessOnly | abandoned
  deriving DecidableEq, Repr

/-- What a GDEM lane waits for and has (R169): registers with the record each waits for (the load and its register there), the registers given so far, and those that its own read gives. -/
structure GdemLane where
  links : List (Nat × Nat × Nat)
  got : List (Nat × Nat)
  again : List Nat
  deriving DecidableEq, Repr

/-- A lane of an access that returns a value (R141). `value` is the exact value, `guess` the guess of its expiry. -/
structure LoadLane where
  lane : Nat
  place : Place
  addr : Nat
  tintAddr : Bool
  st : LaneSt
  value : Nat
  guess : Nat
  /-- The cause that a poisoned, denied or lost answer raises when it is written (R418). -/
  bad : Option Nat
  /-- Whatever the answer, the destination is tinted: guard, control tint, or an abandoned lane (R57, R94). -/
  tint : Bool
  /-- The request has been performed at its home. -/
  performed : Bool
  /-- The answer has reached the lane's record. -/
  late : Bool
  /-- Registers of the group, by bit, whose record is released, and those that a GDEM demands (R142). -/
  gone : Nat
  dem : Nat
  /-- The bit of the tint map that gives the lane its tint: 8 × its byte's physical address + its bit (R271). -/
  tintAt : Option Nat
  /-- Operands of an atomic: its value and the compared value. -/
  x : Nat
  c : Nat
  /-- A lane of a GDEM. -/
  gd : Option GdemLane
  deriving DecidableEq, Repr

/-- What kind of access a load entry is. -/
inductive LoadKind where
  | load | atom (op : AtomOp) | gdem | pref | mat
  deriving DecidableEq, Repr

/-- An access that returns values, from its issue until its destination is written and its records are free (R141-R143). -/
structure Load where
  key : Nat
  team : TeamId
  seq : Nat
  pc : Word
  kind : LoadKind
  sp : Space
  w : Width
  signed : Bool
  d : Nat
  /-- The registers it writes: those of its width, or the one of a short GDEM. -/
  regs : Nat
  limit : Nat
  issued : Nat
  acq : Option Scope
  rel : Option Scope
  relaxed : Bool
  lanes : List LoadLane
  /-- Lanes under a false tinted guard: they keep their value and become tinted (R57). -/
  keep : List Nat
  /-- The release fences before it that were open at its issue (R232, R242). -/
  fences : List FenceRec
  /-- The destination has been written; what remains are late-answer records (R142). -/
  written : Bool
  core : Nat
  ctx : Nat
  /-- A park has redirected it: its value goes to the save area (R267). -/
  redirected : Bool
  /-- A rejection at its home has been reported (R209, R335). -/
  told : Bool := false
  /-- The issuer, as the request header names it (R310). -/
  hdr : ReqHdr
  deriving DecidableEq, Repr

/-- One write of a posted access: its bytes and where they go; a reduction names its operation. -/
structure PostWrite where
  place : Place
  va : Nat
  data : List Byte
  red : Option AtomOp
  done : Bool
  deriving DecidableEq, Repr

/-- A posted access: a store to .g, a scatter, a reduction, a timeline raise (R163, R166, R217, R292). -/
structure Post where
  key : Nat
  team : TeamId
  seq : Nat
  pc : Word
  w : Width
  signed : Bool
  rel : Option Scope
  fences : List FenceRec
  writes : List PostWrite
  /-- Its counting entry: physical core and kernel, where it has one (R292). -/
  core : Nat
  kid : Nat
  counted : Bool
  ctx : Nat
  /-- The number on an engine timeline that it completes: the engine and the number. -/
  num : Option (Nat × Nat)
  /-- A signal to a peer: its operation and, under .ordf, the path sequences it carries (R370). -/
  sig : Option (SigOp × Option (List Nat))
  /-- The relaxed bit of its packets (R357). -/
  relaxed : Bool
  /-- The engine on whose timeline it takes a number, and whether it has left WAI: it is counted, with its number (R48, R292). -/
  eng : Option Nat
  accepted : Bool
  /-- Its count has been added (R292). -/
  entered : Bool
  /-- The path toward each of its peers, as the route table gave it at acceptance (R254, R359). -/
  paths : List (Nat × Nat)
  /-- A rejection at its home has been reported (R209, R335). -/
  told : Bool := false
  hdr : ReqHdr
  deriving DecidableEq, Repr

/-- What an engine operation moves. -/
inductive EngKind where
  | cpy (chan : Nat)
  | tmov
  | cpytLd
  | cpytSt
  | xsend
  deriving DecidableEq, Repr

/-- One unit of a block operation: where its bytes come from and go to, and the bits it writes of them (R229). -/
structure EngUnit where
  src : Place
  dst : Place
  bytes : Nat
  /-- The bits in the extents: the others are written as zero by .ld and left by .st. -/
  mask : Nat
  /-- What the source held when it was read, and whether it was poisoned. -/
  data : List Byte
  bad : Bool
  /-- The chunk of the map that the unit belongs to (R220). -/
  chunk : Option Nat
  /-- The source has been read, and the destination written. -/
  got : Bool
  done : Bool
  deriving DecidableEq, Repr

/-- An operation of a copy channel, the block-transfer engine or the fabric send engine (R218-R220, R171, R229, R367). A CPY and an XSEND keep their ranges as runs, the block operations their units. -/
structure EngOp where
  key : Nat
  team : TeamId
  seq : Nat
  kind : EngKind
  src : List (Place × Nat)
  dst : List (Place × Nat)
  units : List EngUnit
  /-- Bytes read from the source, and bytes written at the destination. -/
  fetched : Nat
  landed : Nat
  total : Nat
  bar : Option ObjLoc
  barVa : Nat
  out : Bool
  num : Nat
  map : Option Nat
  /-- What a copy channel has read and not yet delivered, the oldest first, each with whether it is poisoned (R218). -/
  flight : List (List Byte × Bool)
  limit : Nat
  issued : Nat
  atDeadline : Bool
  core : Nat
  kid : Nat
  ctx : Nat
  rel : Option Scope
  relaxed : Bool
  /-- XSEND: target, path and the first byte's position in the path sequence, and the ranges acknowledged and dropped (R358, R359). -/
  tgt : Nat
  by_ : SendPath
  path : Nat
  offset : Nat
  acked : List (Nat × Nat)
  dropped : List (Nat × Nat)
  grant : Option (Nat × Nat)
  va : Nat
  /-- Where it has landed poisoned bytes (R331). -/
  bads : List (Place × Nat)
  /-- It has left WAI: its engine has accepted it, with its number (R48). -/
  accepted : Bool
  /-- Its count has been added (R292). -/
  entered : Bool
  /-- A rejection at its home has been reported (R209, R335). -/
  told : Bool := false
  hdr : ReqHdr
  deriving DecidableEq, Repr

/-- A byte count on its way to a barrier object (R208). -/
structure BarCount where
  key : Nat
  /-- The operation whose bytes it counts. -/
  op : Nat
  obj : ObjLoc
  va : Nat
  out : Bool
  n : Nat
  ctx : Nat
  /-- The core whose engine sends it, and the issuer of its operation. -/
  core : Nat
  hdr : ReqHdr
  /-- It has reached a group that is on the move, and is held there (R269). -/
  held : Bool
  deriving DecidableEq, Repr

/-- What a binding compares (R212); a word of a peer is compared there. -/
inductive BindCond where
  | engine (gid : Nat) (e : Nat) (v : Nat)
  | memTl (addr : Nat) (v : Nat)
  | chunk (gid : Nat) (map first last : Nat)
  | watch (addr : Nat) (x : Nat)
  | peer (rank : Nat) (addr : Nat)
  deriving DecidableEq, Repr

/-- A binding with the object it belongs to, armed where its comparison is made (R212, R213); the number of its entry at the object's home is BID. -/
structure Binding where
  key : Nat
  obj : ObjLoc
  va : Nat
  kind : BindKind
  cond : BindCond
  bid : Nat
  satisfied : Bool
  /-- The condition was seen true; the notice is on its way to the object's home. -/
  fired : Bool
  ctx : Nat
  /-- The rank of the package whose team made it (R362). -/
  owner : Nat
  deriving DecidableEq, Repr

/-- A barrier operation of a team on an object of a peer, until the answer has come: the counting entry it holds, and the answer (R265, R292, R365). -/
structure BarSent where
  key : Nat
  team : TeamId
  seq : Nat
  rank : Nat
  va : Nat
  core : Nat
  kid : Nat
  counted : Bool
  answer : Option BarrierAnswer
  ctx : Nat
  hdr : ReqHdr
  deriving DecidableEq, Repr

/-- A release below pod scope that its home has performed while earlier accesses of its team are still due: the teams that its scope covered in that cycle, by their groups, see its bytes only after those (R241, R242, R245). -/
structure EarlyRel where
  team : TeamId
  seq : Nat
  gids : List Nat
  place : Place
  bytes : Nat
  deriving DecidableEq, Repr

/-- Bytes of an acquire below package scope that is still due while a later access of its team has been performed: the teams that its scope covered in that cycle write them only after the acquire (R243, R245). -/
structure EarlyAcq where
  team : TeamId
  /-- The place of the acquire in its team's order. -/
  seq : Nat
  gids : List Nat
  place : Place
  bytes : Nat
  deriving DecidableEq, Repr

/-- A waiter of a peer on an object of this package (R365). -/
structure RemoteWait where
  rank : Nat
  team : TeamId
  obj : Nat
  deriving DecidableEq, Repr

/-! ### The pod fabric (R351-R365) -/

/-- The states of a port (R355). -/
inductive PortState where
  | down | training | trained | degraded | detoured | failed
  deriving DecidableEq, Repr

/-- A port with what PSTAT shows (R356), its failed training attempts in a row and the cycle in which the last one started or ended (R355). -/
structure Port where
  state : PortState
  lanes : Nat
  pinc : Nat
  stale : Nat
  replays : Nat
  tries : Nat
  since : Nat
  deriving DecidableEq, Repr
def Port.init : Port := { state := .down, lanes := 0, pinc := 0, stale := 0, replays := 0, tries := 0, since := 0 }

/-- New packets for a target are held until the posted writes sent on its old path are acknowledged (R254): all packets but those of the operations `sent`, by the writes of `keys` and the re-shard runs of `runs`. -/
structure RouteHold where
  tgt : Nat
  /-- The operations whose packets had gone before the change. -/
  sent : List Nat
  keys : List Nat
  /-- Plan, step and run. -/
  runs : List (Nat × Nat × Nat)
  deriving DecidableEq, Repr

/-- A signal with the ordered-flag bit that this package holds (R370). -/
structure HeldSignal where
  src : Nat
  team : TeamId
  ctx : Nat
  op : SigOp
  addr : Nat
  x : Word
  carried : List Nat
  deriving DecidableEq, Repr

/-- Bytes of a path disposed of beyond its landed prefix (R359). -/
structure LandedRange where
  key : Nat
  lo : Nat
  hi : Nat
  deriving DecidableEq, Repr

/-- Bytes of an engine that the landing buffer of a core holds for a migrating group (R267, R269). -/
structure Landed where
  op : Nat
  core : Nat
  place : Place
  data : List Byte
  mask : Nat
  bad : Bool
  /-- The bytes it counts, and the chunk and map it belongs to. -/
  n : Nat
  chunk : Option Nat
  deriving DecidableEq, Repr

/-! ### Combiner (R334-R347) -/

/-- The states of a registration that exists (R339). -/
inductive RegState where
  | live | broken | draining
  deriving DecidableEq, Repr

/-- What a record says of a failed skein: MPC, ORIGIN, LANE and NREQ (R337). -/
structure RegFail where
  mpc : Nat
  origin : Nat
  lane : Nat
  nreq : Nat
  deriving DecidableEq, Repr
def RegFail.none : RegFail := { mpc := 0, origin := 0, lane := 0, nreq := 0 }
/-- A registration held at its home MSU: its descriptor's fields, where object and record lie, and what its record holds (R337, R339). -/
structure CombReg where
  key : Nat
  msu : Nat
  ctx : Nat
  base : Nat
  phys : Nat
  size : Nat
  method : Nat
  gwin : Nat
  regs : Nat
  record : Place
  recVa : Nat
  state : RegState
  commits : Nat
  cause : Nat
  fail : RegFail
  /-- The cycles of the last request for it, and of the last one in an earlier cycle (R341). -/
  lastAt : Option Nat
  prevAt : Option Nat
  deriving DecidableEq, Repr

/-- A request: the COMB and lane it comes from, its address, argument and origin, and when it entered the queue (R340, R342). -/
structure CombReq where
  comb : Nat
  lane : Nat
  va : Nat
  phys : Nat
  arg : Word
  origin : Nat
  ctx : Nat
  reg : Nat
  at_ : Nat
  deriving DecidableEq, Repr

/-- A packet of requests of one row for one home, still at its sender (R340). -/
structure CombPacket where
  key : Nat
  comb : Nat
  team : TeamId
  seq : Nat
  msu : Nat
  reqs : List CombReq
  deriving DecidableEq, Repr

/-- A COMB in flight: its lanes with the replies so far; a failure is marked true (R347). -/
structure Comb where
  key : Nat
  team : TeamId
  seq : Nat
  pc : Word
  d : Nat
  status : Nat
  lanes : List Nat
  replies : SMap (Word × Bool)
  num : Nat
  core : Nat
  ctx : Nat
  redirected : Bool
  deriving DecidableEq, Repr

/-- The skein that a micro-core runs; its method team is the team of group 0 with the MSU's number (R341, R342). -/
structure Skein where
  reg : Nat
  reqs : List CombReq
  start : Nat
  deriving DecidableEq, Repr

/-- The combiner of an MSU: its queue, its skein and its method cache (R334, R344). -/
structure Msu where
  queue : List CombReq
  skein : Option Skein
  cache : List (Nat × Nat × List Byte)
  deriving DecidableEq, Repr
def Msu.init : Msu := { queue := [], skein := none, cache := [] }

/-! ### Cores, quads, MSUs and dies -/

/-- An entry of the last-value table (R144). -/
structure LvtEntry where
  valid : Bool
  tag : Nat
  ctx : Nat
  value : Lane
  stride : BitVec 16
  conf : Nat
  deriving DecidableEq, Repr
def LvtEntry.invalid : LvtEntry := { valid := false, tag := 0, ctx := 0, value := 0, stride := 0, conf := 0 }

/-- A TLB entry: the context and the page it maps, its size and its page-table entry (R320). -/
structure TlbEntry where
  ctx : Nat
  page : Nat
  size : Nat
  pte : Word
  deriving DecidableEq, Repr

/-- A cached tensor layout record (R178). -/
structure TlrLine where
  ctx : Nat
  handle : Nat
  bytes : List Byte
  deriving DecidableEq, Repr

/-- A line of an instruction cache (R63, R66). -/
structure CodeLine where
  ctx : Nat
  line : Nat
  bytes : List Byte
  /-- Still filling, with pins waiting; otherwise Valid, or Pinned when the count is above 0. -/
  filling : Bool
  pins : Nat
  used : Nat
  /-- The cores that take a copy of a line being filled, with the team that fetches it. -/
  wants : List (Nat × Option TeamId)
  /-- The team whose IPREF or IPIN asked for the fill, and its place in program order: the fill reads there (R252). -/
  by_ : Option (TeamId × Nat)
  deriving DecidableEq, Repr

/-- An outstanding entry: kernel and count (R292). -/
structure OutEntry where
  kid : Nat
  count : Nat
  deriving DecidableEq, Repr

/-- A word that trains the last-value table at the end of its cycle: the load and lane it comes from, and the word (R146). -/
structure Train where
  load : Nat
  lane : Nat
  ctx : Nat
  sp : Space
  addr : Nat
  word : Lane
  deriving DecidableEq, Repr

/-- The physical units of a core. -/
structure Core where
  lvt : SMap LvtEntry
  trains : List Train
  lease : List Nat
  predictor : SMap Nat
  tlb : List TlbEntry
  tlr : List TlrLine
  l0 : List CodeLine
  out : List OutEntry
  issues : Nat
  celsius : Nat
  deriving DecidableEq, Repr
def Core.init : Core :=
  { lvt := [], trains := [], lease := [], predictor := [], tlb := [], tlr := [], l0 := [], out := [], issues := 0, celsius := 0 }

/-- The units of a quad. -/
structure Quad where
  tlb : List TlbEntry
  l1 : List CodeLine
  /-- The arithmetic clock in MHz that a clamp allows, 940 while none is in force; the clock that the firmware asks for; the cycle in which the clamp last lowered it (R389). -/
  cap : Nat
  want : Nat
  clampAt : Nat
  deriving DecidableEq, Repr
def Quad.init : Quad := { tlb := [], l1 := [], cap := 940, want := 940, clampAt := 0 }
/-- The arithmetic clock of a quad: where the firmware and a clamp differ, the lower wins (R389). -/
def Quad.clock (q : Quad) : Nat := min q.cap q.want

/-- The units of a die: the last-level TLB with the ways taken out of use, which routers are powered down and since which MSU cycle each has been idle, and the packets that each has taken in the present MSU cycle (R15, R17, R320, R392). -/
structure Die where
  tlb : List TlbEntry
  lostWays : Nat
  down : SMap Bool
  idleSince : SMap Nat
  passing : SMap Nat
  deriving DecidableEq, Repr
/-- At reset every router is powered with an idle count from cycle 0 (DESIGN CHOICE, log 63). -/
def Die.init : Die := { tlb := [], lostWays := 0, down := [], idleSince := [], passing := [] }

/-! ### Queues, plans and the management processor (R297-R304, R323, R373-R394) -/

/-- An append by ENQ or a host: `old` is what its swap returned, and its link write is still to be performed (R296, R302). -/
structure Append where
  key : Nat
  ctx : Nat
  desc : Nat
  block : Nat
  team : TeamId
  seq : Nat
  core : Nat
  kid : Nat
  counted : Bool
  /-- It has left WAI: it is counted (R48, R292). -/
  accepted : Bool
  old : Option Nat
  hdr : ReqHdr
  deriving DecidableEq, Repr

/-- A LAUNCH in WAI: its LPB's address, its context, and the priority of the kernel that issued it (R294, R295). -/
structure Launch where
  key : Nat
  team : TeamId
  seq : Nat
  ctx : Nat
  lpb : Nat
  cap : Nat
  deriving DecidableEq, Repr

/-- A dispatched command: its block's address and words, its status once completed, and whether its block is detached (R300-R304). -/
structure Cmd where
  key : Nat
  ctx : Nat
  desc : Nat
  block : Nat
  words : List Word
  status : Option (Nat × Nat)
  /-- Where the timeline of a WAITTL lies, as its dispatch translated it (R300). -/
  tl : Option Nat
  started : Bool
  detached : Bool
  /-- Its status is on its way to a block on a peer (R301). -/
  told : Bool := false
  deriving DecidableEq, Repr

/-- A fault notice (R323): `nseq` is given when it is sent. -/
structure Notice where
  key : Nat
  nseq : Option Nat
  ctx : Nat
  id : Nat
  region : Nat
  acc : Nat
  why : Nat
  va : Nat
  kernel : Nat
  group : Nat
  lcore : Nat
  resolved : Bool
  waiters : List Nat
  deriving DecidableEq, Repr

/-- A tensor layout record: its 32 words (R174). -/
abbrev Tlr := List Nat
/-- What an RSH or RESHARD asks for: the context, the address of the progress record, the handles, their layout records as accepted and the words of the record (R379, R383). -/
structure PlanReq where
  ctx : Nat
  rec_ : Nat
  src : Nat
  dst : Nat
  t1 : Tlr
  t2 : Tlr
  words : List Nat
  deriving DecidableEq, Repr
/-- An RSH or RESHARD that has passed checks 1 to 3 and waits: for the plan that holds its record, or, with every check passed, for room in the engine; then `checked` tells whether it resumes (R383). -/
structure PlanAsk where
  key : Nat
  team : TeamId
  seq : Nat
  core : Nat
  kid : Nat
  hdr : ReqHdr
  cmd : Option Nat
  req : PlanReq
  checked : Option Bool
  /-- It is counted while it waits for room (R292). -/
  entered : Bool
  /-- The object at BAR[self] whose expectation it will raise once it is accepted as new (R384). -/
  bar : Option Nat
  /-- The plan that held its record has ended: the record's words are to be read again (R383). -/
  reread : Bool
  deriving DecidableEq, Repr
/-- The states of a plan that the engine holds (R381): in `ending` its last words are on their way to a record on a peer (R385), and an `abandoned` one has left the engine with runs still in flight (R313). -/
inductive PlanState where
  | computing | running | draining | ending | abandoned
  deriving DecidableEq, Repr

/-- A step that this package sends (R375, R380): its runs are sent from `first` on; `sent` of them have left, those in `acked` are acknowledged. -/
structure PlanStep where
  index : Nat
  ms : Nat
  md : Nat
  pkg : Nat
  lo : List Nat
  hi : List Nat
  size : Nat
  runs : Nat
  first : Nat
  sent : Nat
  acked : List Nat
  /-- Runs that the target has denied (R360). -/
  denied : List Nat
  skip : Bool
  started : Bool
  inc : Nat
  /-- Its target has been lost: its runs in flight are counted off (R362, R381). -/
  gone : Bool
  deriving DecidableEq, Repr

/-- A plan (R379-R385). -/
structure Plan where
  key : Nat
  ctx : Nat
  rec_ : Nat
  src : Nat
  dst : Nat
  /-- The layout records as accepted, and the record's words as the engine has read and written them. -/
  t1 : Tlr
  t2 : Tlr
  words : List Nat
  state : PlanState
  team : TeamId
  seq : Nat
  num : Nat
  core : Nat
  kid : Nat
  cmd : Option Nat
  hdr : ReqHdr
  resumed : Bool
  phash : Nat
  steps : List PlanStep
  total : Nat
  expb : Nat
  /-- The object at BAR[self] whose expectation is still to be raised (R384). -/
  bar : Option Nat
  cause : Nat
  /-- What its command completes with (R385). -/
  code : Nat
  /-- A target has been lost, or a SETTLR on a handle has been dispatched: the plan is to stop (R381). -/
  lost : Bool
  changed : Bool
  deriving DecidableEq, Repr

/-- A host window (R373). -/
structure HWin where
  en : Bool
  w : Bool
  size : Nat
  ctx : Nat
  vbase : Nat
  deriving DecidableEq, Repr
def HWin.off : HWin := { en := false, w := false, size := 0, ctx := 0, vbase := 0 }

/-- A lane's last eye-margin measurement (R330). -/
structure Eye where
  v : Nat
  h : Nat
  inUse : Bool
  deriving DecidableEq, Repr
def Eye.none : Eye := { v := 0, h := 0, inUse := false }
/-- The health block of an HBM4E stack (R329, R330). -/
structure Stack where
  raat : Nat
  alerts : Nat
  cecnt : Nat
  eyesel : Nat
  eyes : SMap Eye
  vthr : Nat
  hthr : Nat
  low : Bool
  /-- The cycle in which the back-off of a bank ends (R329). -/
  backoff : SMap Nat
  /-- The activation counts of rows, by 2^20 × bank + row (R329). -/
  acts : SMap Nat
  deriving DecidableEq, Repr
def Stack.init : Stack :=
  { raat := 1024, alerts := 0, cecnt := 0, eyesel := 0, eyes := [], vthr := 20, hthr := 32, low := false, backoff := [], acts := [] }

/-- A mailbox command that has been submitted and not answered: its code, its SEQ and its operands (R390). -/
structure MbCmd where
  code : Nat
  seq : Nat
  args : List Word
  deriving DecidableEq, Repr
/-- The mailbox registers (R390). -/
structure Mailbox where
  arg : SMap Word
  cmd : Word
  rsp : Word
  pending : Option MbCmd
  /-- Partition losses that it has reported (R332). -/
  reports : Nat
  deriving DecidableEq, Repr

/-- A fused key: the SHA-512 hash of the public key, and its revocation fuse (R388); zero and not revoked after reset (DESIGN CHOICE, log 94). -/
structure FusedKey where
  hash : BitVec 512
  revoked : Bool
  deriving DecidableEq, Repr

/-- The firmware slots, the fuses that go with them and the identity (R387, R388). -/
structure Firmware where
  a : SMap Byte
  b : SMap Byte
  activeB : Bool
  keys : Vector FusedKey 4
  minVersion : Nat
  version : Nat
  serial : Nat
  /-- Both slots failed at the last start-up: the ROM serves the mailbox itself. -/
  romOnly : Bool
  deriving DecidableEq, Repr

/-- What the endpoint answered to the last host read or AtomicOp (R374). -/
inductive HostReply where
  | none
  | value (x : List Byte)
  | unsupported
  deriving DecidableEq, Repr

/-- A report on its way to a context's error record (R310, R311). -/
structure Report where
  key : Nat
  /-- The slot of the context it is made to. -/
  ctx : Nat
  kind : Nat
  cause : Nat
  pc : Nat
  addr : Nat
  lanes : Nat
  kcode : Nat
  opnd : Nat
  team : Nat
  lcore : Nat
  pcore : Nat
  kernel : Nat
  group : Nat
  deriving DecidableEq, Repr

/-- What is done next: an event of the table or of the outside world, the issue turn of a team, or the passing of cycles. -/
inductive Turn where
  | event (i : Instr)
  | issue (t : TeamId)
  | tick (n : Nat)
  /-- A lane of an access, or a write of a posted access, is performed at its home ahead of its answer (R237). -/
  | perform (l lane : Nat)
  | performWrite (p i : Nat)
  /-- An operation that waits in the asynchronous-issue class is accepted (R48). -/
  | accept (k : Nat)
  /-- An uncorrectable error in a payload: its 32-byte sector is poisoned (R331). -/
  | poison (p : Place)
  deriving DecidableEq, Repr

/-- The state of one package. -/
structure State where
  /-- The team whose instruction the next step runs. -/
  cur : Team
  others : List Team
  groups : List Group
  kernels : List Kernel
  ctxs : List Ctx
  /-- Physical memory by byte address; an unlisted byte reads 0 (log 4). -/
  mem : SMap Byte
  /-- Poison marks of 32-byte sectors (R331). -/
  poison : SMap Bool
  /-- Guard marks of 16-byte units of physical memory (R209). -/
  guards : SMap Bool
  loads : List Load
  posts : List Post
  engs : List EngOp
  counts : List BarCount
  /-- The matrix instructions of every core, in issue order (R180). -/
  mats : List MatJob
  binds : List Binding
  /-- Releases performed ahead of what they release (R245). -/
  early : List EarlyRel
  /-- Acquires that later accesses of their teams have been performed ahead of (R245). -/
  ahead : List EarlyAcq
  /-- Barrier operations at peers, and waiters of peers on objects here (R365). -/
  sent : List BarSent
  remoteWaits : List RemoteWait
  /-- The landing buffers of the cores (R267). -/
  landing : List Landed
  reports : List Report
  /-- Combiner registrations, requests on their way, COMBs in flight, and the MSUs by number (24 a die). -/
  combRegs : List CombReg
  combPackets : List CombPacket
  combs : List Comb
  msus : SMap Msu
  cores : SMap Core
  quads : SMap Quad
  dies : SMap Die
  /-- The physical core of a logical core, where it is not the same number (R21). -/
  coreMap : SMap (Option Nat)
  outOfService : SMap Bool
  /-- $clk: package cycles since stage 5 (R278). -/
  clk : Nat
  /-- The fuses of the fabric topology: rank, pod size, spare partner (R351, log 9). -/
  rank : Nat
  podSize : Nat
  spare : Nat
  /-- This package's incarnation, and those of the others as last learned (R361, R362). -/
  incarnation : Nat
  peerInc : SMap (Option Nat)
  ports : SMap Port
  /-- The usable links between other packages, as their relays have passed them on, and the firmware's overrides of the route table (R353). -/
  peerLinks : List (Nat × Nat)
  override : SMap (Option Nat)
  /-- The path that the route table gives toward each rank: the rank itself for the direct link, else the relay; 16 marks it unreachable (R353, R357). -/
  route : SMap Nat
  /-- Since when a rank has had no path, and the operations whose packets had gone before (R362, R416). -/
  pathless : SMap (Option (Nat × List Nat))
  holds : List RouteHold
  /-- Path sequences toward each target, and landed prefixes from each source, by 16 × rank + path, with the ranges beyond the prefixes (R359). -/
  pathSeq : SMap Nat
  landed : SMap Nat
  landedMore : List LandedRange
  heldSignals : List HeldSignal
  /-- The aperture table (R360). -/
  apertures : SMap (Option Aperture)
  /-- Bytes of each die's scratchpad that serve the placer; the rest serves pages (R315, log 8). -/
  splits : SMap Nat
  /-- Frames and tables taken: the context's slot, the physical address and the bytes (R325); slot 64 is memory out of use. -/
  used : List (Nat × Nat × Nat)
  /-- The frames of CO pages, whose 64 KiB blocks have one home each: physical address and bytes (R334). -/
  coFrames : List (Nat × Nat)
  /-- Physical cores reserved as migration targets, with the logical core that moves (R269). -/
  reserved : List (Nat × Nat)
  /-- Migration requests that were refused, as reported to the management processor (R269). -/
  refusals : List (Nat × Nat)
  /-- Lanes that the management processor is asked to retrain or to replace by a spare: stack and lane (R330; DEDUCED, log 106). -/
  retrains : List (Nat × Nat)
  /-- The time slices of the priorities in cycles (R266). -/
  slices : SMap Nat
  appends : List Append
  launches : List Launch
  cmds : List Cmd
  notices : List Notice
  nextNotice : Nat
  plans : List Plan
  /-- Requests for a plan that wait (R383). -/
  asks : List PlanAsk
  /-- The start-up stage, and FAIL and FWERR (R386, R387). -/
  stage : Nat
  fail : Bool
  fwerr : Nat
  /-- The cycle in which stage 5 completed, from which $clk counts (R278). -/
  clkBase : Nat
  mailbox : Mailbox
  /-- The notice ring, as 64-bit words, with its counts (R390). -/
  ring : SMap Word
  nwseq : Nat
  nrseq : Nat
  staging : SMap Byte
  firmware : Firmware
  hwins : SMap HWin
  hbms : SMap Stack
  /-- The package clock in MHz that the power clamp allows, 940 while it is not in force, and the one that the firmware asks for; the limits in force (R389). -/
  clockCap : Nat
  clockWant : Nat
  limits : Limits
  /-- Errors recorded, by unit and second, and the units harvested (R392). -/
  errors : List (ErrUnit × Nat)
  harvest : List ErrUnit
  /-- Units whose self-test waits until no group is resident there (R392). -/
  suspects : List ErrUnit
  /-- MSI-X messages sent, by vector; Advanced Error Reporting entries; partition losses recorded (R332, R374, R391). -/
  msix : SMap Nat
  aer : Nat
  partitionLosses : Nat
  /-- The partition is lost: only the cast-on stage is left until the next reset (R332). -/
  partitionLost : Bool
  /-- MSUs fused out at the last cast-on; the neighbour is home to their addresses (R392). -/
  fused : List Nat
  hostReply : HostReply
  /-- The width and the rate in GT/s to which the host link has trained, which its configuration space reports (R372). -/
  hostWidth : Nat
  hostRate : Nat
  nextKey : Nat
  agenda : List Turn
  deriving DecidableEq, Repr

/-- The place of the focus when no team runs: an empty slot. -/
def Team.idle : Team :=
  { Team.create { gid := 0, idx := 96 } 0 0 0 0 false 0 0 0 with state := .retired }

/-- The package right after reset: nothing runs, nothing is mapped, no context lives (R332, R386). -/
def State.reset : State :=
  { cur := Team.idle, others := [], groups := [], kernels := [], ctxs := [], mem := [], poison := [],
    guards := [], loads := [], posts := [], engs := [], counts := [], mats := [], binds := [], early := [], ahead := [], sent := [], remoteWaits := [], landing := [], reports := [],
    combRegs := [], combPackets := [], combs := [], msus := [],
    cores := [], quads := [], dies := [], coreMap := [], outOfService := [], clk := 0, rank := 0, podSize := 8, spare := 1,
    incarnation := 0, peerInc := [], ports := [], peerLinks := [], override := [], route := [], pathless := [],
    holds := [], pathSeq := [], landed := [], landedMore := [], heldSignals := [], apertures := [],
    splits := [], used := [], coFrames := [], reserved := [], refusals := [], retrains := [], slices := [], appends := [], launches := [], cmds := [], notices := [], nextNotice := 0,
    plans := [], asks := [], stage := 0, fail := false, fwerr := 0, clkBase := 0,
    mailbox := { arg := [], cmd := 0, rsp := 0, pending := none, reports := 0 }, ring := [], nwseq := 0, nrseq := 0, staging := [],
    firmware := { a := [], b := [], activeB := false, keys := Vector.replicate 4 { hash := 0, revoked := false }, minVersion := 0, version := 0, serial := 0,
                  romOnly := false },
    hwins := [], hbms := [], clockCap := 940, clockWant := 940, limits := { trip := 95, clamp := 100, watts := 2400 }, errors := [], harvest := [], suspects := [], msix := [], aer := 0, partitionLosses := 0, partitionLost := false, fused := [],
    hostReply := .none, hostWidth := 16, hostRate := 64, nextKey := 1, agenda := [] }

end Sys2Proof.Machine
end

