-- ==== Sys2Proof/Machine/Operands.lean ====
section
/-! DEFINITION. Operand forms: guards, register reads, immediates and broadcasts, with their tints (R56-R58, R97). -/

namespace Sys2Proof.Machine

/-- Lane `L` of a vector register. -/
def Team.vreg (t : Team) (r L : Nat) : VCell := t.v.get VCell.zero (1024 * r + L)
/-- A scalar register. -/
def Team.sreg (t : Team) (r : Nat) : SCell := t.s.get SCell.zero r
/-- The value of a scalar register. -/
def Team.sval (t : Team) (r : Fin 64) : Word := (t.sreg r.val).val
/-- Lane `L` of a vector predicate; p0 is true and never tinted (R26). -/
def Team.preg (t : Team) (i L : Nat) : PCell :=
  if i = 0 then { val := true, tint := false } else t.p.get PCell.zero (1024 * i + L)
/-- A scalar predicate. -/
def Team.qreg (t : Team) (i : Nat) : PCell := t.q.get PCell.zero i

/-- The lanes of the team in ascending order. -/
def Team.laneList (t : Team) : List Nat := List.range t.lanes

/-- Any control-tint bit is set (R94). -/
def Team.ctlAny (t : Team) : Bool := t.ctl != 0
/-- A control-tint bit is set in a lane of the current mask (R94, R95). -/
def Team.ctlMask (t : Team) : Bool := (t.ctl &&& t.mask) != 0

/-- The value and tint of a team guard (R56). -/
def Team.tguard (t : Team) (g : TeamGuard) : PCell :=
  let c : PCell := match g.q with
    | none => { val := true, tint := false }
    | some q => t.qreg q.val
  { c with val := c.val != g.neg }

/-- The value and tint of a lane guard in lane `L` (R56). -/
def Team.lguard (t : Team) (g : LaneGuard) (L : Nat) : PCell :=
  let c := t.preg g.p.val L
  { c with val := c.val != g.neg }

/-- A lane is active: its mask bit is set and its guard true (R56). -/
def Team.active (t : Team) (g : LaneGuard) (L : Nat) : Bool :=
  t.mask.getLsbD L && (t.lguard g L).val

/-- The active lanes, ascending. -/
def Team.activeLanes (t : Team) (g : LaneGuard) : List Nat := t.laneList.filter (t.active g)

/-- A value with its tint, as an operand gives it. -/
abbrev Val := Nat × Bool

/-- A vector operand of the width of `regs` registers (R27). -/
def Team.vval (t : Team) (regs r L : Nat) : Val :=
  let a := t.vreg r L
  if regs = 2 then
    let b := t.vreg (r + 1) L
    (a.val.toNat + 2 ^ 32 * b.val.toNat, a.tint || b.tint)
  else (a.val.toNat, a.tint)

/-- A scalar operand read by an operation of width `w` (R97). -/
def Team.sread (t : Team) (w r : Nat) : Val :=
  let c := t.sreg r
  (c.val.toNat % 2 ^ w, c.tint)

/-- An immediate of `n` bits at width `w`: as is, or extended by the type (R58, R101). -/
def immAt (ty : IntTy) (n x : Nat) : Nat :=
  if ty.signed then wrapTo ty.bits (toSigned n x) else x % 2 ^ n

/-- A vector-engine source (R58). -/
def Team.vsrc (t : Team) (ty : IntTy) (b : VSrc) (L : Nat) : Val :=
  match b with
  | .reg v => t.vval ty.regs v.val L
  | .bcast s => t.sread ty.bits s.val
  | .imm x => (immAt ty 32 x.toNat, false)

/-- A source with an imm16 form (R101, R103). -/
def Team.vsrc16 (t : Team) (ty : IntTy) (b : VSrc16) (L : Nat) : Val :=
  match b with
  | .reg v => t.vval ty.regs v.val L
  | .bcast s => t.sread ty.bits s.val
  | .imm x => (immAt ty 16 x.toNat, false)

/-- A scalar source (R97, R100). -/
def Team.ssrc (t : Team) (ty : IntTy) (b : SSrc) : Val :=
  match b with
  | .reg s => t.sread ty.bits s.val
  | .imm x => (immAt ty 32 x.toNat, false)

def Team.ssrc16 (t : Team) (ty : IntTy) (b : SSrc16) : Val :=
  match b with
  | .reg s => t.sread ty.bits s.val
  | .imm x => (immAt ty 16 x.toNat, false)

/-- A predicate of either kind as a source; a vector predicate in lane `L`. -/
def Team.predv (t : Team) (r : PredReg) (L : Nat) : PCell :=
  match r with
  | .p i => t.preg i.val L
  | .q i => t.qreg i.val

/-- A result of a type's width extended into 64 bits (R28, R97). -/
def extendTo64 (ty : IntTy) (x : Nat) : Word :=
  if ty.signed then BitVec.ofInt 64 (toSigned ty.bits x) else BitVec.ofNat 64 (x % 2 ^ ty.bits)

/-! ### Whether anything is tinted (R148) -/

def anyV (m : SMap VCell) (r : Nat) : Bool := (m.slice (1024 * r) (1024 * r + 1024)).any fun p => p.2.tint
def anyP (m : SMap PCell) (i : Nat) : Bool := (m.slice (1024 * i) (1024 * i + 1024)).any fun p => p.2.tint

end Sys2Proof.Machine
end

