-- ==== Sys2Proof/Machine/Ops.lean ====
section
/-! DEFINITION. The named operations: finding groups and contexts, memory and translation, register writes with tints, the program counter, reports, kills, taking an exception and returning from one. -/

namespace Sys2Proof.Machine

/-! ### Lookups -/

def State.group? (s : State) (gid : Nat) : Option Group := s.groups.find? fun g => g.gid == gid
def State.kernel? (s : State) (kid : Nat) : Option Kernel := s.kernels.find? fun k => k.kid == kid
def State.ctx? (s : State) (slot : Nat) : Option Ctx := s.ctxs.find? fun c => c.slot == slot
def State.modGroup (s : State) (gid : Nat) (f : Group → Group) : State :=
  { s with groups := s.groups.map fun g => if g.gid = gid then f g else g }
def State.modKernel (s : State) (kid : Nat) (f : Kernel → Kernel) : State :=
  { s with kernels := s.kernels.map fun k => if k.kid = kid then f k else k }
def State.modCtx (s : State) (slot : Nat) (f : Ctx → Ctx) : State :=
  { s with ctxs := s.ctxs.map fun c => if c.slot = slot then f c else c }
def State.modCur (s : State) (f : Team → Team) : State := { s with cur := f s.cur }
def State.mapTeams (s : State) (f : Team → Team) : State :=
  { s with cur := f s.cur, others := s.others.map f }
def State.modTeam (s : State) (id : TeamId) (f : Team → Team) : State :=
  s.mapTeams fun t => if t.id = id then f t else t
def State.teams (s : State) : List Team := s.cur :: s.others
def State.team? (s : State) (id : TeamId) : Option Team := s.teams.find? fun t => t.id == id
def State.teamsOf (s : State) (gid : Nat) : List Team := s.teams.filter fun t => t.id.gid == gid
/-- A new number for an operation, a report or an entry. -/
def State.bump (s : State) : State := { s with nextKey := s.nextKey + 1 }

/-- The group of the team in focus. -/
def State.myGroup (s : State) : Option Group := s.group? s.cur.id.gid
/-- The physical core of a logical core (R21). -/
def State.pcore (s : State) (l : Nat) : Nat := (s.coreMap.get none l).getD l
def pcoreDie (p : Nat) : Nat := p / 288
def pcoreQuad (p : Nat) : Nat := p % 288 / 4
/-- The number of a physical core's quad over the package. -/
def quadKey (p : Nat) : Nat := p / 4
def State.coreAt (s : State) (p : Nat) : Core := s.cores.get Core.init p
def State.modCore (s : State) (p : Nat) (f : Core → Core) : State :=
  { s with cores := s.cores.set Core.init p (f (s.coreAt p)) }
def State.quadAt (s : State) (k : Nat) : Quad := s.quads.get Quad.init k
def State.modQuad (s : State) (k : Nat) (f : Quad → Quad) : State :=
  { s with quads := s.quads.set Quad.init k (f (s.quadAt k)) }
def State.dieAt (s : State) (d : Nat) : Die := s.dies.get Die.init d
def State.modDie (s : State) (d : Nat) (f : Die → Die) : State :=
  { s with dies := s.dies.set Die.init d (f (s.dieAt d)) }

/-- The physical core a group runs on. -/
def State.coreOf (s : State) (gid : Nat) : Nat :=
  match s.group? gid with
  | some g => s.pcore g.lcore
  | none => 0
/-- The context slot of a team: its group's, or the one its method runs in. -/
def State.ctxOf (s : State) (t : Team) : Nat :=
  match s.group? t.id.gid with
  | some g => g.ctx
  | none => match t.method with
    | some m => m.ctx
    | none => 64
def State.kidOf (s : State) (t : Team) : Nat :=
  match s.group? t.id.gid with
  | some g => g.kid
  | none => 0

/-! ### Bytes -/

/-- Byte `a` of physical memory. -/
def State.byte (s : State) (a : Nat) : Byte := s.mem.get 0 a
/-- One byte of physical memory written, the canonical form kept. -/
def State.setByte (s : State) (a : Nat) (b : Byte) : State := { s with mem := s.mem.set 0 a b }

/-- The bytes of a sparse memory from `a`. -/
def readMap (m : SMap Byte) (a : Nat) : Nat → List Byte
  | 0 => []
  | n + 1 => m.get 0 a :: readMap m (a + 1) n
/-- A sparse memory with bytes written from `a`. -/
def writeMap (m : SMap Byte) (a : Nat) : List Byte → SMap Byte
  | [] => m
  | b :: bs => writeMap (m.set 0 a b) (a + 1) bs

/-- The units of `w` bytes that `n` bytes from `a` touch. -/
def unitsOf (w a n : Nat) : List Nat :=
  if n = 0 then [] else (List.range ((a + n - 1) / w - a / w + 1)).map (· + a / w)

/-- A whole-sector write clears a poison mark, a partial write leaves it (R331). -/
def clearPoison (p : SMap Bool) (a n : Nat) : SMap Bool :=
  (unitsOf 32 a n).foldl (fun p u => if a ≤ 32 * u && 32 * u + 32 ≤ a + n then p.set false u false else p) p
def setPoison (p : SMap Bool) (a n : Nat) : SMap Bool :=
  (unitsOf 32 a n).foldl (fun p u => p.set false u true) p
def anyMark (w : Nat) (p : SMap Bool) (a n : Nat) : Bool := (unitsOf w a n).any fun u => p.get false u

def State.physRead (s : State) (a n : Nat) : List Byte := readMap s.mem a n
def State.physWrite (s : State) (a : Nat) (bs : List Byte) : State :=
  { s with mem := writeMap s.mem a bs, poison := clearPoison s.poison a bs.length }
def State.physWord (s : State) (a : Nat) : Word := BitVec.ofNat 64 (fromBytes (s.physRead a 8))
def State.setPhysWord (s : State) (a : Nat) (x : Word) : State := s.physWrite a (leBytes 8 x.toNat)
def State.poisoned (s : State) (a n : Nat) : Bool := anyMark 32 s.poison a n
def State.guarded (s : State) (a n : Nat) : Bool := anyMark 16 s.guards a n

/-- A group's scratchpad of a space. -/
def Group.scratch (g : Group) : Space → Scratch
  | .k => g.k
  | .q => g.q
  | .d => g.d
  | .g => Scratch.zero
def Group.setScratch (g : Group) (sp : Space) (x : Scratch) : Group :=
  match sp with
  | .k => { g with k := x }
  | .q => { g with q := x }
  | .d => { g with d := x }
  | .g => g

/-- The bytes at a place; a peer's bytes come with packets and nowhere reads as nothing. -/
def State.placeRead (s : State) (p : Place) (n : Nat) : List Byte :=
  match p with
  | .phys a => s.physRead a n
  | .scratch gid sp off => match s.group? gid with
    | some g => readMap (g.scratch sp).mem off n
    | none => List.replicate n 0
  | _ => List.replicate n 0
def State.placePoisoned (s : State) (p : Place) (n : Nat) : Bool :=
  match p with
  | .phys a => s.poisoned a n
  | .scratch gid sp off => match s.group? gid with
    | some g => anyMark 32 (g.scratch sp).poison off n
    | none => false
  | _ => false
def State.placeGuarded (s : State) (p : Place) (n : Nat) : Bool :=
  match p with
  | .phys a => s.guarded a n
  | .scratch gid sp off => match s.group? gid with
    | some g => anyMark 16 (g.scratch sp).guard off n
    | none => false
  | _ => false
/-- A write performed at its home; a freed allocation discards it (R275). -/
def State.placeWrite (s : State) (p : Place) (bs : List Byte) : State :=
  match p with
  | .phys a => s.physWrite a bs
  | .scratch gid sp off => s.modGroup gid fun g =>
      let x := g.scratch sp
      g.setScratch sp { x with mem := writeMap x.mem off bs, poison := clearPoison x.poison off bs.length }
  | _ => s
/-- Poisoned bytes land poisoned (R331). -/
def State.placePoison (s : State) (p : Place) (n : Nat) : State :=
  match p with
  | .phys a => { s with poison := setPoison s.poison a n }
  | .scratch gid sp off => s.modGroup gid fun g =>
      let x := g.scratch sp
      g.setScratch sp { x with poison := setPoison x.poison off n }
  | _ => s
def State.setGuard (s : State) (p : Place) (on : Bool) : State :=
  match p with
  | .phys a => { s with guards := s.guards.set false (a / 16) on }
  | .scratch gid sp off => s.modGroup gid fun g =>
      let x := g.scratch sp
      g.setScratch sp { x with guard := x.guard.set false (off / 16) on }
  | _ => s
/-- The place `n` bytes on. -/
def Place.plus (p : Place) (n : Nat) : Place :=
  match p with
  | .phys a => .phys (a + n)
  | .scratch gid sp off => .scratch gid sp (off + n)
  | .peer r a => .peer r (a + n)
  | .nowhere => .nowhere
def Place.isPeer : Place → Bool
  | .peer _ _ => true
  | _ => false

/-! ### Cause codes (R273) -/

def cGuessEscape := 0x01
def cGuessSync := 0x02
def cSoftware := 0x08
def cBreakpoint := 0x09
def cIllegal := 0x10
def cIllegalClause := 0x11
def cStackOver := 0x12
def cStackUnder := 0x13
def cMisaligned := 0x18
def cScratchRange := 0x19
def cPageFault := 0x1A
def cPermission := 0x1B
def cFetch := 0x1C
def cPoisoned := 0x1D
def cTensorRecord := 0x20
def cTensorContext := 0x21
def cTileFormat := 0x22
def cWeightImage := 0x23
def cGangMismatch := 0x24
def cGangTimeout := 0x25
def cGangCancelled := 0x26
def cBarState := 0x28
def cBarLive := 0x29
def cBarExcess := 0x2A
def cBarCount := 0x2B
def cBarOverwrite := 0x2C
def cBarResource := 0x2D
def cBarFailed := 0x2E
def cBarInvalidated := 0x2F
def cTlDesignator := 0x30
def cCopyArgument := 0x31
def cCombRefused := 0x4F
def cFabricTarget := 0x50
def cFabricArgument := 0x51
def cPeerLost := 0x52
def cFabricDenied := 0x53
def cPark := 0x38
def cMigrate := 0x39
def cRestore := 0x3A
def cDoubleTrap := 0x40

/-- A trap with a cause and an address. -/
def Trap.of (cause addr : Nat) : Trap :=
  { cause, addr, lanes := 0, opnd := 0, sub := 0, skip := false, acc := 0, why := 0 }
/-- $flanes for a set of failing lanes: the first row that holds one, and its lanes (R136, R274). -/
def flanesOf : List Nat → Nat
  | [] => 0
  | ls =>
    let row := (minOf ls).getD 0 / 32
    2 ^ 32 * bitsOf 32 (fun b => ls.contains (32 * row + b)) + row
def Trap.lanesOf (cause addr : Nat) (ls : List Nat) : Trap := { Trap.of cause addr with lanes := flanesOf ls }
/-- The illegal-instruction trap with its slot and the register in it (R60). -/
def Trap.illegal (slot reg : Nat) : Trap := { Trap.of cIllegal 0 with opnd := 256 * reg + slot }

/-! ### Translation (R315-R322) -/

/-- Why a walk ends without a translation: the entry not valid, malformed, or read poisoned (R320, R323). -/
inductive WalkFail where
  | invalid | malformed | poisoned
  deriving DecidableEq, Repr

/-- The fields of a page-table entry (R317). -/
def pteV (e : Word) : Bool := e.getLsbD 63
def pteLeaf (e : Word) : Bool := e.getLsbD 62
def pteSize (e : Word) : Nat := bitsAt e.toNat 60 2
def pteKind (e : Word) : Nat := bitsAt e.toNat 57 3
def pteCo (e : Word) : Bool := e.getLsbD 56
def ptePeer (e : Word) : Nat := bitsAt e.toNat 52 4
def pteR (e : Word) : Bool := e.getLsbD 51
def pteW (e : Word) : Bool := e.getLsbD 50
def pteX (e : Word) : Bool := e.getLsbD 49
def pteFrame (e : Word) : Nat := bitsAt e.toNat 16 24 * 65536
def pteNext (e : Word) : Nat := bitsAt e.toNat 12 28 * 4096
/-- The bytes a leaf maps. -/
def sizeBytes : Nat → Nat
  | 0 => 2 ^ 16
  | 1 => 2 ^ 21
  | _ => 2 ^ 26

def hbmSize : Nat := 0x6000000000
def scratchBase (d : Nat) : Nat := 0x8000000000 + 0x10000000 * d
def scratchSize : Nat := 144 * 1048576

/-- The bytes of a die's scratchpad that serve the placer (R315). -/
def State.split (s : State) (d : Nat) : Nat := s.splits.get 75497472 d
/-- A frame of `n` bytes lies in the range that its kind allows (R315, R318). -/
def State.frameOk (s : State) (kind frame n : Nat) : Bool :=
  match kind with
  | 0 | 2 => decide (frame + n ≤ hbmSize)
  | 1 => (List.range 4).any fun d =>
      decide (scratchBase d + s.split d ≤ frame) && decide (frame + n ≤ scratchBase d + scratchSize)
  | 3 => decide (frame + n ≤ hbmSize) || (List.range 4).any fun d =>
      decide (scratchBase d ≤ frame) && decide (frame + n ≤ scratchBase d + scratchSize)
  | _ => false

/-- A leaf is well formed at its level (R317). -/
def State.leafOk (s : State) (level : Nat) (e : Word) : Bool :=
  let n := sizeBytes (pteSize e)
  let kind := pteKind e
  decide (level ≠ 1) && (if level = 2 then pteSize e == 2 else decide (pteSize e ≤ 1))
    && decide (kind ≤ 3) && bitsAt e.toNat 40 9 == 0 && bitsAt e.toNat 0 16 == 0
    && multOf n (pteFrame e) && s.frameOk kind (pteFrame e) n
    && (if kind = 3 then decide (ptePeer e ≠ s.rank) else ptePeer e == 0)
    && !(pteCo e && decide (2 ≤ kind)) && !(pteX e && decide (kind ≠ 0)) && !(kind == 1 && pteSize e == 2)

/-- A non-leaf is well formed: only V, LEAF and NEXT (R317). -/
def tableOk (level : Nat) (e : Word) : Bool :=
  decide (level ≠ 3) && bitsAt e.toNat 40 22 == 0 && bitsAt e.toNat 0 12 == 0

/-- An entry read by the walker. -/
def State.readPte (s : State) (a : Nat) : Except WalkFail Word :=
  if s.poisoned a 8 then .error .poisoned
  else
    let e := s.physWord a
    if pteV e then .ok e else .error .invalid

/-- The walk of the three levels: the leaf and its level (R316, R320). -/
def State.walk (s : State) (root va : Nat) : Except WalkFail Word := do
  let e1 ← s.readPte (root + 8 * bitsAt va 42 15)
  if pteLeaf e1 || !tableOk 1 e1 then .error .malformed
  else
    let e2 ← s.readPte (pteNext e1 + 8 * bitsAt va 26 16)
    if pteLeaf e2 then (if s.leafOk 2 e2 then .ok e2 else .error .malformed)
    else if !tableOk 2 e2 then .error .malformed
    else
      let t3 := pteNext e2
      let i := bitsAt va 16 10
      let first := s.physWord (t3 + 8 * alignDown 32 i)
      let big := pteV first && pteLeaf first && pteSize first == 1
      let e3 ← s.readPte (t3 + 8 * (if big then alignDown 32 i else i))
      if pteLeaf e3 && s.leafOk 3 e3 && (big || pteSize e3 == 0) then .ok e3 else .error .malformed

/-- What an access needs (R319). -/
structure Need where
  r : Bool
  w : Bool
  x : Bool
  deriving DecidableEq, Repr
def needR : Need := { r := true, w := false, x := false }
def needW : Need := { r := false, w := true, x := false }
def needRW : Need := { r := true, w := true, x := false }
def needX : Need := { r := false, w := false, x := true }

/-- A translation that failed: the cause code, and whether it is a fault of the page kind that is posted (R315, R319, R320, R322). -/
structure XFail where
  cause : Nat
  why : Nat
  deriving DecidableEq, Repr

/-- The translation of one address: the entry and the physical or remote place. -/
structure Xlat where
  pte : Word
  place : Place
  deriving DecidableEq, Repr

/-- The entry of a TLB that maps an address of a context (R320). -/
def tlbFind (l : List TlbEntry) (id va : Nat) : Option Word :=
  (l.find? fun e => e.ctx == id && e.page == va / e.size).map TlbEntry.pte
/-- What the TLBs of a core hold of an address: the core's own, then its quad's, then its die's (R320). -/
def State.tlbHit (s : State) (p id va : Nat) : Option Word :=
  (tlbFind (s.coreAt p).tlb id va).orElse fun _ => (tlbFind (s.quadAt (quadKey p)).tlb id va).orElse fun _ =>
    tlbFind (s.dieAt (pcoreDie p)).tlb id va
/-- The leaf that maps an address: from the TLBs of the core that asks, else by the walker (R320). -/
def State.leaf (s : State) (at_ : Option Nat) (c : Ctx) (va : Nat) : Except WalkFail Word :=
  match at_.bind fun p => s.tlbHit p c.id va with
  | some e => .ok e
  | none => s.walk c.root va
/-- An entry enters a TLB of 2^bits sets and so many ways: the least recently used entry of a full set leaves (R320). -/
def putTlb (bits ways : Nat) (n : TlbEntry) (l : List TlbEntry) : List TlbEntry :=
  let rest := l.filter fun e => !(e.ctx == n.ctx && e.page == n.page && e.size == n.size)
  let set := rest.filter fun e => e.page % 2 ^ bits == n.page % 2 ^ bits
  let out := if set.length < ways then none else set.getLast?
  if ways = 0 then rest else n :: rest.filter fun e => some e != out
/-- A translation of a core is looked up: a page that a walk finds enters the TLBs of the core, its quad and its die, and one without a translation enters none (R320). -/
def State.fillTlb (s : State) (core slot va : Nat) : State :=
  match s.ctx? slot with
  | none => s
  | some c => match s.leaf (some core) c va with
    | .error _ => s
    | .ok e =>
      let size := sizeBytes (pteSize e)
      let n : TlbEntry := { ctx := c.id, page := va / size, size, pte := e }
      let s1 := s.modCore core fun k => { k with tlb := putTlb 0 128 n k.tlb }
      let s2 := s1.modQuad (quadKey core) fun q => { q with tlb := putTlb 8 8 n q.tlb }
      s2.modDie (pcoreDie core) fun d => { d with tlb := putTlb 11 (8 - d.lostWays) n d.tlb }

/-- Translation with its permission checks for an agent of a context, through the TLBs of a core where one asks (R315-R320). The WHY of a walk that meets poison is 3 here. -/
def State.translateAt (s : State) (at_ : Option Nat) (c : Ctx) (sysMode : Bool) (need : Need) (va : Nat) : Except XFail Xlat :=
  if 2 ^ 57 ≤ va then .error { cause := cPermission, why := 0 }
  else match s.leaf at_ c va with
    | .error .invalid => .error { cause := cPageFault, why := 1 }
    | .error .malformed => .error { cause := cPageFault, why := 2 }
    | .error .poisoned => .error { cause := cPoisoned, why := 3 }
    | .ok e =>
      if (need.r && !pteR e) || (need.w && !pteW e) || (need.x && !pteX e) || (pteKind e == 2 && !sysMode) then
        .error { cause := cPermission, why := 0 }
      else
        let a := pteFrame e + va % sizeBytes (pteSize e)
        if pteKind e ≠ 3 then .ok { pte := e, place := .phys a }
        else if s.podSize ≤ ptePeer e then .error { cause := cFabricTarget, why := 0 }
        else .ok { pte := e, place := .peer (ptePeer e) a }

/-- Translation for the units of the link dies, which have no TLB. -/
def State.translate (s : State) (c : Ctx) (sysMode : Bool) (need : Need) (va : Nat) : Except XFail Xlat :=
  s.translateAt none c sysMode need va

/-- Whether a team's accesses reach save pages (R318). -/
def Team.sysMode (t : Team) : Bool := t.mode == .system

/-- The size of a space of a group, from its kernel's needs (R133, R287). -/
def State.spaceSize (s : State) (g : Group) (sp : Space) : Nat :=
  match s.kernel? g.kid with
  | none => 0
  | some k => match sp with
    | .k => k.lpb.k
    | .q => k.lpb.q
    | .d => k.lpb.d
    | .g => 0

/-- Range or translation of `n` bytes at an address of a space, for the team in focus (R133, R136). -/
def State.locate (s : State) (sp : Space) (need : Need) (a n : Nat) : Except XFail Xlat :=
  match sp with
  | .g => match s.ctx? (s.ctxOf s.cur) with
    | none => .error { cause := cPageFault, why := 1 }
    | some c => s.translateAt (some (s.coreOf s.cur.id.gid)) c s.cur.sysMode need a
  | sp => match s.myGroup with
    | none => .error { cause := cScratchRange, why := 0 }
    | some g =>
      if a + n ≤ s.spaceSize g sp then .ok { pte := 0, place := .scratch g.gid sp a }
      else .error { cause := cScratchRange, why := 0 }

/-- A range as runs of one page or allocation each: the places with their bytes, or the first failing address (R136, R415). -/
def State.locateRange (s : State) (sp : Space) (need : Need) (a : Nat) : Nat → Nat → Except (XFail × Nat) (List (Place × Nat))
  | 0, _ => .ok []
  | fuel + 1, n =>
    if n = 0 then .ok []
    else
      let step := if sp = .g then min n (65536 - a % 65536) else n
      match s.locate sp need a step with
      | .error f => .error (f, a)
      | .ok x => match s.locateRange sp need (a + step) fuel (n - step) with
        | .error f => .error f
        | .ok l => .ok ((x.place, step) :: l)
def pagesIn (n : Nat) : Nat := n / 65536 + 2

/-- Byte `i` of a run list. -/
def runPlace : List (Place × Nat) → Nat → Place
  | [], _ => .nowhere
  | (p, n) :: l, i => if i < n then p.plus i else runPlace l (i - n)

/-! ### The focus -/

/-- The team that the next step runs changes places with another. -/
def State.focus (s : State) (id : TeamId) : State :=
  if s.cur.id = id then s
  else match s.others.find? fun t => t.id == id with
    | none => s
    | some t => { s with cur := t, others := s.others.map fun u => if u.id = id then s.cur else u }
/-- The focus falls on the empty slot, of which there is one. -/
def State.unfocus (s : State) : State := { s with cur := Team.idle, others := s.others.filter fun t => t.id != Team.idle.id }
/-- An operation on a team as if it were in focus. -/
def State.onTeam (s : State) (id : TeamId) (f : State → State) : State :=
  match s.team? id with
  | none => s
  | some _ => (f (s.focus id)).focus s.cur.id

/-! ### The save area (R270, R271) -/

def alignUp (n x : Nat) : Nat := ceilDiv x n * n
/-- The register region of a group's save area: its address and size; its tint map follows. -/
structure SaveArea where
  base : Nat
  region : Nat
  words : Nat
  d : Nat
  deriving DecidableEq, Repr
def SaveArea.map (a : SaveArea) : Nat := a.region + 4 * a.words
def SaveArea.dmap (a : SaveArea) : Nat := alignUp 256 (a.map + alignUp 256 (a.words / 8))
/-- The handler's own part begins here. -/
def SaveArea.rest (a : SaveArea) : Nat :=
  if a.d = 0 then a.dmap else alignUp 256 (a.dmap + alignUp 256 (a.d / 128) + 196608)
/-- The whole size of a save area, for tiles and weight bytes as the kernel declares them. -/
def SaveArea.size (a : SaveArea) (k q tiles wbuf : Nat) : Nat := a.rest - a.base + k + q + a.d + 32768 * tiles + wbuf
def saveAreaAt (base teams lanes regs d : Nat) : SaveArea :=
  { base, region := base + 0x8000 + 0x4000 * teams, words := teams * lanes * regs, d }
def State.saveArea (s : State) (g : Group) : Option SaveArea :=
  match g.saveAddr, s.teamsOf g.gid with
  | some a, t :: _ => some (saveAreaAt a t.teams t.lanes t.regs (s.spaceSize g .d))
  | _, _ => none
/-- The bytes touch a part of the save area whose layout is the device's own. -/
def SaveArea.owned (a : SaveArea) (x n : Nat) : Bool :=
  (decide (x < a.region) && decide (a.base < x + n))
    || (a.d != 0 && decide (x < a.dmap + alignUp 256 (a.d / 128) + 196608) && decide (a.dmap < x + n))
/-- A program's write into a context's save areas: one into the device's own parts leaves the group's restore undefined (R270). -/
def State.noteSave (s : State) (ctx x n : Nat) : State :=
  if (s.groups.any fun g => g.ctx == ctx && match s.saveArea g with
    | some a => a.owned x n
    | none => false) then
    { s with groups := (s.groups.map fun g => if g.ctx = ctx ∧ (match s.saveArea g with
        | some a => a.owned x n
        | none => false) = true then { g with imageLost := true } else g) }
  else s
/-- The bit of the tint map for a 32-bit word of the register region: the byte's address and the bit (R271). -/
def State.tintBit (s : State) (sp : Space) (w : Width) (va : Nat) : Option (Nat × Nat) :=
  if sp = .g ∧ w = .w32 ∧ s.cur.mode = .system then
    match (s.myGroup).bind s.saveArea with
    | none => none
    | some a =>
      if a.region ≤ va ∧ va + 4 ≤ a.map ∧ va % 4 = 0 then
        let i := (va - a.region) / 4
        some (a.map + i / 8, i % 8)
      else none
  else none

/-! ### Tints and register writes (R57, R94, R97) -/

/-- A state with the flags of R40 added. -/
def State.addFlags (s : State) (f : NFlags) : State :=
  { s with cur := { s.cur with sys := { s.cur.sys with nstat := s.cur.sys.nstat ||| f } } }

/-- A scalar register written outright. -/
def State.setS (s : State) (i : Nat) (c : SCell) : State :=
  { s with cur := { s.cur with s := s.cur.s.set SCell.zero i c } }
/-- A scalar predicate written outright. -/
def State.setQ (s : State) (i : Nat) (c : PCell) : State :=
  { s with cur := { s.cur with q := s.cur.q.set PCell.zero i c } }

/-- A scalar result under a team guard: written, tinted by its sources, its guard and control tint; under a false tinted guard the old value becomes tinted (R57, R94). -/
def State.writeS (s : State) (g : TeamGuard) (d : Nat) (x : Word) (tint : Bool) : State :=
  let gc := s.cur.tguard g
  if gc.val then s.setS d { val := x, tint := tint || gc.tint || s.cur.ctlAny }
  else if gc.tint then s.setS d { s.cur.sreg d with tint := true } else s
/-- The same for a scalar predicate. -/
def State.writeQ (s : State) (g : TeamGuard) (d : Nat) (x tint : Bool) : State :=
  let gc := s.cur.tguard g
  if gc.val then s.setQ d { val := x, tint := tint || gc.tint || s.cur.ctlAny }
  else if gc.tint then s.setQ d { s.cur.qreg d with tint := true } else s

/-- The records of register `i` of its group are released in this lane; with none left the lane is Abandoned (R141, R142). -/
def LoadLane.release (l : LoadLane) (regs i : Nat) : LoadLane :=
  if l.st = .expired then
    let gone := l.gone ||| 2 ^ i
    { l with gone, st := if gone = 2 ^ regs - 1 then .abandoned else .expired }
  else l
/-- Register `i` of the lane still has a record: Expired, Late held or Demanded (R142). -/
def LoadLane.record (l : LoadLane) (i : Nat) : Bool :=
  l.st == .expired && !l.gone.testBit i && !(l.late && l.dem.testBit i)
/-- Nothing is still to come for this lane. -/
def LoadLane.over (l : LoadLane) (regs : Nat) : Bool :=
  match l.st with
  | .exact | .guessOnly => true
  | .abandoned => l.late
  | .expired => l.late && (List.range regs).all fun i => !l.record i
  | .waiting => false
/-- The load wrote register `r` of a team and may still have a record there. -/
def Load.hit (ld : Load) (t : TeamId) (r : Nat) : Bool :=
  ld.written && ld.team == t && decide (ld.d ≤ r) && decide (r < ld.d + ld.regs)
/-- The records of a lane are released while its load is still to be written: its guess stays (R142, R267). -/
def LoadLane.free (l : LoadLane) (regs : Nat) : LoadLane := if l.st = .expired then { l with gone := 2 ^ regs - 1, dem := 0 } else l
/-- Entries without anything to come are dropped. -/
def State.pruneLoads (s : State) : State :=
  { s with loads := s.loads.filter fun ld => !(ld.written && ld.lanes.all fun l => l.over ld.regs) }
/-- A write of register `r` in lanes of a team abandons the records there (R141); its callers name the lanes whose values are overwritten, not those that a false tinted guard tints (DESIGN CHOICE, log 87). -/
def State.abandonOf (s : State) (id : TeamId) (r : Nat) (ls : List Nat) : State :=
  if (s.loads.any fun ld => ld.hit id r) then
    let f := fun ld : Load =>
      if ld.hit id r then
        { ld with lanes := ld.lanes.map fun l => if ls.contains l.lane then l.release ld.regs (r - ld.d) else l }
      else ld
    State.pruneLoads { s with loads := s.loads.map f }
  else s
def State.abandon (s : State) (r : Nat) (ls : List Nat) : State := s.abandonOf s.cur.id r ls

/-- A lane's new cell under a lane guard: the result tinted by its sources, its guard and control tint, or the old value tinted (R57, R94). -/
def Team.laneCell (t : Team) (g : LaneGuard) (L : Nat) (old new : VCell) : VCell :=
  if t.mask.getLsbD L then
    let gc := t.lguard g L
    if gc.val then { new with tint := new.tint || gc.tint || t.ctl.getLsbD L }
    else if gc.tint then { old with tint := true } else old
  else old
def Team.laneP (t : Team) (g : LaneGuard) (L : Nat) (old new : PCell) : PCell :=
  if t.mask.getLsbD L then
    let gc := t.lguard g L
    if gc.val then { new with tint := new.tint || gc.tint || t.ctl.getLsbD L }
    else if gc.tint then { old with tint := true } else old
  else old

/-- One register of every lane written from `f` (R97, R91). -/
def Team.writeLanes (t : Team) (g : LaneGuard) (r : Nat) (f : Nat → VCell) : Team :=
  { t with v := t.laneList.foldl (fun m L => m.set VCell.zero (1024 * r + L) (t.laneCell g L (t.vreg r L) (f L))) t.v }
def State.writeV (s : State) (g : LaneGuard) (r : Nat) (f : Nat → VCell) : State :=
  (s.abandon r (s.cur.activeLanes g)).modCur fun t => t.writeLanes g r f

/-- A vector result of a type: one register, or a pair whose halves take the result's tint (R27). -/
def State.writeVal (s : State) (g : LaneGuard) (regs d : Nat) (f : Nat → Val) : State :=
  let t := s.cur
  let lo : Nat → VCell := fun L => { val := BitVec.ofNat 32 (f L).1, tint := (f L).2 }
  let hi : Nat → VCell := fun L => { val := BitVec.ofNat 32 ((f L).1 / 2 ^ 32), tint := (f L).2 }
  if regs = 2 then
    ((s.abandon d (t.activeLanes g)).abandon (d + 1) (t.activeLanes g)).modCur fun u =>
      (u.writeLanes g d lo).writeLanes g (d + 1) hi
  else s.writeV g d lo

/-- A vector predicate written from `f`; p0 is no destination (R55). -/
def State.writeP (s : State) (g : LaneGuard) (i : Nat) (f : Nat → PCell) : State :=
  let t := s.cur
  let p := t.laneList.foldl (fun m L => SMap.set PCell.zero m (1024 * i + L) (t.laneP g L (t.preg i L) (f L))) t.p
  { s with cur := { t with p } }

/-! ### $tintmask (R148) -/

/-- The tints of scalars and of predicates vanish. -/
def untintS (m : SMap SCell) : SMap SCell :=
  (m.map fun p => (p.1, { p.2 with tint := false })).filter fun p => p.2 ≠ SCell.zero
def untintP (m : SMap PCell) : SMap PCell :=
  (m.map fun p => (p.1, { p.2 with tint := false })).filter fun p => p.2 ≠ PCell.zero
def State.tileTinted (s : State) (j : Nat) : Bool :=
  match s.myGroup with
  | some g => g.tileTint.get false j
  | none => false
/-- Any bit of a team's $tintmask is set. -/
def State.tintAnyOf (s : State) (t : Team) : Bool :=
  t.ctlAny || t.v.any (fun p => p.2.tint) || t.s.any (fun p => p.2.tint) || t.p.any (fun p => p.2.tint)
    || t.q.any (fun p => p.2.tint) || match s.group? t.id.gid with
      | some g => (List.range 8).any fun j => g.tileTint.get false j
      | none => false
def State.tintAny (s : State) : Bool := s.tintAnyOf s.cur

/-! ### The program counter (R45, R50) -/

/-- The address of the instruction in progress. -/
def Team.instrAddr (t : Team) : Word :=
  match t.clause with
  | some c => c.hdr + BitVec.ofNat 64 (8 * (c.idx + 1))
  | none => t.pc
def Team.instrIdx (t : Team) : Nat :=
  match t.clause with
  | some c => c.idx
  | none => 0
/-- The address at which a team takes a fault that waited: its instruction inside a clause or at a resume index, the BWAIT it is Blocked at, else the header of its next clause (R418). -/
def Team.standAddr (t : Team) : Word :=
  let at_ := fun (pc : Word) (start : Nat) => if start = 0 then pc else pc + BitVec.ofNat 64 (8 * (start + 1))
  match t.clause, t.wait with
  | some _, _ => t.instrAddr
  | none, some w => at_ w.hdr w.idx
  | none, none => at_ t.pc t.start
/-- The header address of the instruction's own clause (H of R58, R93). -/
def Team.hdrAddr (t : Team) : Word :=
  match t.clause with
  | some c => c.hdr
  | none => t.pc
/-- The header address of the clause that follows. -/
def Team.nextClause (t : Team) : Word :=
  match t.clause with
  | some c => c.hdr + BitVec.ofNat 64 (8 * (c.words.length + 1))
  | none => t.pc
/-- The target of a CTL word (R58). -/
def Team.target (t : Team) (off : Lane) : Word := t.hdrAddr + 8 * sext32 off

/-- A clause ends: the next one starts at `pc`, and the yield hint takes effect (R46, R52). -/
def Team.goto (t : Team) (pc : Word) : Team :=
  { t with pc, start := 0, clause := none,
           yielding := match t.clause with
             | some c => if c.header.getLsbD 42 then some [] else t.yielding
             | none => t.yielding }
/-- The next instruction of the clause, or the next clause. -/
def Team.advance (t : Team) : Team :=
  match t.clause with
  | some c =>
    if c.idx + 1 < c.words.length then { t with clause := some { c with idx := c.idx + 1 }, seq := t.seq + 1 }
    else { t.goto t.nextClause with seq := t.seq + 1 }
  | none => t
def State.advance (s : State) : State := s.modCur Team.advance
def State.goto (s : State) (pc : Word) : State := s.modCur fun t => { t.goto pc with seq := t.seq + 1 }

/-! ### Reports and kills (R275, R310) -/

/-- What a request of a team carries to the homes of its accesses (R310). -/
def State.hdrOf (s : State) (id : TeamId) : ReqHdr :=
  match s.group? id.gid with
  | some g =>
    { team := id.idx, lcore := g.lcore, pcore := s.pcore g.lcore, kernel := ((s.kernel? g.kid).map Kernel.id).getD 0, group := g.index }
  | none => ReqHdr.nobody

/-- A report naming a team (R310). -/
def State.reportOf (s : State) (t : Team) (kind cause : Nat) : Report :=
  match s.group? t.id.gid with
  | some g =>
    { key := s.nextKey, ctx := g.ctx, kind, cause, pc := t.fr.fpc.toNat, addr := t.fr.addr.toNat,
      lanes := t.fr.lanes.toNat, kcode := 0, opnd := t.fr.opnd.toNat, team := t.id.idx, lcore := g.lcore,
      pcore := s.pcore g.lcore, kernel := ((s.kernel? g.kid).map Kernel.id).getD 0, group := g.index }
  | none =>
    { key := s.nextKey, ctx := s.ctxOf t, kind, cause, pc := 0, addr := 0, lanes := 0, kcode := 0, opnd := 0,
      team := 0, lcore := 0, pcore := 0, kernel := 0, group := 0 }
def State.post (s : State) (r : Report) : State :=
  { s.bump with reports := s.reports ++ [{ r with key := s.nextKey }] }
/-- A report of a home about an address, naming no team (R311). -/
def Report.bare (ctx kind cause addr : Nat) : Report :=
  { key := 0, ctx, kind, cause, pc := 0, addr, lanes := 0, kcode := 0, opnd := 0, team := 0, lcore := 0,
    pcore := 0, kernel := 0, group := 0 }

/-- A report of a home about an address, naming the issuing team from the request header (R310, R311). -/
def Report.from_ (h : ReqHdr) (ctx kind cause addr : Nat) : Report :=
  { Report.bare ctx kind cause addr with
    team := h.team, lcore := h.lcore, pcore := h.pcore, kernel := h.kernel, group := h.group }
/-- A report about a team that is on the machine (R310). -/
def State.reportFor (s : State) (who : TeamId) (ctx kind cause addr : Nat) : Report :=
  Report.from_ (s.hdrOf who) ctx kind cause addr

/-- A lane whose load's team goes away is abandoned (R141). -/
def LoadLane.drop (l : LoadLane) : LoadLane :=
  match l.st with
  | .exact | .guessOnly => l
  | _ => { l with st := .abandoned }
/-- The loads of a team that goes away are written off: what they wait for comes late and trains alone (R141). -/
def Load.drop (ld : Load) : Load :=
  { ld with lanes := ld.lanes.map LoadLane.drop, written := true }
/-- What a killed team leaves: a retired slot without results (R89). -/
def Team.kill (t : Team) : Team :=
  { t with state := .retired, clause := none, sf := [], wait := none, deferred := [], inSet := false,
           parkDue := none, faultPark := none }
/-- The states in which a group can be killed (R260). -/
def GState.live : GState → Bool
  | .resident | .saving | .parked | .restoring | .halted _ => true
  | _ => false

def ObjLoc.place : ObjLoc → Place
  | .scratch gid sp off => .scratch gid sp off
  | .phys a => .phys a
  | .peer r a => .peer r a
/-- Whether the home of an object still records a waiter: a Blocked team, a parked group or a team of a peer (R206, R211). -/
def State.hasWaiter (s : State) (o : ObjLoc) : Bool :=
  (s.teams.any fun t => t.state == .blocked && match t.wait with
    | some w => w.obj == o && w.answer.isNone
    | none => false)
  || (s.groups.any fun g => g.wakes.any fun w => match w with
    | .object p _ => p == o
    | _ => false)
  || s.remoteWaits.any fun w => .phys w.obj == o
/-- The W bit of an object is clear once its last waiter has gone (R206): bit 1 of byte 11. -/
def State.noWaiter (s : State) (o : ObjLoc) : State :=
  let p := o.place.plus 11
  if s.placeGuarded o.place 16 && !s.hasWaiter o then
    s.placeWrite p [BitVec.ofNat 8 (fromBytes (s.placeRead p 1) &&& 0xFD)]
  else s
/-- The objects that the teams of a group, or the group itself, wait on. -/
def State.waitedOn (s : State) (gid : Nat) : List ObjLoc :=
  ((s.teamsOf gid).filterMap fun t => if t.state = .blocked then t.wait.map WaitFor.obj else none) ++ match s.group? gid with
    | some g => g.wakes.filterMap fun w => match w with
      | .object o _ => some o
      | _ => none
    | none => []
/-- The objects that a group has left are without it. -/
def State.leaveObjs (s : State) (os : List ObjLoc) : State := os.foldl State.noWaiter s

/-- A kill: the group enters Killed, its teams are discarded with their results, the latch empties (R89, R141, R194, R260). -/
def State.killGroup (s : State) (gid cause : Nat) : State :=
  let f : Group → Group := fun g =>
    if g.state.live then
      { g with state := .killed, killCause := some cause, latch := none, held := [],
               saveAddr := if g.state = .parked then none else g.saveAddr, wakes := [] }
    else g
  let alive := match s.group? gid with
    | some g => g.state.live
    | none => false
  if alive then
    State.leaveObjs { (s.modGroup gid f).mapTeams (fun t => if t.id.gid = gid then t.kill else t) with
      mats := (s.mats.filter fun j => j.team.gid != gid),
      loads := s.loads.map fun ld => if ld.team.gid = gid then ld.drop else ld } (s.waitedOn gid)
  else s
/-- A kill by the team in focus, with its kill record (R275). -/
def State.killBy (s : State) (cause kcode : Nat) : State :=
  (s.post { s.reportOf s.cur 0x01 cause with kcode }).killGroup s.cur.id.gid cause
/-- A failure of an access that the device makes to a save area kills a group that is still live; the record names team 0 (R275). -/
def State.killSave (s : State) (gid : Nat) (f : XFail) (va : Nat) : State :=
  match s.group? gid with
  | none => s
  | some g => if g.state.live then (s.post (s.reportFor { gid, idx := 0 } g.ctx 0x01 f.cause va)).killGroup gid f.cause else s
/-- A kill for an instruction of a team at an address, found by an engine (R192, R275). -/
def State.killAt (s : State) (id : TeamId) (cause : Nat) (pc : Word) : State :=
  (s.post { s.reportFor id (((s.group? id.gid).map Group.ctx).getD 64) 0x01 cause 0 with pc := pc.toNat }).killGroup id.gid cause

/-! ### Taking an exception (R273, R274, R282) -/

def Mode.hm : Mode → Nat
  | .program => 0 | .user => 1 | .system => 2 | .method => 0
/-- The guess, software and breakpoint classes (R273). -/
def userClass (cause : Nat) : Bool :=
  cause == cGuessEscape || cause == cGuessSync || cause == cSoftware || cause == cBreakpoint
/-- The value of $fcause (R274). -/
def fcauseWord (t : Trap) (hm idx : Nat) : Word :=
  BitVec.ofNat 64 (2 ^ 16 * t.sub + 2 ^ 14 * hm + 2 ^ 13 * b2n t.skip + 2 ^ 8 * idx + t.cause)
/-- Bits 56:3 of a word, the others zero: $fpc, $tvec and $gorigin (R147, R274, R278). -/
def pcBits (x : Word) : Word := x &&& 0x01FFFFFFFFFFFFF8
/-- The fault registers as a trap writes them; $gorigin stays (R273). -/
def FaultRegs.write (fr : FaultRegs) (t : Trap) (hm idx : Nat) (pc : Word) : FaultRegs :=
  { fr with cause := fcauseWord t hm idx, fpc := pcBits pc, addr := BitVec.ofNat 64 t.addr,
            lanes := BitVec.ofNat 64 t.lanes, opnd := BitVec.ofNat 64 t.opnd }
/-- A team with a trap's registers written, for a trap that goes to a handler. -/
def Team.faultRegs (t : Team) (tr : Trap) (pc : Word) (idx : Nat) : Team :=
  { t with fr := t.fr.write tr t.mode.hm idx pc,
           shadow := if t.mode = .user then t.fr else t.shadow }
/-- A team sent to a handler. -/
def Team.enter (t : Team) (m : Mode) (pc : Word) : Team :=
  { t with mode := m, pc, start := 0, clause := none }

/-- A page or fetch fault without a translation, whose group parks (R260, R322). -/
def parksOn (cause : Nat) : Bool := cause == cPageFault || cause == cFetch

/-- The lanes that a $flanes value names. -/
def lanesIn (w : Nat) : List Nat := (bitList 32 (w / 2 ^ 32)).map fun b => 32 * (w % 32) + b
/-- A method ends with a failure (R344). -/
def State.methodFail (s : State) (cause : Nat) (pc : Word) (lane : Nat) : State :=
  let f := fun m : MethodCtx => { m with failed := m.failed.orElse fun _ => some { cause, pc, lane } }
  s.modCur fun t => { t with clause := none, state := .exiting, method := t.method.map f }

/-- The trap of the team in focus at an address and a clause index (R273).
A guess, software or breakpoint trap goes to $tvec, any other to the context's system handler; one that finds $tvec 0 or the user handler running goes to the system handler too, and one raised in the system handler kills the group.
A page or fetch fault writes its registers and waits for the park (R260), and poison that the walker met is reported (R331). -/
def State.trapAt (s : State) (tr : Trap) (pc : Word) (idx : Nat) : State :=
  let t := s.cur
  let s : State := if tr.cause = cPoisoned ∧ tr.why = 3 then
      s.post { s.reportFor t.id (s.ctxOf t) 0x03 cPoisoned tr.addr with pc := pc.toNat, lanes := tr.lanes, opnd := tr.opnd }
    else s
  match t.mode with
  | .method => s.methodFail (if tr.cause = cPoisoned then 0x4E else 0x4A) pc ((minOf (lanesIn tr.lanes)).getD 0)
  | .system =>
    (s.modCur fun t => { t with fr := t.fr.write tr t.mode.hm idx pc }).killBy cDoubleTrap 0
  | m =>
    if userClass tr.cause && t.sys.tvec != 0 && m == .program then
      s.modCur fun t => ({ t with fr := t.fr.write tr t.mode.hm idx pc } : Team).enter .user t.sys.tvec
    else if parksOn tr.cause then
      let maps := match s.ctx? (s.ctxOf t) with
        | some c => c.maps
        | none => 0
      s.modCur fun t => { (t.faultRegs tr pc idx) with
        clause := none, pc := pc, start := 0,
        faultPark := some { acc := tr.acc, why := tr.why, va := tr.addr, maps, posted := false } }
    else
      let handler := match s.ctx? (s.ctxOf t) with
        | some c => c.handler
        | none => 0
      s.modCur fun t => (t.faultRegs tr pc idx).enter .system (BitVec.ofNat 64 handler)
/-- A trap at the instruction in progress. -/
def State.trap (s : State) (tr : Trap) : State := s.trapAt tr s.cur.instrAddr s.cur.instrIdx
/-- A trap at a clause boundary: $fpc the header, IDX 31 (R273). -/
def State.trapBoundary (s : State) (tr : Trap) : State := s.trapAt tr s.cur.pc 31

/-! ### The return from an exception (R281, R282) -/

def fcSkip (c : Word) : Bool := c.getLsbD 13
def fcIdx (c : Word) : Nat := bitsAt c.toNat 8 5
def fcHm (c : Word) : Nat := bitsAt c.toNat 14 2
def fcCause (c : Word) : Nat := bitsAt c.toNat 0 8

/-- Where RTE resumes: the header and the index at which its clause starts; an index at or above the count stands for the next clause, whose header is at $fpc + 8 (R53, R281). -/
def resumePoint (fr : FaultRegs) : Word × Nat :=
  let idx := fcIdx fr.cause
  let hdr := if idx = 31 then fr.fpc else fr.fpc - BitVec.ofNat 64 (8 * (idx + 1))
  if fcSkip fr.cause = false then (hdr, if idx = 31 then 0 else idx)
  else if idx = 31 then (fr.fpc + 8, 0) else (hdr, idx + 1)
/-- The team's registers as an RTE leaves them: the mode of HM, and the shadow set when that is the user handler (R281, R282). -/
def Team.leave (t : Team) : Team :=
  let r := resumePoint t.fr
  let back := t.mode == .system && fcHm t.fr.cause == 1
  { t with mode := if back then .user else .program, pc := r.1, start := r.2, clause := none,
           fr := if back then t.shadow else t.fr }

/-! ### Outcomes of a meaning -/

/-- What a meaning answers: the effect made and the instruction passed, a change of the program counter, a trap, or the instruction held where it stands. -/
inductive Eff where
  | next (s : State)
  | goto (s : State) (pc : Word)
  | trap (s : State) (t : Trap)
  | hold (s : State)
  deriving DecidableEq, Repr

/-- The outcome of a step from what its meaning answers. -/
def finish : Eff → Host.Outcome State Fault Refusal
  | .next s => .next s.advance
  | .goto s pc => .next (s.goto pc)
  | .trap s t => .next (s.trap t)
  | .hold s => .next s

/-- The register field of a team guard as $fopnd names it (log 17). -/
def guardField (g : TeamGuard) : Nat :=
  match g.q with
  | none => 0
  | some q => 4 + q.val

/-- An instruction under a team guard whose effect is beyond registers: guarded off it passes, a tinted guard, control tint or tinted scalar operand raises guess-escape before any effect (R57, R94, R154). -/
def State.teamEscape (s : State) (g : TeamGuard) (srcs : List (Nat × Nat)) : Option Trap :=
  let t := s.cur
  if (t.tguard g).tint || t.ctlMask then
    some { Trap.of cGuessEscape 0 with
      opnd := 256 * guardField g, lanes := flanesOf (t.laneList.filter fun L => (t.ctl &&& t.mask).getLsbD L) }
  else match srcs.find? fun p => (t.sreg p.2).tint with
    | some p => some { Trap.of cGuessEscape 0 with opnd := 256 * p.2 + p.1 }
    | none => none

/-- The frame of a team-guarded instruction with effects beyond registers. -/
def State.teamOp (s : State) (g : TeamGuard) (srcs : List (Nat × Nat)) (k : State → Eff) : Eff :=
  let gc := s.cur.tguard g
  if !gc.val && !gc.tint then .next s
  else match s.teamEscape g srcs with
    | some tr => .trap s tr
    | none => k s

/-- A lane-guarded instruction with effects beyond registers: the first tinted operand in slot order, the guard first, and the first row with a tinted lane (R57, R94, R154). -/
def State.laneEscape (s : State) (g : LaneGuard) (ops : List (Nat × Nat × (Nat → Bool))) : Option Trap :=
  let t := s.cur
  let gl := fun L => t.mask.getLsbD L && ((t.lguard g L).tint || ((t.lguard g L).val && t.ctl.getLsbD L))
  let act := fun L => t.active g L
  let named : Option (Nat × Nat) := if t.laneList.any gl then some (0, g.p.val)
    else (ops.find? fun o => t.laneList.any fun L => act L && o.2.2 L).map fun o => (o.1, o.2.1)
  let tinted := fun L => gl L || (act L && ops.any fun o => o.2.2 L)
  named.map fun o => { Trap.of cGuessEscape 0 with opnd := 256 * o.2 + o.1, lanes := flanesOf (t.laneList.filter tinted) }
/-- A lane-guarded instruction that only a tinted address stops: GDEM in its address form (R94, R154). -/
def State.addrEscape (s : State) (g : LaneGuard) (ops : List (Nat × Nat × (Nat → Bool))) : Option Trap :=
  let t := s.cur
  let act := t.activeLanes g
  (ops.find? fun o => act.any o.2.2).map fun o =>
    { Trap.of cGuessEscape 0 with opnd := 256 * o.2.1 + o.1, lanes := flanesOf (act.filter fun L => ops.any fun o => o.2.2 L) }

/-- Tint rule 8 (R156). -/
def State.syncTrap (s : State) : Option Trap :=
  if s.tintAny then some (Trap.of cGuessSync 0) else none

end Sys2Proof.Machine
end

