-- ==== Sys2Proof/Machine/Network.lean ====
section
/-! DEFINITION. The homes of addresses and the networks between them: dies, MSUs and their channels, the routers of a die with their links, edge routers and bridges, and the power state of routers (R14-R17, R327, R392). -/

namespace Sys2Proof.Machine

/-! ### Homes (R315, R327) -/

def inScratch (p : Nat) : Bool := decide (scratchBase 0 ≤ p)
/-- The die of a physical address (R315, R327). -/
def physDie (p : Nat) : Nat :=
  if p < hbmSize then (bitsAt p 8 2) ^^^ (bitsAt p 20 2) else (p - scratchBase 0) / 0x10000000
/-- The home MSU of a physical address, 24 a die (R327). -/
def physMsu (p : Nat) : Nat :=
  if p < hbmSize then 24 * physDie p + bitsAt p 8 31 / 4 % 24
  else 24 * physDie p + (p - scratchBase (physDie p)) / 256 % 24
/-- The MSU that serves the addresses of one: itself, or the neighbour of one that is fused out (R392). -/
def State.servedBy (s : State) (m : Nat) : Nat := if s.fused.contains m then m ^^^ 1 else m
/-- The MSU that is home to a physical address. -/
def State.msuOf (s : State) (p : Nat) : Nat := s.servedBy (physMsu p)
/-- The home of the 64 KiB block of a byte in a CO page (R334). -/
def State.coMsu (s : State) (p : Nat) : Nat := s.msuOf (alignDown 65536 p)
/-- The home MSU of a byte: in a CO page that of its block (R334). -/
def State.homeMsu (s : State) (p : Nat) : Nat :=
  if s.coFrames.any fun f => decide (f.1 ≤ p) && decide (p < f.1 + f.2) then s.coMsu p else s.msuOf p

/-! ### The routers of a die (R15) -/

/-- The generators of the two kinds of subgraph, in the field of order 7. -/
def generators (kind : Nat) : List Nat := if kind = 0 then [1, 2, 5, 6] else [1, 3, 4, 6]
/-- Two routers of a die are joined by a link. Router 49t + 7x + y is vertex y of subgraph x of kind t; within a subgraph the difference of two vertices is a generator, and between kinds vertex (x, y) meets (m, c) where y = mx + c (PRESUMED, log 62). -/
def linked (r q : Nat) : Bool :=
  let t := r / 49
  let u := q / 49
  let x := r / 7 % 7
  let m := q / 7 % 7
  let y := r % 7
  let c := q % 7
  if t = u then x == m && (generators t).contains ((y + 7 - c) % 7)
  else if t = 0 then y == (m * x + c) % 7
  else c == (x * m + y) % 7
def neighbours (r : Nat) : List Nat := (List.range 98).filter (linked r)
/-- The packets in the input buffers of a router of a die in the present MSU cycle. -/
def State.passing (s : State) (d r : Nat) : Nat := (s.dieAt d).passing.get 0 r
/-- The router between two that no link joins: of their common neighbours the one with the most free slots, the lowest number first (R15). -/
def State.between (s : State) (d src dst : Nat) : Option Nat :=
  ((neighbours src).filter fun q => linked q dst).foldl (fun a q => match a with
    | some b => if s.passing d q < s.passing d b then some q else a
    | none => some q) none
/-- The hops of a packet over one die, each with its virtual channel: none within a router, channel 0 for the first and channel 1 for the second (R15). -/
def State.hops (s : State) (d src dst : Nat) : List (Nat × Nat) :=
  if src = dst then []
  else if linked src dst then [(dst, 0)]
  else match s.between d src dst with
    | some q => [(q, 0), (dst, 1)]
    | none => []

/-! ### From a quad to a home (R14) -/

/-- Where a packet goes: the router of a die, and the address it is for, if any. -/
structure Dest where
  die : Nat
  router : Nat
  addr : Option Nat
  deriving DecidableEq, Repr
/-- The router of an MSU by its number over the package. -/
def msuRouter (m : Nat) : Nat := 72 + m % 24
/-- The edge router by which traffic leaves a die: bit 8 of the address it is for, and 0 without one. -/
def edgeOf (addr : Option Nat) : Nat :=
  match addr with
  | some a => 96 + bitsAt a 8 1
  | none => 96
/-- The routers that a packet from a router of a die reaches, with their dies and virtual channels: at most two hops, a bridge between the edge routers of one number, and at most two hops more. -/
def State.pathTo (s : State) (d src : Nat) (dst : Dest) : List (Nat × Nat × Nat) :=
  let on := fun (d : Nat) (l : List (Nat × Nat)) => l.map fun h => (d, h.1, h.2)
  if d = dst.die then on d (s.hops d src dst.router)
  else
    let e := edgeOf dst.addr
    on d (s.hops d src e) ++ (dst.die, e, 0) :: on dst.die (s.hops dst.die e dst.router)

/-! ### Power (R17) -/

/-- MSU cycles, of which two pass in a package cycle (R13). -/
def State.msuNow (s : State) : Nat := 2 * s.clk
/-- A packet arrives at a router: one that is powered down wakes, and the idle count starts afresh (R17). -/
def State.arriveRouter (s : State) (d r : Nat) : State :=
  s.modDie d fun x =>
    { x with down := x.down.set false r false, idleSince := x.idleSince.set 0 r s.msuNow, passing := x.passing.set 0 r (x.passing.get 0 r + 1) }
/-- A packet travels, from the router at which it enters. -/
def State.travel (s : State) (d src : Nat) (dst : Dest) : State :=
  (s.pathTo d src dst).foldl (fun s h => s.arriveRouter h.1 h.2.1) (s.arriveRouter d src)

/-! ### Ports and the link dies (R351) -/

def State.portAt (s : State) (p : Nat) : Port := s.ports.get Port.init p
/-- The rank that a port is cabled to: ascending ranks without the package's own, then the spare partner (R351). -/
def State.cabled (s : State) (p : Nat) : Option Nat :=
  if p = 15 then some s.spare
  else if p + 2 ≤ s.podSize then some (if p < s.rank then p else p + 1) else none
def Port.usable (p : Port) : Bool := p.state == .trained || p.state == .degraded
/-- The port toward a neighbouring rank: a usable one first. -/
def State.portTo (s : State) (hop : Nat) : Option Nat :=
  let ports := (List.range 16).filter fun i => s.cabled i == some hop
  (ports.find? fun i => (s.portAt i).usable).orElse fun _ => ports.head?
/-- A usable link, primary or spare, leads to a rank. -/
def State.linkTo (s : State) (r : Nat) : Bool :=
  (List.range 16).any fun p => s.cabled p == some r && (s.portAt p).usable
/-- Both hops of a detour are usable. -/
def State.relayOk (s : State) (r t : Nat) : Bool :=
  decide (r < s.podSize) && r != s.rank && r != t && s.linkTo r && s.peerLinks.contains (r, t)
/-- The link die of a port: 0 for ports 0 to 7, 1 for ports 8 to 15. -/
def linkDie (port : Nat) : Nat := port / 8
/-- The number that stands for a unit of a link die where a core is meant: the host interface, the queue engine, the placer and the management processor are on link die 0, the re-shard engine on link die 1. -/
def linkUnit (l : Nat) : Nat := 1152 + l
/-- Where the home of a place stands: the MSU of an address, and for a remote window the edge router toward the link die whose port leads to the first package of its path. -/
def State.destOf (s : State) (core : Nat) (p : Place) : Option Dest :=
  match p with
  | .phys a => some { die := s.homeMsu a / 24, router := msuRouter (s.homeMsu a), addr := some a }
  | .scratch gid .d off => (s.group? gid).map fun g =>
      { die := pcoreDie (s.pcore g.lcore), router := msuRouter (s.servedBy (24 * pcoreDie (s.pcore g.lcore) + off / 256 % 24)), addr := some off }
  | .peer r a =>
    if core < 1152 then (s.portTo (s.route.get 16 r)).map fun i => { die := pcoreDie core, router := 96 + linkDie i, addr := some a }
    else none
  | _ => none
/-- A request of a core travels to a home, and the answer back; `back` is the address that the answer is for, if any. A unit of a link die reaches a compute die by the edge router of its link die (R14, R17). -/
def State.trip (s : State) (core : Nat) (x : Dest) (back : Option Nat) : State :=
  if core < 1152 then
    (s.travel (pcoreDie core) (pcoreQuad core) x).travel x.die x.router { die := pcoreDie core, router := pcoreQuad core, addr := back }
  else
    let e := 96 + (core - 1152) % 2
    (s.travel x.die e x).travel x.die x.router { die := x.die, router := e, addr := back }
/-- The request of a core for bytes at a place travels to their home, and its answer back. -/
def State.request (s : State) (core : Nat) (p : Place) : State :=
  match s.destOf core p with
  | some x => s.trip core x x.addr
  | none => s
/-- The same for an engine of a core: what it reads comes back as a delivery to its logical core, traffic without an address (R14). -/
def State.fetchTrip (s : State) (core : Nat) (p : Place) : State :=
  match s.destOf core p with
  | some x => s.trip core x none
  | none => s
/-- A barrier signal or a copy's count travels to an object's home: traffic without an address (R14). -/
def State.signalTo (s : State) (core : Nat) (p : Place) : State :=
  match s.destOf core p with
  | some x => s.trip core { x with addr := none } none
  | none => s
/-- The request of a core or of a unit of a link die for a range of bytes: a packet for each 256-byte granule, which one MSU holds (R327). -/
def State.requestAll (s : State) (core : Nat) (p : Place) (n : Nat) : State :=
  match p with
  | .phys a => (unitsOf 256 a n).foldl (fun s g => s.request core (.phys (256 * g))) s
  | p => s.request core p

/-! ### Inside an MSU (R327) -/

/-- The pseudo-channel of an HBM byte within its MSU, the granule within the pseudo-channel, its row, and the stack it lies in. -/
def hbmHash (p : Nat) : Nat := bitsAt p 8 31 / 4
def hbmChannel (p : Nat) : Nat := hbmHash p / 24 % 32
def hbmGranule (p : Nat) : Nat := hbmHash p / 768
def hbmRow (p : Nat) : Nat := hbmGranule p / 4
def hbmStack (p : Nat) : Nat := 2 * physDie p + hbmHash p % 24 / 12
/-- The byte of an MSU's 6 MiB that holds offset `o` of a die's region or of a .d allocation. -/
def scratchByte (o : Nat) : Nat := 256 * (o / 6144) + o % 256

end Sys2Proof.Machine
end

