-- ==== Sys2Proof/Machine/Home.lean ====
section
/-! DEFINITION. What the homes do: the order in which accesses may be performed, writes with their rejections and notices, atomic operations, timelines and outstanding counters (R166, R209, R213-R217, R235-R246, R292, R335). -/

namespace Sys2Proof.Machine

/-! ### Places and homes -/

/-- Two ranges of bytes have a byte in common. -/
def Place.overlaps (p : Place) (n : Nat) (q : Place) (m : Nat) : Bool :=
  match p, q with
  | .phys a, .phys b => decide (a < b + m) && decide (b < a + n)
  | .scratch g sp a, .scratch h sq b => g == h && sp == sq && decide (a < b + m) && decide (b < a + n)
  | .peer r a, .peer q b => r == q && decide (a < b + m) && decide (b < a + n)
  | _, _ => false

/-- A message of a vector goes to the host (R391). -/
def State.raiseMsi (s : State) (v : Nat) : State := { s with msix := s.msix.set 0 v (s.msix.get 0 v + 1) }

/-- A registered object covers a byte of the range (R335). -/
def State.regOver (s : State) (a n : Nat) : Option CombReg :=
  s.combRegs.find? fun r => decide (a < r.phys + r.size) && decide (r.phys < a + n)

/-! ### Timelines (R215-R217) -/

def Timeline.take (t : Timeline) : Timeline := { t with taken := t.taken + 1 }
def Timeline.roll : Nat → Timeline → Timeline
  | 0, t => t
  | n + 1, t =>
    if t.done.contains (t.value + 1) then
      Timeline.roll n { t with value := t.value + 1, done := t.done.filter (· != t.value + 1) }
    else t
/-- Operation `n` has completed: the value is the largest number up to which all have (R216). -/
def Timeline.finish (t : Timeline) (n : Nat) : Timeline :=
  let d := if t.value < n ∧ !t.done.contains n then n :: t.done else t.done
  Timeline.roll d.length { t with done := d }

def Group.tline (g : Group) (e : Nat) : Timeline := g.tl.get Timeline.zero e
def State.tline (s : State) (gid e : Nat) : Timeline :=
  match s.group? gid with
  | some g => g.tline e
  | none => Timeline.zero
/-- The number that the next operation of an engine takes. -/
def State.tlNext (s : State) (gid e : Nat) : Nat := (s.tline gid e).taken + 1
def State.tlTake (s : State) (gid e : Nat) : State :=
  s.modGroup gid fun g => { g with tl := g.tl.set Timeline.zero e (g.tline e).take }

/-- A chunk map has chunks `f` to `l` set (R212, R219). -/
def State.chunksSet (s : State) (gid map f l : Nat) : Bool :=
  let bs := fromBytes (s.placeRead (.scratch gid .k map) 16)
  (List.range (l + 1)).all fun i => decide (i < f) || bs.testBit i
/-- The condition of a binding holds now (R212). -/
def State.condHolds (s : State) (c : BindCond) : Bool :=
  match c with
  | .engine gid e v => decide (v ≤ (s.tline gid e).value)
  | .memTl a v => decide (v ≤ (s.physWord a).toNat)
  | .chunk gid m f l => s.chunksSet gid m f l
  | .watch a x => (s.physWord a).toNat != x
  | .peer _ _ => false
/-- A step at the thing compared fires the armed bindings whose condition it makes true (R213). -/
def State.fireIf (s : State) (p : BindCond → Bool) : State :=
  { s with binds := s.binds.map fun b => { b with fired := b.fired || (p b.cond && s.condHolds b.cond) } }
def condAt (a n : Nat) : BindCond → Bool
  | .memTl b _ | .watch b _ => decide (a < b + 8) && decide (b < a + n)
  | _ => false
/-- The chunk maps of a group that a range of its .k bytes touches. -/
def mapAt (gid : Nat) (sp : Space) (off n : Nat) : BindCond → Bool
  | .chunk g m _ _ => g == gid && sp == .k && decide (off < m + 16) && decide (m < off + n)
  | _ => false
def State.tlFinish (s : State) (gid e n : Nat) : State :=
  (s.modGroup gid fun g => { g with tl := g.tl.set Timeline.zero e ((g.tline e).finish n) }).fireIf fun c =>
    match c with
    | .engine h f _ => h == gid && f == e
    | _ => false

/-! ### Outstanding counters (R292) -/

def State.outOk (s : State) (core kid : Nat) : Bool :=
  let out := (s.coreAt core).out
  (out.any fun e => e.kid == kid) || decide (out.length < 64)
def State.outUp (s : State) (core kid : Nat) : State :=
  s.modCore core fun c =>
    if (c.out.any fun e => e.kid == kid) then
      { c with out := c.out.map fun e => if e.kid = kid then { e with count := e.count + 1 } else e }
    else { c with out := c.out ++ [{ kid, count := 1 }] }
def State.outDown (s : State) (core kid : Nat) : State :=
  let f := fun e : OutEntry => if e.kid = kid then { e with count := e.count - 1 } else e
  s.modCore core fun c => { c with out := (c.out.map f).filter fun e => e.count != 0 }

/-! ### Writes at their homes -/

/-- The maximal runs of bytes from `a` that a test lets through. -/
def passRuns (ok : Nat → Bool) (a : Nat) : List Byte → List (Nat × List Byte)
  | [] => []
  | b :: bs =>
    if ok a then match passRuns ok (a + 1) bs with
      | (c, l) :: rest => if c = a + 1 then (a, b :: l) :: rest else (a, [b]) :: (c, l) :: rest
      | [] => [(a, [b])]
    else passRuns ok (a + 1) bs
/-- Bytes of physical memory written at their home, and the bindings that it compares there fired (R213). -/
def State.homePut (s : State) (a : Nat) (bs : List Byte) : State := (s.physWrite a bs).fireIf (condAt a bs.length)
/-- A write performed at its home for a context, or rejected there: its bytes in a registered object are reported with kind 0x02 and those in a guarded barrier object with kind 0x04, once an access, and its other bytes are written; guarded scratchpad bytes are not written (R209, R335). -/
def State.homeWrite (s : State) (told : Bool) (h : ReqHdr) (ctx va : Nat) (p : Place) (bs : List Byte) : State :=
  match p with
  | .phys a =>
    let reg := (s.regOver a bs.length).isSome
    let guard := s.guarded a bs.length
    if !reg && !guard then s.homePut a bs
    else
      let ok := fun b : Nat => (s.regOver b 1).isNone && !s.guarded b 1
      let s1 := if reg && !told then s.post (Report.from_ h ctx 0x02 0x41 va) else s
      let s2 := if guard && !told then s1.post (Report.from_ h ctx 0x04 cBarOverwrite va) else s1
      (passRuns ok a bs).foldl (fun s r => s.homePut r.1 r.2) s2
  | .scratch gid sp off =>
    if s.placeGuarded p bs.length then
      (passRuns (fun b => !s.placeGuarded (.scratch gid sp b) 1) off bs).foldl (fun s r =>
        (s.placeWrite (.scratch gid sp r.1) r.2).fireIf (mapAt gid sp r.1 r.2.length)) s
    else (s.placeWrite p bs).fireIf (mapAt gid sp off bs.length)
  | p => s.placeWrite p bs
/-- Some byte of a write is rejected (R209, R335). -/
def State.rejects (s : State) (p : Place) (n : Nat) : Bool :=
  match p with
  | .phys a => (s.regOver a n).isSome || s.guarded a n
  | p => s.placeGuarded p n
/-- An atomic operation is rejected as a whole, and reported (R209, R335). -/
def State.homeReject (s : State) (h : ReqHdr) (ctx va : Nat) (p : Place) (n : Nat) : State :=
  match p with
  | .phys a => s.post (if (s.regOver a n).isSome then Report.from_ h ctx 0x02 0x41 va else Report.from_ h ctx 0x04 cBarOverwrite va)
  | _ => s

/-- The new value of an atomic operation (R165, R166). -/
def atomNew (op : AtomOp) (signed : Bool) (w old x c : Nat) : Nat :=
  let v := fun y : Nat => if signed then toSigned w y else (y : Int)
  match op with
  | .add => (old + x) % 2 ^ w
  | .min => if v x < v old then x else old
  | .max => if v old < v x then x else old
  | .and => old &&& x
  | .or => old ||| x
  | .xor => old ^^^ x
  | .xchg => x
  | .cas => if old = c then x else old
  | .addF32 =>
    let n := Num.sum false [FF.f32.dec old, FF.f32.dec x]
    if n.isZero then 0 else (FF.f32.round .rn false n).1

/-! ### The order in which accesses may be performed (R238-R246) -/

/-- A read that has yet to be performed; one whose guess alone counts is none (R258). -/
def LoadLane.due (l : LoadLane) : Bool := !l.performed && l.st != .guessOnly && match l.gd with
  | some g => !g.again.isEmpty
  | none => true
def Load.isAccess (ld : Load) : Bool := ld.kind != .pref

/-- The earlier posted writes of the team to bytes of the range that have not been performed, in program order: each with whether it is a plain write. -/
def State.ownWrites (s : State) (id : TeamId) (seq : Nat) (p : Place) (n : Nat) : List (Bool × PostWrite) :=
  s.posts.flatMap fun q =>
    if q.team == id && decide (q.seq < seq) then
      (q.writes.filter fun w => !w.done && w.place.overlaps w.data.length p n).map fun w => (q.sig.isNone && w.red.isNone, w)
    else []
/-- Where a fill reads a line; none where the page no longer translates. -/
def State.codePlace (s : State) (core : Option Nat) (ctx line : Nat) : Option Nat :=
  (s.ctx? ctx).bind fun c => match s.translateAt core c false needX (256 * line) with
    | .ok { place := .phys a, .. } => some a
    | _ => none
/-- The code lines that an earlier IPREF or IPIN of the team still waits for: reads at their places in program order (R252). -/
def State.fillsOf (s : State) (id : TeamId) (seq : Nat) : List CodeLine :=
  s.quads.flatMap fun q => q.2.l1.filter fun l => l.filling && match l.by_ with
    | some (t, n) => t == id && decide (n < seq)
    | none => false
/-- An earlier read of the team of bytes of the range has not been performed, or an earlier save of its matrix engine (R238). -/
def State.earlierRead (s : State) (id : TeamId) (seq : Nat) (p : Place) (n : Nat) : Bool :=
  (s.loads.any fun ld => ld.team == id && decide (ld.seq < seq) && ld.isAccess &&
    ld.lanes.any fun l => l.due && l.place.overlaps ld.w.bytes p n)
  || (s.mats.any fun j => j.team == id && decide (j.seq < seq) && match j.kind with
    | .save _ _ _ runs none => runs.any fun r => r.1.overlaps r.2 p n
    | _ => false)
  || (s.fillsOf id seq).any fun f => match s.codePlace none f.ctx f.line with
    | some a => (Place.phys a).overlaps 256 p n
    | none => false
/-- An earlier access of the team to bytes of the range has not been performed (R238). -/
def State.earlierHit (s : State) (id : TeamId) (seq : Nat) (p : Place) (n : Nat) : Bool :=
  !(s.ownWrites id seq p n).isEmpty || s.earlierRead id seq p n
/-- An earlier acquire of the team has not been performed (R242). -/
def State.acqHold (s : State) (id : TeamId) (seq : Nat) : Bool :=
  s.loads.any fun ld => ld.team == id && decide (ld.seq < seq) && ld.acq.isSome && ld.lanes.any LoadLane.due
def MatKind.isSave : MatKind → Bool
  | .save .. => true
  | _ => false
/-- The posted access of an MLDW.save. -/
def State.isSavePost (s : State) (k : Nat) : Bool := s.mats.any fun j => match j.kind with
  | .save _ _ _ _ (some p) => p == k
  | _ => false
/-- Every earlier access of the team has been performed; with `pod`, acknowledged by its target too (R242, R256). Without `mat`, the accesses of the matrix engine do not count (R232). -/
def State.allDone (s : State) (id : TeamId) (seq : Nat) (pod mat : Bool) : Bool :=
  (s.posts.all fun q => !(q.team == id && decide (q.seq < seq)) || (!mat && s.isSavePost q.key) ||
    q.writes.all fun w => w.done || (w.place.isPeer && !pod))
  && (s.loads.all fun ld => !(ld.team == id && decide (ld.seq < seq) && ld.isAccess) ||
    (!mat && ld.kind == .mat) || ld.lanes.all fun l => !l.due)
  && (s.fillsOf id seq).isEmpty
  && (!mat || s.mats.all fun j => !(j.team == id && decide (j.seq < seq) && j.kind.isSave))
  && (!pod || s.engs.all fun e => !(e.team == id && decide (e.seq < seq) && e.kind == .xsend))
/-- What a FENCE waits for: earlier loads written, and every earlier access performed at the scope (R232). -/
def State.fenceDone (s : State) (id : TeamId) (seq : Nat) (sc : Scope) : Bool :=
  s.allDone id seq (sc == .pod) false
    && s.loads.all fun ld => !(ld.team == id && decide (ld.seq < seq)) || ld.kind == .mat || ld.written
def State.fencesDone (s : State) (id : TeamId) (fs : List FenceRec) : Bool :=
  fs.all fun f => s.fenceDone id f.seq f.scope
def relDone (s : State) (id : TeamId) (seq : Nat) (rel : Option Scope) : Bool :=
  match rel with
  | none => true
  | some sc => s.allDone id seq (sc == .pod) true

/-- The groups of this package that stand on a core. -/
def Group.onCore (g : Group) : Bool :=
  match g.state with
  | .resident | .saving | .moving | .restoring | .halted _ => true
  | _ => false
/-- The groups whose teams an operation of team `t` at a scope covers in this cycle, besides `t` itself: those inside the instance of the scope that holds `t` (R24, R241). Group 0 stands for the agents that are no teams of a group. -/
def State.covered (s : State) (sc : Scope) (t : TeamId) : List Nat :=
  let home := s.coreOf t.gid
  let within := fun p : Nat => match sc with
    | .team => false
    | .core => p == home
    | .quad => quadKey p == quadKey home
    | .die => pcoreDie p == pcoreDie home
    | .pkg | .pod => true
  (if sc = .pkg ∨ sc = .pod then [0] else []) ++ (s.groups.filter fun g => g.onCore && within (s.pcore g.lcore)).map Group.gid
/-- The releases that a write makes, by its own order and by the fences before it, whose earlier accesses are still due: their places in the team's order and their scopes. -/
def State.relDue (s : State) (id : TeamId) (seq : Nat) (rel : Option Scope) (fs : List FenceRec) : List (Nat × Scope) :=
  (match rel with
    | some sc => if s.allDone id seq (sc == .pod) true then [] else [(seq, sc)]
    | none => [])
  ++ (fs.filter fun f => !s.fenceDone id f.seq f.scope).map fun f => (f.seq, f.scope)
/-- Bytes that a binding armed here compares. -/
def State.compared (s : State) (p : Place) (n : Nat) : Bool :=
  match p with
  | .phys a => s.binds.any fun b => condAt a n b.cond
  | _ => false
/-- A release below pod scope may be performed ahead of what it releases, since it binds towards the covered teams alone, which are held from its bytes meanwhile (R245). -/
def State.relOk (s : State) (id : TeamId) (seq : Nat) (rel : Option Scope) (fs : List FenceRec) (p : Place) (n : Nat) : Bool :=
  let due := s.relDue id seq rel fs
  due.isEmpty || (due.all (fun d => d.2 != .pod) && !p.isPeer && !s.compared p n)
/-- A release that is performed early is noted with its bytes. -/
def State.noteEarly (s : State) (id : TeamId) (seq : Nat) (rel : Option Scope) (fs : List FenceRec) (p : Place) (n : Nat) : State :=
  match s.relDue id seq rel fs with
  | [] => s
  | due => { s with early := (s.early.filter fun e => !s.allDone e.team e.seq false true)
      ++ (due.map fun d => { team := id, seq := d.1, gids := s.covered d.2 id, place := p, bytes := n }) }
/-- What an early release of bytes of the range releases has not all been performed. -/
def State.earlyPending (s : State) (p : Place) (n : Nat) : Bool :=
  s.early.any fun e => e.place.overlaps e.bytes p n && !s.allDone e.team e.seq false true
/-- A covered team is held from the bytes of an early release until what it releases has been performed (R242, R243). -/
def State.earlyHold (s : State) (id : TeamId) (p : Place) (n : Nat) : Bool :=
  s.early.any fun e => e.team != id && e.place.overlaps e.bytes p n && e.gids.contains id.gid
    && !s.allDone e.team e.seq false true
/-- The bytes of the acquires of a team before `seq` that have yet to be performed: each with the acquire's place in the order and its scope. -/
def State.acqDue (s : State) (id : TeamId) (seq : Nat) : List (Nat × Scope × Place × Nat) :=
  s.loads.flatMap fun ld => match ld.acq with
    | some sc => if ld.team == id && decide (ld.seq < seq) then
        (ld.lanes.filter LoadLane.due).map fun l => (ld.seq, sc, l.place, ld.w.bytes) else []
    | none => []
/-- An access after an acquire below package scope may be performed ahead of it, since the acquire binds towards the covered teams alone, which are held from writing its bytes meanwhile; not while an early release holds the acquire itself (R245; DESIGN CHOICE, log 92). -/
def State.acqOk (s : State) (id : TeamId) (seq : Nat) (p : Place) : Bool :=
  (s.acqDue id seq).all fun a => a.2.1 != .pkg && a.2.1 != .pod && !p.isPeer && !a.2.2.1.isPeer && !s.earlyHold id a.2.2.1 a.2.2.2
/-- An acquire that an access has been performed ahead of is still due: a covered team's write of its bytes is held (R243, R245; DESIGN CHOICE, log 92). -/
def State.aheadHold (s : State) (id : TeamId) (p : Place) (n : Nat) : Bool :=
  s.ahead.any fun e => e.team != id && e.place.overlaps e.bytes p n && e.gids.contains id.gid
    && (s.acqDue e.team (e.seq + 1)).any fun a => a.1 == e.seq && a.2.2.1 == e.place
/-- An access is performed ahead of the acquires before it that are still due: they are noted with their bytes. -/
def State.noteAhead (s : State) (id : TeamId) (seq : Nat) : State :=
  match s.acqDue id seq with
  | [] => s
  | due => { s with ahead := (s.ahead.filter fun e => (s.acqDue e.team (e.seq + 1)).any fun a => a.1 == e.seq && a.2.2.1 == e.place)
      ++ (due.map fun d => { team := id, seq := d.1, gids := s.covered d.2.1 id, place := d.2.2.1, bytes := d.2.2.2 }) }

/-- The home holds every request to a bank whose neighbour rows are being refreshed (R329). -/
def State.backedOff (s : State) (p : Place) : Bool :=
  match p with
  | .phys a => decide (a < hbmSize) && decide (s.clk < (s.hbms.get Stack.init (hbmStack a)).backoff.get 0 (Config.bankOf a))
  | _ => false
/-- A lane of an access may be performed (R238, R242, R137). -/
def State.laneOk (s : State) (ld : Load) (l : LoadLane) : Bool :=
  !s.earlierHit ld.team ld.seq l.place ld.w.bytes && s.acqOk ld.team ld.seq l.place
    && !s.earlyHold ld.team l.place ld.w.bytes && !s.backedOff l.place
    && match ld.kind with
      | .atom _ => s.relOk ld.team ld.seq ld.rel ld.fences l.place ld.w.bytes && !s.aheadHold ld.team l.place ld.w.bytes &&
          ld.lanes.all fun m => decide (l.lane ≤ m.lane) || m.performed || !m.place.overlaps ld.w.bytes l.place ld.w.bytes
      | _ => true
/-- Write `i` of a posted access may be performed. -/
def State.writeOk (s : State) (q : Post) (i : Nat) (w : PostWrite) : Bool :=
  q.accepted && !s.backedOff w.place && !s.earlierHit q.team q.seq w.place w.data.length && s.acqOk q.team q.seq w.place
    && s.relOk q.team q.seq q.rel q.fences w.place w.data.length && !s.earlyHold q.team w.place w.data.length
    && !s.aheadHold q.team w.place w.data.length
    && (q.writes.take i).all fun v => v.done || !v.place.overlaps v.data.length w.place w.data.length

/-! ### Performing an access -/

/-- An element as it enters the registers: widths 8 and 16 extended by the signed bit (R59, R162). -/
def elemValue (w : Width) (signed : Bool) (x : Nat) : Nat :=
  match w with
  | .w8 => if signed then wrapTo 32 (toSigned 8 x) else x % 2 ^ 8
  | .w16 => if signed then wrapTo 32 (toSigned 16 x) else x % 2 ^ 16
  | w => x % 2 ^ (8 * w.bytes)

def State.modLoad (s : State) (k : Nat) (f : Load → Load) : State :=
  { s with loads := s.loads.map fun ld => if ld.key = k then f ld else ld }
/-- The contention predictor's counter of an address (R167). -/
def predIndex (a : Nat) : Nat := bitsAt a 7 8
/-- The home takes a line's lease back from a core, and the line's counter there rises (R167). -/
def State.recall (s : State) (core line : Nat) : State :=
  if (s.coreAt core).lease.contains line then
    s.modCore core fun c =>
      let i := predIndex (128 * line)
      { c with lease := c.lease.filter (· != line), predictor := c.predictor.set 0 i (min 3 (c.predictor.get 0 i + 1)) }
  else s
/-- The home recalls the leases that other cores hold of the lines of a range before it serves a core's access there (R167). -/
def State.recallFor (s : State) (core : Nat) (p : Place) (n : Nat) : State :=
  match p with
  | .phys a => (unitsOf 128 a n).foldl (fun s line =>
      ((s.cores.filter fun c => c.1 != core && c.2.lease.contains line).map Prod.fst).foldl (fun s c => s.recall c line) s) s
  | _ => s
/-- What every access does on its way: the page of a core's access enters the TLBs (R320), its request travels to the home (R14, R17), and the home recalls leases (R167). -/
def State.goesTo (s : State) (core slot va : Nat) (sp : Space) (p : Place) (n : Nat) : State :=
  ((if core < 1152 ∧ sp = .g then s.fillTlb core slot va else s).requestAll core p n).recallFor core p n
/-- A lane performed at its home: a load takes the value, an atomic operation reads and writes as one step; poison and rejection as R331 and R335 state, one access being reported once. -/
def State.doLane (s : State) (ld : Load) (l : LoadLane) : State × LoadLane :=
  let n := ld.w.bytes
  let s := (s.goesTo ld.core ld.ctx l.addr ld.sp l.place n).noteAhead ld.team ld.seq
  let x := fromBytes (s.placeRead l.place n)
  let bad := if s.placePoisoned l.place n then some cPoisoned else none
  match ld.kind with
  | .atom op =>
    if s.rejects l.place n then
      let v := match l.place with
        | .phys a => if (s.regOver a n).isSome then 0
          else (Config.rejectedAtom (1024 * ld.key + l.lane)).toNat % 2 ^ (8 * n)
        | _ => 0
      let s1 := if ld.told then s else (s.homeReject ld.hdr ld.ctx l.addr l.place n).modLoad ld.key fun ld => { ld with told := true }
      (s1, { l with performed := true, value := v })
    else if bad.isSome then (s, { l with performed := true, bad })
    else ((s.homeWrite false ld.hdr ld.ctx l.addr l.place (leBytes n (atomNew op ld.signed (8 * n) x l.x l.c))).noteEarly
        ld.team ld.seq ld.rel ld.fences l.place n,
      { l with performed := true, value := x })
  | _ =>
    let t := match l.tintAt with
      | some b => (s.byte (b / 8)).toNat.testBit (b % 8)
      | none => false
    (s, { l with performed := true, value := elemValue ld.w ld.signed x, bad, tint := l.tint || t })

/-- The other lanes of a load to the bytes of a lane just performed are performed with it: no write falls between them (R137). -/
def Load.share (ld : Load) (l m : LoadLane) : Load :=
  match ld.kind with
  | .atom _ => ld
  | _ => { ld with lanes := ld.lanes.map fun x =>
      if x.lane != l.lane && x.due && x.place == l.place then
        { x with performed := true, value := m.value, bad := m.bad, tint := x.tint || (m.tint && !l.tint) }
      else x }
/-- A lane performed at its home, and with it the lanes of the same load to the same bytes. -/
def State.doLanes (s : State) (ld : Load) (l : LoadLane) : State × LoadLane :=
  let r := s.doLane ld l
  (r.1.modLoad ld.key fun x => x.share l r.2, r.2)
def State.load? (s : State) (k : Nat) : Option Load := s.loads.find? fun ld => ld.key == k
def Load.setLane (ld : Load) (m : LoadLane) : Load :=
  { ld with lanes := ld.lanes.map fun l => if l.lane = m.lane then m else l }
def Load.lane? (ld : Load) (L : Nat) : Option LoadLane := ld.lanes.find? fun l => l.lane == L

/-- Run `k` of a step is in flight. -/
def PlanStep.flying (t : PlanStep) (k : Nat) : Bool :=
  decide (t.first ≤ k) && decide (k < t.first + t.sent) && !t.acked.contains k && !t.denied.contains k && !t.gone
/-- The posted writes that were sent on an old path have all been acknowledged (R254). -/
def State.drainedHold (s : State) (h : RouteHold) : Bool :=
  (h.keys.all fun k => !((s.posts.any fun q => q.key == k) || s.engs.any fun e => e.key == k))
    && h.runs.all fun r => !s.plans.any fun p => p.key == r.1 && p.steps.any fun t => t.index == r.2.1 && t.flying r.2.2
/-- A new packet may leave for a target: there is a path, and no change of path holds it (R254, R416). -/
def State.openTo (s : State) (tgt : Nat) : Bool :=
  s.route.get 16 tgt != 16 && s.holds.all fun h => h.tgt != tgt || s.drainedHold h
/-- A packet of operation `key` may have gone to a target: it may leave now, or had gone before the path was lost or changed (R254, R416). -/
def State.sendOk (s : State) (key tgt : Nat) : Bool :=
  (match s.pathless.get none tgt with
    | some (_, ks) => ks.contains key
    | none => s.route.get 16 tgt != 16)
  && s.holds.all fun h => h.tgt != tgt || h.sent.contains key || s.drainedHold h

/-- What the write-combining buffer gives a read of a peer's bytes: nothing of its team's own is pending there, the bytes of the latest write in program order where it covers the read, or a wait (R257, log 12). -/
inductive Forward where
  | none
  | value (x : Nat)
  | wait
  deriving DecidableEq, Repr
def State.forward (s : State) (ld : Load) (l : LoadLane) : Forward :=
  match l.place, (s.ownWrites ld.team ld.seq l.place ld.w.bytes).getLast? with
  | _, .none => .none
  | .peer _ a, some (true, { place := .peer _ b, data, .. }) =>
    if b ≤ a ∧ a + ld.w.bytes ≤ b + data.length then .value (fromBytes ((data.drop (a - b)).take ld.w.bytes)) else .wait
  | _, _ => .wait
/-- The path of a posted access to a peer; one that is still in WAI will take the row of the route table. -/
def State.pathOf (s : State) (q : Post) (tgt : Nat) : Nat := ((q.paths.find? fun p => p.1 == tgt).map Prod.snd).getD (s.route.get 16 tgt)
/-- A later access of a team to a target on a path finds every earlier posted write of the team there on that path acknowledged; with its relaxed bit set it is ordered with nothing (R255; DEDUCED, log 93). -/
def State.pathClear (s : State) (id : TeamId) (seq tgt path : Nat) (relaxed : Bool) : Bool :=
  relaxed || ((s.posts.all fun q => q.team != id || decide (seq ≤ q.seq) || s.pathOf q tgt != path ||
      q.writes.all fun w => w.done || match w.place with
        | .peer t _ => t != tgt
        | _ => true)
    && s.engs.all fun e => e.kind != .xsend || e.team != id || decide (seq ≤ e.seq) || e.tgt != tgt || (e.accepted && e.path != path))
/-- A read pushes the earlier posted writes of its team to the same target ahead of it, unless its relaxed bit is set (R255). -/
def State.pushed (s : State) (ld : Load) (r : Nat) : Bool := s.pathClear ld.team ld.seq r (s.route.get 16 r) ld.relaxed
/-- A request to a peer may have been performed there (R238, R242, R244, R254, R256). -/
def State.peerOk (s : State) (ld : Load) (l : LoadLane) (r : Nat) : Bool :=
  s.sendOk ld.key r && !s.acqHold ld.team ld.seq && !s.earlierRead ld.team ld.seq l.place ld.w.bytes
    && match ld.kind with
      | .atom _ => relDone s ld.team ld.seq ld.rel && s.fencesDone ld.team ld.fences
          && (s.ownWrites ld.team ld.seq l.place ld.w.bytes).isEmpty
      | _ => true
/-- The answer of a lane: performed at its home if it has not been, forwarded from the team's own pending write, or as the peer replies (R257, R357, R360). -/
def State.answer (s : State) (ld : Load) (l : LoadLane) (remote : Reply) : Option (State × LoadLane) :=
  let gives := fun (s : State) (m : LoadLane) => some (s.modLoad ld.key fun x => x.share l m, m)
  if l.performed then some (s, l)
  else match l.place with
    | .nowhere => none
    | .peer r _ =>
      if !s.peerOk ld l r then none
      else match s.forward ld l with
        | .wait => none
        | .value x => gives s { l with performed := true, value := elemValue ld.w ld.signed x }
        | .none => if !s.pushed ld r then none else
          gives (s.goesTo ld.core ld.ctx l.addr ld.sp l.place ld.w.bytes) (match remote with
            | .value x => { l with performed := true, value := elemValue ld.w ld.signed x.toNat }
            | .poisoned => { l with performed := true, bad := some cPoisoned }
            | .denied => { l with performed := true, bad := some cFabricDenied })
    | _ => if s.laneOk ld l then some (s.doLanes ld l) else none

/-- An atomic operation without a result at its home: a poisoned sector stays as it is and is reported (R331). -/
def State.reduce (s : State) (told : Bool) (h : ReqHdr) (ctx va : Nat) (p : Place) (op : AtomOp) (signed : Bool) (n x c : Nat) : State :=
  if s.rejects p n then (if told then s else s.homeReject h ctx va p n)
  else if s.placePoisoned p n then s.post (Report.from_ h ctx 0x03 cPoisoned va)
  else
    let old := fromBytes (s.placeRead p n)
    s.homeWrite told h ctx va p (leBytes n (atomNew op signed (8 * n) old x c))
/-- A place's poison marks go from the sectors of a range whose 32 bytes one operation has written (R331). -/
def State.heal (s : State) (p : Place) (n : Nat) (written : Place → Bool) : State :=
  let whole := fun (at_ : Nat → Place) (u : Nat) => (List.range 32).all fun i => written (at_ (32 * u + i))
  match p with
  | .phys a => { s with poison := (unitsOf 32 a n).foldl (fun m u => if whole Place.phys u then m.set false u false else m) s.poison }
  | .scratch gid sp off => s.modGroup gid fun g =>
      let x := g.scratch sp
      g.setScratch sp { x with poison := (unitsOf 32 off n).foldl (fun m u =>
        if whole (Place.scratch gid sp) u then m.set false u false else m) x.poison }
  | _ => s
/-- The bytes that the plain writes of a post have stored, its write `w` among them. -/
def Post.wrote (q : Post) (w : PostWrite) (p : Place) : Bool :=
  q.writes.any fun v => (v.done || v == w) && v.red.isNone && v.place.overlaps v.data.length p 1
/-- A write of a posted access performed at its home, or rejected there: one access is reported once (R209, R335), and a sector that the access has written whole is poisoned no more (R331). -/
def State.doWrite (s : State) (q : Post) (w : PostWrite) : State :=
  let s := (s.goesTo q.core q.ctx w.va (match w.place with
    | .scratch _ _ _ => .k
    | _ => .g) w.place w.data.length).noteAhead q.team q.seq
  let n := w.data.length
  match w.red with
  | none =>
    let s1 := (s.homeWrite q.told q.hdr q.ctx w.va w.place w.data).noteEarly q.team q.seq q.rel q.fences w.place n
    if s1.placePoisoned w.place n && !s.rejects w.place n then s1.heal w.place n (q.wrote w) else s1
  | some op => (s.reduce q.told q.hdr q.ctx w.va w.place op q.signed n (fromBytes w.data) 0).noteEarly
      q.team q.seq q.rel q.fences w.place n
def State.modPost (s : State) (k : Nat) (f : Post → Post) : State :=
  { s with posts := s.posts.map fun q => if q.key = k then f q else q }
def State.post? (s : State) (k : Nat) : Option Post := s.posts.find? fun q => q.key == k
/-- Write `i` of post `k` is performed, if the order allows it. -/
def State.performWrite (s : State) (k i : Nat) : State :=
  match s.post? k with
  | none => s
  | some q => match q.writes[i]? with
    | none => s
    | some w =>
      if w.done || w.place.isPeer || !s.writeOk q i w then s
      else
        let bad := s.rejects w.place w.data.length
        (s.doWrite q w).modPost k fun q => { q with writes := q.writes.set i { w with done := true }, told := q.told || bad }
/-- Every write of a post that is still due, in order. -/
def State.performPost (s : State) (k : Nat) : State :=
  match s.post? k with
  | none => s
  | some q => (List.range q.writes.length).foldl (fun s i => s.performWrite k i) s
/-- Lane `L` of access `k` is performed at its home ahead of its answer, if the order allows it. -/
def State.performLane (s : State) (k L : Nat) : State :=
  match s.load? k with
  | none => s
  | some ld => match ld.lane? L with
    | none => s
    | some l =>
      if l.performed || !l.due || l.place.isPeer || l.place == .nowhere || !s.laneOk ld l then s
      else
        let r := s.doLanes ld l
        r.1.modLoad k fun ld => ld.setLane r.2

end Sys2Proof.Machine
end

