-- ==== Sys2Proof/Machine/Scoreboard.lean ====
section
/-! DEFINITION. The register scoreboard: the registers an instruction reads or writes, and the hold on those whose producer has not yet written (R49). -/

namespace Sys2Proof.Machine

/-! ### Registers of the operand kinds -/

/-- `n` vector registers from one. -/
def vUses (x : Fin 256) (n : Nat) : List Reg := (List.range n).map fun i => .v (x.val + i)
def sUses (x : Fin 64) : List Reg := [.s x.val]
def lgUses (g : LaneGuard) : List Reg := [.p g.p.val]
def tgUses (g : TeamGuard) : List Reg :=
  match g.q with
  | some q => [.q q.val]
  | none => []
def vsrcUses (n : Nat) : VSrc → List Reg
  | .reg v => vUses v n
  | .bcast s => sUses s
  | .imm _ => []
def vsrc16Uses (n : Nat) : VSrc16 → List Reg
  | .reg v => vUses v n
  | .bcast s => sUses s
  | .imm _ => []
def ssrcUses : SSrc → List Reg
  | .reg s => sUses s
  | .imm _ => []
def ssrc16Uses : SSrc16 → List Reg
  | .reg s => sUses s
  | .imm _ => []
def predUses : PredReg → List Reg
  | .p i => [.p i.val]
  | .q i => [.q i.val]
def tintUses : TintReg → List Reg
  | .v i => vUses i 1
  | .s i => sUses i
  | .pred r => predUses r
def addrUses : AddrOp → List Reg
  | .base b => sUses b
  | .index b i _ => .s b.val :: vUses i 1
/-- The operand registers of an atomic: compare and new values of .cas. -/
def atomCUses (w : Width) (op : AtomOp) (c : Fin 256) : List Reg :=
  vUses c (if op = .cas then 2 * w.regs else w.regs)

/-! ### Registers of the operand records -/

def sbinUses (o : SBinOps) : List Reg := tgUses o.g ++ sUses o.d ++ sUses o.a ++ ssrcUses o.b
def vunUses (o : VUnOps) : List Reg := lgUses o.g ++ vUses o.d o.ty.regs ++ vUses o.a o.ty.regs
def vbinUses (o : VBinOps) : List Reg := lgUses o.g ++ vUses o.d o.ty.regs ++ vUses o.a o.ty.regs ++ vsrcUses o.ty.regs o.b
def vtriUses (o : VTriOps) : List Reg :=
  lgUses o.g ++ vUses o.d o.ty.regs ++ vUses o.a o.ty.regs ++ vsrcUses o.ty.regs o.b ++ vsrcUses o.ty.regs o.c
def vbfUses (o : VBfOps) : List Reg :=
  lgUses o.g ++ vUses o.d 1 ++ vUses o.a 1 ++ match o.f with
    | .src b c => vsrcUses 1 b ++ vsrcUses 1 c
    | .imm _ _ => []
def vredUses (o : VRedOps) : List Reg := lgUses o.g ++ vUses o.d o.ty.regs ++ vUses o.a o.ty.regs
def pbinUses (o : PBinOps) : List Reg := lgUses o.g ++ predUses o.d ++ predUses o.a ++ predUses o.b
def punUses (o : PUnOps) : List Reg := lgUses o.g ++ predUses o.d ++ predUses o.a
def panyUses (o : PAnyOps) : List Reg := lgUses o.g ++ [.q o.d.val, .p o.a.val]
def fbinUses (o : FBinOps) : List Reg := lgUses o.g ++ vUses o.d 1 ++ vUses o.a 1 ++ vsrcUses 1 o.b
def ftriUses (o : FTriOps) : List Reg := lgUses o.g ++ vUses o.d 1 ++ vUses o.a 1 ++ vsrcUses 1 o.b ++ vsrcUses 1 o.c
def funUses (o : FUnOps) : List Reg := lgUses o.g ++ vUses o.d 1 ++ vUses o.a 1
def cvtUses (dn sn : Nat) (o : CvtOps) : List Reg := lgUses o.g ++ vUses o.d dn ++ vUses o.a sn
def loadUses (o : LoadOps) : List Reg := lgUses o.g ++ vUses o.d o.w.regs ++ addrUses o.addr
def storeUses (o : StoreOps) : List Reg := lgUses o.g ++ vUses o.c o.w.regs ++ addrUses o.addr
def atomUses (red : Bool) (o : AtomOps) : List Reg :=
  lgUses o.g ++ (if red then [] else vUses o.d o.w.regs) ++ addrUses o.addr ++ atomCUses o.w o.op o.c
def xatomUses (nr : Bool) (o : XatomOps) : List Reg :=
  lgUses o.g ++ (if nr then [] else vUses o.d o.w.regs) ++ addrUses o.addr ++ atomCUses o.w o.op o.c
/-- A register fragment (R188). -/
def fragUses (f : Fmt) (s : Shape) (lanes : Nat) (v : Fin 256) : List Reg := vUses v (fragWords f s / lanes)
def mmaUses (lanes : Nat) (o : MmaOps) : List Reg :=
  tgUses o.g ++ sUses o.b ++ match o.a with
    | .frag v => fragUses o.fa o.shape lanes v
    | .handle a c => sUses a ++ sUses c
/-- A tile window (R200). -/
def windowUses (e : Env) (f : Fmt) (span : Byte) (v : Fin 256) : List Reg := vUses v (rawRegs f * e.span span)
def optS (present : Bool) (x : Fin 64) : List Reg := if present then sUses x else []
def cpytUses (o : CpytOps) : List Reg :=
  tgUses o.g ++ [.s o.d.val, .s o.a.val, .s (o.a.val + 1), .s (o.a.val + 2)] ++ optS o.bar.isSome o.b ++ optS o.map o.c

/-- The registers that an instruction of a team reads or writes (R49). -/
def usesOf (e : Env) : Instr → List Reg
  | .nop g | .join g | .exit g | .rte g | .park g | .yield g => tgUses g
  | .bra o => tgUses o.g
  | .brq o => .q o.q.val :: tgUses o.g
  | .brd o => .p o.p.val :: lgUses o.g
  | .loop o | .call o | .slda o => tgUses o.g ++ sUses o.s
  | .ret o => tgUses o.g ++ sUses o.s
  | .bkpt o | .trap o | .trapKill o => tgUses o.g
  | .smov o => tgUses o.g ++ sUses o.d ++ sUses o.a
  | .smovi o => tgUses o.g ++ sUses o.d
  | .sadd o | .ssub o | .smul o | .smulh o | .sand o | .sor o | .sxor o | .sshl o | .sshr o | .ssar o | .smin o
  | .smax o => sbinUses o
  | .scmp o => tgUses o.g ++ [.q o.d.val] ++ sUses o.a ++ ssrc16Uses o.b
  | .ssel o => tgUses o.g ++ [.q o.c.val] ++ sUses o.d ++ sUses o.a ++ sUses o.b
  | .vmov o | .vabs o | .vneg o | .vnot o | .vclz o | .vpopc o => vunUses o
  | .vmovi o => lgUses o.g ++ vUses o.d o.ty.regs
  | .vbcst o => lgUses o.g ++ vUses o.d o.ty.regs ++ sUses o.a
  | .vadd o | .vsub o | .vadds o | .vsubs o | .vmul o | .vmulh o | .vmin o | .vmax o | .vand o | .vor o | .vxor o
  | .vshl o | .vshr o | .vsar o => vbinUses o
  | .vmad o | .vperm o => vtriUses o
  | .vbfe o | .vbfi o => vbfUses o
  | .vsel o => lgUses o.g ++ [.p o.c.val] ++ vUses o.d o.ty.regs ++ vUses o.a o.ty.regs ++ vsrc16Uses o.ty.regs o.b
  | .vcmp o => lgUses o.g ++ [.p o.d.val] ++ vUses o.a o.ty.regs ++ vsrc16Uses o.ty.regs o.b
  | .vlea o => lgUses o.g ++ vUses o.d 1 ++ sUses o.a ++ vsrcUses 1 o.b
  | .vshf o => lgUses o.g ++ vUses o.d o.ty.regs ++ vUses o.a o.ty.regs ++ match o.f with
    | .idx b => vsrcUses 1 b
    | _ => []
  | .vred o | .vscan o => vredUses o
  | .vbal o => lgUses o.g ++ vUses o.d 1 ++ [.p o.p.val]
  | .pand o | .por o | .pxor o => pbinUses o
  | .pnot o | .pmov o => punUses o
  | .pany o | .pall o => panyUses o
  | .fadd o | .fsub o | .fmul o | .fmin o | .fmax o | .hadd2 o | .hmul2 o => fbinUses o
  | .ffma o | .hfma2 o | .fdot2 o => ftriUses o
  | .fabs o | .fneg o | .fclass o | .frnd o | .frcp o | .frsq o | .fsqrt o | .fexp2 o | .flog2 o | .fsinpi o
  | .fcospi o | .ftanh o | .fsigm o => funUses o
  | .fcmp o => lgUses o.g ++ [.p o.d.val] ++ vUses o.a 1 ++ vsrcUses 1 o.b
  | .cvt o => cvtUses (cvtRegs o.dt) (cvtRegs o.st) o
  | .pack o => cvtUses 1 (perLane o.dt) o
  | .unpk o => cvtUses (perLane o.st) 1 o
  | .quant o | .deq o => cvtUses 1 1 o
  | .ld o | .gath o => loadUses o
  | .st o | .scat o => storeUses o
  | .atom o => atomUses false o
  | .red o => atomUses true o
  | .fix o | .gdrop o => lgUses o.g ++ tintUses o.d
  | .gtest o => lgUses o.g ++ predUses o.d ++ tintUses o.a
  | .gdemShort o => lgUses o.g ++ vUses o.d 1
  | .gdemAddress o => lgUses o.g ++ vUses o.d o.w.regs ++ addrUses o.addr
  | .tmov o => tgUses o.g ++ sUses o.d ++ sUses o.a ++ sUses o.b ++ optS o.bar.isSome o.c
  | .pref o => lgUses o.g ++ addrUses o.addr
  | .mzero o => tgUses o.g
  | .mma o | .mmag o => mmaUses e.lanes o
  | .mtrn o => tgUses o.g ++ fragUses .i8 o.shape e.lanes o.a ++ sUses o.b
  | .mtrnDlt o => tgUses o.g ++ fragUses .i8 o.shape e.lanes o.a ++ sUses o.b ++ sUses o.c
  | .mldw o => tgUses o.g ++ sUses o.a ++ sUses o.b
  | .mldwSave o | .mldwRaw o => tgUses o.g ++ sUses o.a ++ sUses o.b ++ sUses o.c
  | .mrda o => tgUses o.g ++ windowUses e o.fmt o.span o.d ++ sUses o.b
  | .mrdaStatus o => tgUses o.g ++ vUses o.d 1 ++ sUses o.b
  | .mwra o => tgUses o.g ++ windowUses e o.fmt o.span o.a ++ sUses o.b
  | .mgang o => tgUses o.g
  | .binit o => tgUses o.g ++ sUses o.a ++ match o.n with
    | .reg s => sUses s
    | .imm _ => []
  | .binv o => tgUses o.g ++ sUses o.a
  | .barv o => tgUses o.g ++ sUses o.d ++ sUses o.a
  | .bexp o => tgUses o.g ++ sUses o.a ++ sUses o.b
  | .bwait o => tgUses o.g ++ sUses o.a ++ sUses o.b ++ match o.d with
    | some q => [.q q.val]
    | none => []
  | .btest o => tgUses o.g ++ [.q o.d.val] ++ sUses o.a ++ sUses o.b
  | .bbind o => tgUses o.g ++ sUses o.a ++ sUses o.b ++ sUses o.c
  | .cpy o => tgUses o.g ++ sUses o.d ++ sUses o.a ++ sUses o.b ++ optS o.bar.isSome o.c
  | .cpytLd o | .cpytSt o => cpytUses o
  | .chtest o => tgUses o.g ++ [.q o.d.val] ++ sUses o.a ++ sUses o.b
  | .chwp o => tgUses o.g ++ sUses o.d ++ sUses o.a
  | .tlsig o => tgUses o.g ++ sUses o.a ++ sUses o.b
  | .tlrd o => tgUses o.g ++ sUses o.d ++ sUses o.a
  | .fence o => tgUses o.g
  | .creg o | .cdreg o => tgUses o.g ++ [.q o.d.val] ++ sUses o.a
  | .comb o => lgUses o.g ++ [.p o.status.val] ++ vUses o.d 2 ++ addrUses o.addr ++ vUses o.c 2
  | .crep o => tgUses o.g ++ vUses o.a 2
  | .xsend o => tgUses o.g ++ sUses o.d ++ sUses o.a ++ sUses o.b ++ optS o.bar o.c
  | .xfetch o => lgUses o.g ++ vUses o.d o.w.regs ++ addrUses o.addr
  | .xatom o => xatomUses false o
  | .xatomNr o => xatomUses true o
  | .xsig o => tgUses o.g ++ sUses o.a ++ sUses o.b
  | .srd o => tgUses o.g ++ match o.d with
    | .s i => sUses i
    | .v i => vUses i 1
  | .swr o => tgUses o.g ++ sUses o.a
  | .ipref o => tgUses o.g ++ sUses o.a ++ sUses o.b
  | .ipin o | .iunpin o => tgUses o.g ++ [.q o.d.val] ++ sUses o.a ++ sUses o.b
  | .launch o => tgUses o.g ++ sUses o.a
  | .enq o | .rsh o => tgUses o.g ++ sUses o.a ++ sUses o.b
  | _ => []

/-! ### What is pending -/

def vRun (d n : Nat) : List Reg := (List.range n).map fun i => .v (d + i)
/-- The registers that a queued matrix instruction will write. -/
def MatKind.writes : MatKind → List Reg
  | .rda fmt _ _ _ d _ _ nreg _ => vRun d (rawRegs fmt * nreg)
  | .status d _ => vRun d 1
  | _ => []
/-- The registers of a team whose producer has not yet written them; one whose value a park has redirected waits for none (R267, R413). -/
def State.pending (s : State) (t : Team) : List Reg :=
  (s.loads.flatMap fun ld =>
      if ld.team = t.id ∧ ld.written = false ∧ ld.redirected = false ∧ ld.kind ≠ .mat ∧ ld.kind ≠ .pref then vRun ld.d ld.regs else [])
    ++ (s.combs.flatMap fun c => if c.team = t.id ∧ c.redirected = false then
        vRun c.d 2 ++ (if c.status = 0 then [] else [.p c.status]) else [])
    ++ (t.sf.map fun r => .v r.d)
    ++ (s.mats.flatMap fun j => if j.team = t.id then j.kind.writes else [])
    ++ t.heldRegs
/-- The scoreboard holds an instruction of the team in focus (R49). -/
def State.heldBack (s : State) (e : Env) (i : Instr) : Bool :=
  let ps := s.pending s.cur
  !ps.isEmpty && (usesOf e i).any fun r => ps.contains r

end Sys2Proof.Machine
end

