-- ==== Sys2Proof/Machine/Flags.lean ====
section
/-! DEFINITION. Flag computations and the integer operations: results modulo the width, saturation, comparison (R40, R97, R99, R101). -/

namespace Sys2Proof

/-- The value of an operand under a type: two's complement under i, unsigned under n and b (R28). -/
def intVal (ty : IntTy) (x : Nat) : Int := if ty.signed then toSigned ty.bits x else (x : Int)

/-- The least and the greatest value of a type (R28). -/
def intMin (ty : IntTy) : Int := if ty.signed then -(2 ^ (ty.bits - 1) : Int) else 0
def intMax (ty : IntTy) : Int := if ty.signed then 2 ^ (ty.bits - 1) - 1 else 2 ^ ty.bits - 1

/-- An exact result reduced modulo the width (R97). -/
def aluAdd (ty : IntTy) (x y : Nat) : Nat := (x + y) % 2 ^ ty.bits
def aluSub (ty : IntTy) (x y : Nat) : Nat := (x + 2 ^ ty.bits - y) % 2 ^ ty.bits
def aluMul (ty : IntTy) (x y : Nat) : Nat := (x * y) % 2 ^ ty.bits
/-- The high half of the exact product (R100). -/
def aluMulh (ty : IntTy) (x y : Nat) : Nat := wrapTo ty.bits (intVal ty x * intVal ty y / 2 ^ ty.bits)
def aluAnd (_ : IntTy) (x y : Nat) : Nat := x &&& y
def aluOr (_ : IntTy) (x y : Nat) : Nat := x ||| y
def aluXor (_ : IntTy) (x y : Nat) : Nat := x ^^^ y
def aluNot (ty : IntTy) (x : Nat) : Nat := 2 ^ ty.bits - 1 - x % 2 ^ ty.bits
/-- Shifts by any amount (R99). -/
def aluShl (ty : IntTy) (x y : Nat) : Nat := if ty.bits ≤ y then 0 else x * 2 ^ y % 2 ^ ty.bits
def aluShr (ty : IntTy) (x y : Nat) : Nat := if ty.bits ≤ y then 0 else x / 2 ^ y
def aluSar (ty : IntTy) (x y : Nat) : Nat := wrapTo ty.bits (toSigned ty.bits x / 2 ^ min y ty.bits)
/-- The lesser and the greater by the type's order (R99). -/
def aluMin (ty : IntTy) (x y : Nat) : Nat := if intVal ty y < intVal ty x then y else x
def aluMax (ty : IntTy) (x y : Nat) : Nat := if intVal ty x < intVal ty y then y else x

/-- A condition on two values of a type (R101). -/
def Cond.holds (c : Cond) (ty : IntTy) (x y : Nat) : Bool :=
  let a := intVal ty x
  let b := intVal ty y
  match c with
  | .eq => decide (a = b)
  | .ne => decide (a ≠ b)
  | .lt => decide (a < b)
  | .le => decide (a ≤ b)
  | .gt => decide (b < a)
  | .ge => decide (b ≤ a)

/-- An exact result clamped to a type, with the SAT flag where it clamps (R40, R103). -/
def satInt (ty : IntTy) (x : Int) : Nat × NFlags :=
  if x < intMin ty then (wrapTo ty.bits (intMin ty), NFlags.sat)
  else if intMax ty < x then (wrapTo ty.bits (intMax ty), NFlags.sat)
  else (wrapTo ty.bits x, 0)
def aluAdds (ty : IntTy) (x y : Nat) : Nat × NFlags := satInt ty (intVal ty x + intVal ty y)
def aluSubs (ty : IntTy) (x y : Nat) : Nat × NFlags := satInt ty (intVal ty x - intVal ty y)

/-- The flags of every active lane together (R40). -/
def Machine.Team.laneFlags (t : Machine.Team) (g : LaneGuard) (f : Nat → NFlags) : NFlags :=
  (t.activeLanes g).foldl (fun a L => a ||| f L) 0

end Sys2Proof
end

