-- ==== Sys2Proof/Machine/FloatOps.lean ====
section
/-! DEFINITION. Floating-point arithmetic, comparison and the packed operations (R115-R125). -/

namespace Sys2Proof

def nvIf (b : Bool) : NFlags := if b then NFlags.nv else 0

/-- x + y rounded once (R119). -/
def fpAdd (f : FF) (rm : Rm) (ftz : Bool) (x y : Num) : Nat × NFlags :=
  let l := [x, y]
  let r := f.round rm ftz (Num.sum (rm == .rd) l)
  (r.1, r.2 ||| nvIf (Num.sumNew l))
/-- x × y rounded once (R119). -/
def fpMul (f : FF) (rm : Rm) (ftz : Bool) (x y : Num) : Nat × NFlags :=
  let r := f.round rm ftz (x.mul y)
  (r.1, r.2 ||| nvIf (Num.mulNew x y))
/-- A sum of products and a last term, rounded once (R119, R125). Beside a NaN among the terms a 0 × ∞ product sets NV, and infinite terms of both signs do not (DESIGN CHOICE, log 61). -/
def fpFma (f : FF) (rm : Rm) (ftz : Bool) (ps : List (Num × Num)) (z : Num) : Nat × NFlags :=
  let l := ps.map (fun p => p.1.mul p.2) ++ [z]
  let r := f.round rm ftz (Num.sum (rm == .rd) l)
  (r.1, r.2 ||| nvIf (Num.sumNew l || ps.any fun p => Num.mulNew p.1 p.2))

/-- A pattern with a subnormal flushed under the flag (R34). -/
def FF.flush (f : FF) (ftz : Bool) (x : Nat) : Nat :=
  if ftz && f.isSub x then x / f.signBit % 2 * f.signBit else x
/-- FMIN and FMAX (R120). -/
def fpMinMax (f : FF) (ftz mx : Bool) (x y : Nat) : Nat :=
  let a := f.flush ftz x
  let b := f.flush ftz y
  match f.dec a, f.dec b with
  | .nan, .nan => f.nanCode
  | .nan, _ => b
  | _, .nan => a
  | u, v => match Num.cmp u v with
    | .lt => if mx then b else a
    | .gt => if mx then a else b
    | .eq => if u.neg != mx then a else b

/-- A condition of FCMP (R121). -/
def FCond.holds (c : FCond) (x y : Num) : Bool :=
  let un := x.isNan || y.isNan
  match c with
  | .num => !un
  | .nan => un
  | .rel c u =>
    if un then u
    else match c, Num.cmp x y with
      | .eq, o => o == .eq
      | .ne, o => o != .eq
      | .lt, o => o == .lt
      | .le, o => o != .gt
      | .gt, o => o == .gt
      | .ge, o => o != .lt

/-- The class word of FCLASS (R122). -/
def fpClass (f : FF) (x : Nat) : Nat :=
  match f.dec x with
  | .nan => 2 ^ 8
  | .inf s => if s then 1 else 2 ^ 7
  | .fin s m _ =>
    if m = 0 then (if s then 2 ^ 3 else 2 ^ 4)
    else if f.isSub x then (if s then 2 ^ 2 else 2 ^ 5)
    else if s then 2 else 2 ^ 6

/-- FRND: to an integral value, no flag (R123). -/
def fpRound (f : FF) (rm : Rm) (ftz : Bool) (x : Nat) : Nat :=
  match f.read ftz x with
  | .nan => f.nanCode
  | .inf s => f.pat s f.infCode
  | .fin s m e => if 0 ≤ e then f.flush ftz x else (f.round .rn false (.fin s (roundInt rm s m e) 0)).1

end Sys2Proof

namespace Sys2Proof.Machine

/-- A floating operand as a pattern of its type (R116). -/
def Team.fval (t : Team) (ty : FloatTy) (r L : Nat) : Val :=
  let c := t.vreg r L
  (c.val.toNat % 2 ^ ty.ff.bits, c.tint)
def Team.fsrc (t : Team) (ty : FloatTy) (b : VSrc) (L : Nat) : Val :=
  match b with
  | .reg v => t.fval ty v.val L
  | .bcast s =>
    let x := t.sread 32 s.val
    (x.1 % 2 ^ ty.ff.bits, x.2)
  | .imm x => ((immExact ty x).getD 0, false)
/-- Half `h` of a packed pair (R27). -/
def half (ty : FloatTy) (x h : Nat) : Nat := bitsAt x (16 * h) ty.ff.bits
def Team.psrc (t : Team) (b : VSrc) (L : Nat) : Val := t.vsrc .b32 b L

/-- Results with their flags, lane by lane: registers written and $nstat updated for the active lanes (R118). -/
def State.fwrite (s : State) (g : LaneGuard) (d : Nat) (f : Nat → Nat × NFlags) (tint : Nat → Bool) : State :=
  (s.writeV g d fun L => { val := BitVec.ofNat 32 (f L).1, tint := tint L }).addFlags
    (s.cur.laneFlags g fun L => (f L).2)

/-- A two-source instruction on numbers (R119). -/
def State.fbin (s : State) (o : FBinOps) (f : FF → Rm → Bool → Num → Num → Nat × NFlags) : State :=
  let t := s.cur
  let rd := fun x : Nat => o.ty.ff.read t.ftz x
  s.fwrite o.g o.d.val
    (fun L => f o.ty.ff o.rm t.ftz (rd (t.fval o.ty o.a.val L).1) (rd (t.fsrc o.ty o.b L).1))
    (fun L => (t.fval o.ty o.a.val L).2 || (t.fsrc o.ty o.b L).2)
/-- A two-source instruction on patterns (R120). -/
def State.fpick (s : State) (o : FBinOps) (f : Nat → Nat → Nat) : State :=
  let t := s.cur
  s.fwrite o.g o.d.val
    (fun L => (f (t.fval o.ty o.a.val L).1 (t.fsrc o.ty o.b L).1, 0))
    (fun L => (t.fval o.ty o.a.val L).2 || (t.fsrc o.ty o.b L).2)
/-- A one-source instruction on patterns. -/
def State.fun1 (s : State) (o : FUnOps) (f : Nat → Nat) : State :=
  let t := s.cur
  s.fwrite o.g o.d.val (fun L => (f (t.fval o.ty o.a.val L).1, 0)) (fun L => (t.fval o.ty o.a.val L).2)

def execFadd (o : FBinOps) (s : State) : Host.Outcome State Fault Refusal := finish (.next (s.fbin o fpAdd))
def execFsub (o : FBinOps) (s : State) : Host.Outcome State Fault Refusal :=
  finish (.next (s.fbin o fun f rm z x y => fpAdd f rm z x y.negate))
def execFmul (o : FBinOps) (s : State) : Host.Outcome State Fault Refusal := finish (.next (s.fbin o fpMul))

/-- FFMA (R119). -/
def execFfma (o : FTriOps) (s : State) : Host.Outcome State Fault Refusal :=
  let t := s.cur
  let rd := fun x : Nat => o.ty.ff.read t.ftz x
  finish (.next (s.fwrite o.g o.d.val
    (fun L => fpFma o.ty.ff o.rm t.ftz
      [(rd (t.fval o.ty o.a.val L).1, rd (t.fsrc o.ty o.b L).1)] (rd (t.fsrc o.ty o.c L).1))
    (fun L => (t.fval o.ty o.a.val L).2 || (t.fsrc o.ty o.b L).2 || (t.fsrc o.ty o.c L).2)))

def execFmin (o : FBinOps) (s : State) : Host.Outcome State Fault Refusal :=
  finish (.next (s.fpick o (fpMinMax o.ty.ff s.cur.ftz false)))
def execFmax (o : FBinOps) (s : State) : Host.Outcome State Fault Refusal :=
  finish (.next (s.fpick o (fpMinMax o.ty.ff s.cur.ftz true)))

/-- A pattern with its sign replaced; a NaN becomes canonical and a subnormal is flushed first (R119). -/
def fpSign (f : FF) (ftz : Bool) (g : Bool → Bool) (x : Nat) : Nat :=
  if (f.dec x).isNan then f.nanCode
  else
    let y := f.flush ftz x
    f.pat (g (y.testBit (f.eb + f.fb))) (y % f.signBit)
def execFabs (o : FUnOps) (s : State) : Host.Outcome State Fault Refusal :=
  finish (.next (s.fun1 o (fpSign o.ty.ff s.cur.ftz fun _ => false)))
def execFneg (o : FUnOps) (s : State) : Host.Outcome State Fault Refusal :=
  finish (.next (s.fun1 o (fpSign o.ty.ff s.cur.ftz fun b => !b)))

/-- FCMP (R121). -/
def execFcmp (o : FCmpOps) (s : State) : Host.Outcome State Fault Refusal :=
  let t := s.cur
  finish (.next (s.writeP o.g o.d.val fun L =>
    let x := t.fval o.ty o.a.val L
    let y := t.fsrc o.ty o.b L
    { val := o.c.holds (o.ty.ff.read t.ftz x.1) (o.ty.ff.read t.ftz y.1), tint := x.2 || y.2 }))

def execFclass (o : FUnOps) (s : State) : Host.Outcome State Fault Refusal :=
  finish (.next (s.fun1 o (fpClass o.ty.ff)))
def execFrnd (o : FUnOps) (s : State) : Host.Outcome State Fault Refusal :=
  finish (.next (s.fun1 o (fpRound o.ty.ff o.rm s.cur.ftz)))

/-! ### Packed pairs (R124, R125) -/

/-- Two results packed into a lane, their flags together. -/
def pack2 (r : Nat → Nat × NFlags) : Nat × NFlags :=
  ((r 0).1 + 2 ^ 16 * (r 1).1, (r 0).2 ||| (r 1).2)
/-- A packed two-source instruction. -/
def State.hbin (s : State) (o : FBinOps) (f : FF → Rm → Bool → Num → Num → Nat × NFlags) : State :=
  let t := s.cur
  s.fwrite o.g o.d.val
    (fun L => pack2 fun h =>
      f o.ty.ff o.rm t.ftz (o.ty.ff.read t.ftz (half o.ty (t.vval 1 o.a.val L).1 h))
        (o.ty.ff.read t.ftz (half o.ty (t.psrc o.b L).1 h)))
    (fun L => (t.vval 1 o.a.val L).2 || (t.psrc o.b L).2)
def execHadd2 (o : FBinOps) (s : State) : Host.Outcome State Fault Refusal := finish (.next (s.hbin o fpAdd))
def execHmul2 (o : FBinOps) (s : State) : Host.Outcome State Fault Refusal := finish (.next (s.hbin o fpMul))
/-- HFMA2 (R124). -/
def execHfma2 (o : FTriOps) (s : State) : Host.Outcome State Fault Refusal :=
  let t := s.cur
  finish (.next (s.fwrite o.g o.d.val
    (fun L => pack2 fun h =>
      let rd := fun x : Nat => o.ty.ff.read t.ftz (half o.ty x h)
      fpFma o.ty.ff o.rm t.ftz [(rd (t.vval 1 o.a.val L).1, rd (t.psrc o.b L).1)] (rd (t.psrc o.c L).1))
    (fun L => (t.vval 1 o.a.val L).2 || (t.psrc o.b L).2 || (t.psrc o.c L).2)))
/-- FDOT2 (R125). -/
def execFdot2 (o : FTriOps) (s : State) : Host.Outcome State Fault Refusal :=
  let t := s.cur
  finish (.next (s.fwrite o.g o.d.val
    (fun L =>
      let rd := fun x h : Nat => o.ty.ff.read t.ftz (half o.ty x h)
      let a := (t.vval 1 o.a.val L).1
      let b := (t.psrc o.b L).1
      fpFma .f32 o.rm t.ftz [(rd a 0, rd b 0), (rd a 1, rd b 1)] (FF.f32.read t.ftz (t.psrc o.c L).1))
    (fun L => (t.vval 1 o.a.val L).2 || (t.psrc o.b L).2 || (t.psrc o.c L).2)))

end Sys2Proof.Machine
end

