-- ==== Sys2Proof/Machine/Special.lean ====
section
/-! DEFINITION. The special functions (R126, R127): exact results and special values as the tables give them, and otherwise a result within the stated bound that the model leaves free. -/

namespace Sys2Proof

/-! ### Fixed-point arithmetic with 220 fraction bits -/

def fxP : Nat := 220
def fxOne : Nat := 2 ^ fxP
def fxMul (x y : Nat) : Nat := x * y / fxOne
def fxDiv (x y : Nat) : Nat := x * fxOne / y

/-- The sum of u^(2k+1)/(2k+1), from a power and an index. -/
def fxAtanhFrom (u2 : Nat) : Nat → Nat → Nat → Nat
  | 0, _, _ => 0
  | n + 1, p, k => p / (2 * k + 1) + fxAtanhFrom u2 n (fxMul p u2) (k + 1)
/-- The inverse hyperbolic tangent of a value up to 1/3. -/
def fxAtanh (u : Nat) : Nat := fxAtanhFrom (fxMul u u) 75 u 0
def fxLn2 : Nat := 2 * fxAtanh (fxOne / 3)
/-- The sum of x^k/k!, from a term and an index. -/
def fxExpFrom (x : Nat) : Nat → Nat → Nat → Nat
  | 0, _, _ => 0
  | n + 1, p, k => p + fxExpFrom x n (fxMul p x / (k + 1)) (k + 1)
/-- 2^t for a signed fixed-point exponent. -/
def fxExp2 (t : Int) : Nat :=
  let n := t / (fxOne : Int)
  let f := (t - n * fxOne).toNat
  let m := fxExpFrom (fxMul f fxLn2) 65 fxOne 0
  if 0 ≤ n then m * 2 ^ n.toNat else m / 2 ^ (-n).toNat
/-- e^(-a). -/
def fxExpNeg (a : Nat) : Nat := fxExp2 (-(fxDiv a fxLn2 : Int))
/-- log2 of m × 2^e. -/
def fxLog2 (m : Nat) (e : Int) : Int :=
  let k := Nat.log2 m
  let z := m * fxOne / 2 ^ k
  ((k : Int) + e) * fxOne + fxDiv (2 * fxAtanh (fxDiv (z - fxOne) (z + fxOne))) fxLn2
/-- The alternating sum of u^(2k+1)/(2k+1). -/
def fxAtanFrom (u2 : Nat) : Nat → Nat → Nat → Int
  | 0, _, _ => 0
  | n + 1, p, k => (p / (2 * k + 1) : Nat) - fxAtanFrom u2 n (fxMul p u2) (k + 1)
def fxAtan (u : Nat) : Int := fxAtanFrom (fxMul u u) 110 u 0
/-- π by Machin's formula. -/
def fxPi : Nat := (16 * fxAtan (fxOne / 5) - 4 * fxAtan (fxOne / 239)).toNat
def fxSinFrom (x2 : Nat) : Nat → Nat → Nat → Int
  | 0, _, _ => 0
  | n + 1, p, k => (p : Int) - fxSinFrom x2 n (fxMul p x2 / ((2 * k + 2) * (2 * k + 3))) (k + 1)
/-- sin(πr) for a fixed-point r below 2. -/
def fxSinPi (r : Nat) : Int :=
  let h := r % fxOne
  let q := if fxOne / 2 < h then fxOne - h else h
  let x := fxMul q fxPi
  let v := fxSinFrom (fxMul x x) 40 x 0
  if fxOne ≤ r then -v else v
/-- A magnitude as fixed point, modulo 2. -/
def fxMod2 (m : Nat) (e : Int) : Nat :=
  let k := e + fxP
  if (fxP : Int) + 1 ≤ k then 0 else m * 2 ^ k.toNat % (2 * fxOne)
def fxOf (m : Nat) (e : Int) : Nat := if 0 ≤ e + fxP then m * 2 ^ (e + fxP).toNat else m / 2 ^ (-(e + fxP)).toNat

/-! ### The functions -/

/-- What a function gives for an operand: a fixed result with its flags, or a real value known to 2^-200 and the bound that applies, as an absolute distance. -/
inductive SfOut where
  | known (x : Num) (f : NFlags)
  | real (y : Int) (tol : Nat)
  deriving DecidableEq, Repr

/-- ulp(y) of an f32 as fixed point (R126). -/
def sfUlp (y : Int) : Nat :=
  let l := (Nat.log2 y.natAbs : Int) - fxP
  let l := if l < -126 then -126 else l
  2 ^ (l - 23 + fxP).toNat
/-- `n` ulp (R127). -/
def sfUlps (n : Nat) (y : Int) : SfOut := .real y (n * sfUlp y)
/-- `n` ulp for results of 2^-126 or more, and an absolute 2^-k below. -/
def sfUlpsOr (n k : Nat) (y : Int) : SfOut :=
  if 2 ^ (fxP - 126) ≤ y.natAbs then sfUlps n y else .real y (2 ^ (fxP - k))

def sfNv : SfOut := .known .nan NFlags.nv
def sfIs (x : Num) : SfOut := .known x 0
def sfOne (s : Bool) : Num := .fin s 1 0
def isPow2 (m : Nat) : Bool := m == 2 ^ Nat.log2 m
/-- A magnitude m × 2^e is at most 2^k. -/
def leP (m : Nat) (e k : Int) : Bool := Num.cmp (.fin false m e) (.fin false 1 k) != .gt
/-- A sine below 1, as a fixed-point value below 1 too: its ulp is that of the binade below 1 (R126). -/
def belowOne (y : Int) : Int := max (1 - (fxOne : Int)) (min ((fxOne : Int) - 1) y)
/-- A magnitude compared with an integer. -/
def geN (m : Nat) (e : Int) (n : Nat) : Bool := Num.cmp (.fin false m e) (.fin false n 0) != .lt

/-- The functions on f32 values (R127); the number is the major opcode. FRCP of ±2^-128, whose exact result f32 cannot represent, gives the infinity and OV as the values below it do (DESIGN CHOICE, log 56). A sigmoid too small for the fixed point still lies above 0. -/
def sfEval (op : Nat) (x : Num) : SfOut :=
  match x with
  | .nan => .known .nan 0
  | .inf s => match op with
    | 0x60 => sfIs (.fin s 0 0)
    | 0x61 => if s then sfNv else sfIs .zero
    | 0x62 => if s then sfNv else sfIs (.inf false)
    | 0x63 => if s then sfIs .zero else sfIs (.inf false)
    | 0x64 => if s then sfNv else sfIs (.inf false)
    | 0x65 => sfNv
    | 0x66 => sfNv
    | 0x67 => sfIs (sfOne s)
    | _ => if s then sfIs .zero else sfIs (sfOne false)
  | .fin s m e =>
    if m = 0 then match op with
      | 0x60 => sfIs (.inf s)
      | 0x61 => sfIs (.inf s)
      | 0x62 => sfIs (.fin s 0 0)
      | 0x63 => sfIs (sfOne false)
      | 0x64 => sfIs (.inf true)
      | 0x65 => sfIs (.fin s 0 0)
      | 0x66 => sfIs (sfOne false)
      | 0x67 => sfIs (.fin s 0 0)
      | _ => sfIs (.fin false 1 (-1))
    else
      let k := (Nat.log2 m : Int) + e
      let sg := fun v : Nat => if s then -(v : Int) else (v : Int)
      match op with
      | 0x60 =>
        if k < -128 then .known (.inf s) NFlags.ov
        else if isPow2 m then (if k = -128 then .known (.inf s) NFlags.ov else sfIs (.fin s 1 (-k)))
        else sfUlps 1 (sg (2 ^ ((fxP : Int) - e).toNat / m))
      | 0x61 =>
        if s then sfNv
        else if isPow2 m && k % 2 == 0 then sfIs (.fin false 1 (-k / 2))
        else sfUlps 1 (Nat.sqrt (2 ^ (2 * (fxP : Int) - e).toNat / m) : Nat)
      | 0x62 =>
        if s then sfNv
        else
          let e2 := if e % 2 = 0 then e - 200 else e - 201
          let q := m * 2 ^ (e - e2).toNat
          let r := Nat.sqrt q
          sfIs (.fin false (2 * r + (if r * r = q then 0 else 1)) (e2 / 2 - 1))
      | 0x63 =>
        let t := sg (fxOf m e)
        if (128 * fxOne : Int) ≤ t then .known (.inf false) NFlags.ov
        else if t ≤ -(150 * fxOne : Int) then sfIs .zero
        else if t % (fxOne : Int) = 0 then sfIs (.fin false 1 (t / (fxOne : Int)))
        else sfUlpsOr 2 149 (fxExp2 t : Nat)
      | 0x64 =>
        if s then sfNv
        else if isPow2 m then sfIs (.ofInt false k 0)
        else
          let y := fxLog2 m e
          if -1 ≤ k && decide (k ≤ 0) then .real y (2 ^ (fxP - 22)) else sfUlps 2 y
      | 0x65 =>
        let r := fxMod2 m e
        if r % (fxOne / 2) = 0 then
          (if r % fxOne = 0 then sfIs (.fin s 0 0) else sfIs (sfOne (s != decide (fxOne ≤ r))))
        else
          let v := fxSinPi r
          sfUlps 2 (belowOne (if s then -v else v))
      | 0x66 =>
        let r := fxMod2 m e
        if r % (fxOne / 2) = 0 then
          (if r % fxOne = 0 then sfIs (sfOne (r == fxOne)) else sfIs .zero)
        else sfUlps 2 (belowOne (fxSinPi ((r + fxOne / 2) % (2 * fxOne))))
      | 0x67 =>
        if leP m e (-12) then sfIs (.fin s m e)
        else if geN m e 10 then sfIs (sfOne s)
        else
          let w := fxExpNeg (2 * fxOf m e)
          sfUlps 2 (sg (fxDiv (fxOne - w) (fxOne + w)))
      | _ =>
        if !s && geN m e 18 then sfIs (sfOne false)
        else if s && geN m e 160 then .real 1 (2 ^ (fxP - 148))
        else
          let w := fxExpNeg (fxOf m e)
          sfUlpsOr 2 148 (max 1 (fxDiv (if s then w else fxOne) (fxOne + w)) : Nat)

/-- The distance of an f32 pattern from a real result lies within the bound. -/
def sfNear (y : Int) (tol : Nat) (x : Nat) : Bool :=
  match FF.f32.dec x with
  | .fin s m e =>
    let v : Int := if s then -(fxOf m e : Int) else fxOf m e
    decide ((v - y).natAbs ≤ tol)
  | _ => false

/-- The f32 result: where only a bound is stated, the free value of Config if it lies within it, and otherwise the nearest value (log 6). -/
def sfResult (op : Nat) (ftz : Bool) (x : Nat) : Nat × NFlags :=
  match sfEval op (FF.f32.read ftz x) with
  | .known v f =>
    let r := FF.f32.round .rn ftz v
    (r.1, r.2 ||| f)
  | .real y tol =>
    if ftz && decide (y.natAbs < 2 ^ (fxP - 126)) then (FF.f32.pat (decide (y < 0)) 0, 0)
    else
      let c := (Config.specialResult op (BitVec.ofNat 32 x)).toNat
      if sfNear y tol c then (c, 0) else FF.f32.round .rn false (.ofInt false y (-(fxP : Int)))

/-- The result in the instruction's type: widened, evaluated, rounded once (R126). -/
def sfTyped (op : Nat) (ty : FloatTy) (ftz : Bool) (x : Nat) : Nat × NFlags :=
  match ty with
  | .f32 => sfResult op ftz x
  | ty =>
    let w := (FF.f32.round .rn false (ty.ff.read ftz x)).1
    let y := sfResult op false w
    let r := ty.ff.round .rn ftz (FF.f32.dec y.1)
    (r.1, r.2 ||| y.2)

end Sys2Proof

namespace Sys2Proof.Machine

/-- A special function: the flags at once, the registers when its result arrives (R40, R48, R126). -/
def State.special (s : State) (o : FUnOps) (op : Nat) : State :=
  let t := s.cur
  let r := fun L => sfTyped op o.ty t.ftz (t.fval o.ty o.a.val L).1
  let lanes := t.laneList.filter fun L => t.mask.getLsbD L && ((t.lguard o.g L).val || (t.lguard o.g L).tint)
  let cell := fun L =>
    t.laneCell o.g L (t.vreg o.d.val L) { val := BitVec.ofNat 32 (r L).1, tint := (t.fval o.ty o.a.val L).2 }
  let res : SfResult := { key := s.nextKey, d := o.d.val, lanes := lanes.map fun L => (L, cell L), act := t.activeLanes o.g }
  (s.bump.modCur fun t => { t with sf := t.sf ++ [res] }).addFlags (t.laneFlags o.g fun L => (r L).2)

def execFrcp (o : FUnOps) (s : State) : Host.Outcome State Fault Refusal := finish (.next (s.special o 0x60))
def execFrsq (o : FUnOps) (s : State) : Host.Outcome State Fault Refusal := finish (.next (s.special o 0x61))
def execFsqrt (o : FUnOps) (s : State) : Host.Outcome State Fault Refusal := finish (.next (s.special o 0x62))
def execFexp2 (o : FUnOps) (s : State) : Host.Outcome State Fault Refusal := finish (.next (s.special o 0x63))
def execFlog2 (o : FUnOps) (s : State) : Host.Outcome State Fault Refusal := finish (.next (s.special o 0x64))
def execFsinpi (o : FUnOps) (s : State) : Host.Outcome State Fault Refusal := finish (.next (s.special o 0x65))
def execFcospi (o : FUnOps) (s : State) : Host.Outcome State Fault Refusal := finish (.next (s.special o 0x66))
def execFtanh (o : FUnOps) (s : State) : Host.Outcome State Fault Refusal := finish (.next (s.special o 0x67))
def execFsigm (o : FUnOps) (s : State) : Host.Outcome State Fault Refusal := finish (.next (s.special o 0x68))

/-- A team's cell `L` of register `r` written outright. -/
def Team.setV (t : Team) (r L : Nat) (c : VCell) : Team := { t with v := t.v.set VCell.zero (1024 * r + L) c }

/-- Result `k` of a team is written to its registers and leaves its class (R48). -/
def Team.sfWrite (t : Team) (k : Nat) : Team :=
  match t.sf.find? fun r => r.key == k with
  | none => t
  | some r => { (r.lanes.foldl (fun t p => t.setV r.d p.1 p.2) t) with sf := t.sf.filter fun r => r.key != k }
/-- A result is written, and the records of the lanes whose values it overwrites are abandoned as by every write (R141); a lane under a false tinted guard keeps its value, which is no overwriting (DESIGN CHOICE, log 87). -/
def State.sfDone (s : State) (id : TeamId) (k : Nat) : State :=
  match (s.team? id).bind fun t => t.sf.find? fun r => r.key == k with
  | none => s
  | some r => (s.abandonOf id r.d r.act).modTeam id fun t => t.sfWrite k
/-- SPECIAL_FUNCTION_RESULT (R48). -/
def execSpecialFunctionResult (id : TeamId) (k : Nat) (s : State) : Host.Outcome State Fault Refusal :=
  .next (s.sfDone id k)

end Sys2Proof.Machine
end

