-- ==== Sys2Proof/Machine/Vector.lean ====
section
/-! DEFINITION. The vector integer and bit instructions, lane exchange and the predicate instructions (R101, R103-R111). -/

namespace Sys2Proof.Machine

/-- A vector instruction of one source, lane by lane (R103). -/
def State.vun (s : State) (o : VUnOps) (f : IntTy → Nat → Nat) : State :=
  s.writeVal o.g o.ty.regs o.d.val fun L =>
    let x := s.cur.vval o.ty.regs o.a.val L
    (f o.ty x.1, x.2)

/-- A vector instruction of two sources, lane by lane (R103). -/
def State.vbin (s : State) (o : VBinOps) (f : IntTy → Nat → Nat → Nat) : State :=
  s.writeVal o.g o.ty.regs o.d.val fun L =>
    let x := s.cur.vval o.ty.regs o.a.val L
    let y := s.cur.vsrc o.ty o.b L
    (f o.ty x.1 y.1, x.2 || y.2)

/-- The same with flags of $nstat (R40). -/
def State.vbinF (s : State) (o : VBinOps) (f : IntTy → Nat → Nat → Nat × NFlags) : State :=
  (s.vbin o fun ty x y => (f ty x y).1).addFlags (s.cur.laneFlags o.g fun L =>
    (f o.ty (s.cur.vval o.ty.regs o.a.val L).1 (s.cur.vsrc o.ty o.b L).1).2)

def execVmov (o : VUnOps) (s : State) : Host.Outcome State Fault Refusal := finish (.next (s.vun o fun _ x => x))
def execVmovi (o : VImmOps) (s : State) : Host.Outcome State Fault Refusal :=
  finish (.next (s.writeVal o.g o.ty.regs o.d.val fun _ => (immAt o.ty 32 o.imm.toNat, false)))
def execVbcst (o : VBcstOps) (s : State) : Host.Outcome State Fault Refusal :=
  finish (.next (s.writeVal o.g o.ty.regs o.d.val fun _ => s.cur.sread o.ty.bits o.a.val))
def execVadd (o : VBinOps) (s : State) : Host.Outcome State Fault Refusal := finish (.next (s.vbin o aluAdd))
def execVsub (o : VBinOps) (s : State) : Host.Outcome State Fault Refusal := finish (.next (s.vbin o aluSub))
def execVadds (o : VBinOps) (s : State) : Host.Outcome State Fault Refusal := finish (.next (s.vbinF o aluAdds))
def execVsubs (o : VBinOps) (s : State) : Host.Outcome State Fault Refusal := finish (.next (s.vbinF o aluSubs))
def execVmul (o : VBinOps) (s : State) : Host.Outcome State Fault Refusal := finish (.next (s.vbin o aluMul))
def execVmulh (o : VBinOps) (s : State) : Host.Outcome State Fault Refusal := finish (.next (s.vbin o aluMulh))

/-- VMAD (R103). -/
def execVmad (o : VTriOps) (s : State) : Host.Outcome State Fault Refusal :=
  finish (.next (s.writeVal o.g o.ty.regs o.d.val fun L =>
    let x := s.cur.vval o.ty.regs o.a.val L
    let y := s.cur.vsrc o.ty o.b L
    let z := s.cur.vsrc o.ty o.c L
    ((x.1 * y.1 + z.1) % 2 ^ o.ty.bits, x.2 || y.2 || z.2)))

def execVabs (o : VUnOps) (s : State) : Host.Outcome State Fault Refusal :=
  finish (.next (s.vun o fun ty x => wrapTo ty.bits ((toSigned ty.bits x).natAbs : Int)))
def execVneg (o : VUnOps) (s : State) : Host.Outcome State Fault Refusal :=
  finish (.next (s.vun o fun ty x => wrapTo ty.bits (-(x : Int))))
def execVmin (o : VBinOps) (s : State) : Host.Outcome State Fault Refusal := finish (.next (s.vbin o aluMin))
def execVmax (o : VBinOps) (s : State) : Host.Outcome State Fault Refusal := finish (.next (s.vbin o aluMax))
def execVand (o : VBinOps) (s : State) : Host.Outcome State Fault Refusal := finish (.next (s.vbin o aluAnd))
def execVor (o : VBinOps) (s : State) : Host.Outcome State Fault Refusal := finish (.next (s.vbin o aluOr))
def execVxor (o : VBinOps) (s : State) : Host.Outcome State Fault Refusal := finish (.next (s.vbin o aluXor))
def execVnot (o : VUnOps) (s : State) : Host.Outcome State Fault Refusal := finish (.next (s.vun o aluNot))
def execVshl (o : VBinOps) (s : State) : Host.Outcome State Fault Refusal := finish (.next (s.vbin o aluShl))
def execVshr (o : VBinOps) (s : State) : Host.Outcome State Fault Refusal := finish (.next (s.vbin o aluShr))
def execVsar (o : VBinOps) (s : State) : Host.Outcome State Fault Refusal := finish (.next (s.vbin o aluSar))
def execVclz (o : VUnOps) (s : State) : Host.Outcome State Fault Refusal :=
  finish (.next (s.vun o fun ty x => ty.bits - bitLength x))
def execVpopc (o : VUnOps) (s : State) : Host.Outcome State Fault Refusal :=
  finish (.next (s.vun o fun ty x => (bitList ty.bits x).length))

/-- Position and length of a bit field in a lane, with their tint (R104). -/
def Team.field (t : Team) (o : VBfOps) (L : Nat) : Nat × Nat × Bool :=
  match o.f with
  | .imm p l => (p.val, min l.val (32 - p.val), false)
  | .src b c =>
    let y := t.vsrc o.ty b L
    let z := t.vsrc o.ty c L
    (y.1 % 32, min (min z.1 32) (32 - y.1 % 32), y.2 || z.2)

/-- VBFE (R104). -/
def execVbfe (o : VBfOps) (s : State) : Host.Outcome State Fault Refusal :=
  finish (.next (s.writeVal o.g 1 o.d.val fun L =>
    let x := s.cur.vval 1 o.a.val L
    let (pos, l, tint) := s.cur.field o L
    let f := bitsAt x.1 pos l
    (if o.ty.signed && l != 0 then wrapTo 32 (toSigned l f) else f, x.2 || tint)))
/-- VBFI; the destination is a source (R104). -/
def execVbfi (o : VBfOps) (s : State) : Host.Outcome State Fault Refusal :=
  finish (.next (s.writeVal o.g 1 o.d.val fun L =>
    let x := s.cur.vval 1 o.a.val L
    let d := s.cur.vval 1 o.d.val L
    let (pos, l, tint) := s.cur.field o L
    (d.1 % 2 ^ pos + bitsAt x.1 0 l * 2 ^ pos + d.1 / 2 ^ (pos + l) * 2 ^ (pos + l), x.2 || d.2 || tint)))

/-- Byte `k` of a permutation (R105). -/
def permByte (x y z k : Nat) : Nat :=
  let n := bitsAt z (4 * k) 4
  if n < 8 then bitsAt (x + 2 ^ 32 * y) (8 * n) 8 else 0
/-- VPERM (R105). -/
def execVperm (o : VTriOps) (s : State) : Host.Outcome State Fault Refusal :=
  finish (.next (s.writeVal o.g 1 o.d.val fun L =>
    let x := s.cur.vval 1 o.a.val L
    let y := s.cur.vsrc o.ty o.b L
    let z := s.cur.vsrc o.ty o.c L
    ((List.range 4).foldl (fun a k => a + permByte x.1 y.1 z.1 k * 2 ^ (8 * k)) 0, x.2 || y.2 || z.2)))

/-- VSEL (R103). -/
def execVsel (o : VSelOps) (s : State) : Host.Outcome State Fault Refusal :=
  finish (.next (s.writeVal o.g o.ty.regs o.d.val fun L =>
    let c := s.cur.preg o.c.val L
    let x := if c.val then s.cur.vval o.ty.regs o.a.val L else s.cur.vsrc16 o.ty o.b L
    (x.1, x.2 || c.tint)))

/-- VCMP (R101, R103). -/
def execVcmp (o : VCmpOps) (s : State) : Host.Outcome State Fault Refusal :=
  finish (.next (s.writeP o.g o.d.val fun L =>
    let x := s.cur.vval o.ty.regs o.a.val L
    let y := s.cur.vsrc16 o.ty o.b L
    { val := o.c.holds o.ty x.1 y.1, tint := x.2 || y.2 }))

/-- VLEA (R106). -/
def execVlea (o : VLeaOps) (s : State) : Host.Outcome State Fault Refusal :=
  finish (.next (s.writeVal o.g 1 o.d.val fun L =>
    let a := s.cur.sread 64 o.a.val
    let y := s.cur.vsrc .i32 o.b L
    ((a.1 + y.1 * 2 ^ o.k.val) % 2 ^ 32, a.2 || y.2)))

/-! ### Lane exchange -/

/-- The source lane of VSHF and the tint of its index (R107); the index is one 32-bit register under every type (DESIGN CHOICE, log 58). -/
def Team.shfLane (t : Team) (f : ShfForm) (L : Nat) : Nat × Bool :=
  let b := L % 32
  let base := L - b
  match f with
  | .idx v =>
    let i := t.vsrc .b32 v L
    (base + i.1 % 32, i.2)
  | .up n => (if n.val ≤ b then L - n.val else L, false)
  | .dn n => (if b + n.val ≤ 31 then L + n.val else L, false)
  | .bfly n => (base + (b ^^^ n.val), false)
/-- VSHF (R107). -/
def execVshf (o : VShfOps) (s : State) : Host.Outcome State Fault Refusal :=
  finish (.next (s.writeVal o.g o.ty.regs o.d.val fun L =>
    let i := s.cur.shfLane o.f L
    let x := s.cur.vval o.ty.regs o.a.val i.1
    (x.1, x.2 || i.2)))

/-- The operation of a reduction and its identity (R108). -/
def RedOp.fn : RedOp → IntTy → Nat → Nat → Nat
  | .add => aluAdd | .min => aluMin | .max => aluMax | .and => aluAnd | .or => aluOr | .xor => aluXor
def redUnit (op : RedOp) (ty : IntTy) : Nat :=
  match op with
  | .add | .or | .xor => 0
  | .and => 2 ^ ty.bits - 1
  | .min => wrapTo ty.bits (intMax ty)
  | .max => wrapTo ty.bits (intMin ty)
/-- What a lane contributes to a reduction: its value, and the tint of the value, its guard bit and its control tint (R149, log 18). -/
def Team.contrib (t : Team) (g : LaneGuard) (regs a L : Nat) : Val :=
  let x := t.vval regs a L
  (x.1, x.2 || (t.lguard g L).tint || t.ctl.getLsbD L)
/-- The combination of the active lanes below `n` (R108). -/
def Team.reduce (t : Team) (o : VRedOps) (n : Nat) : Val :=
  ((t.activeLanes o.g).filter (· < n)).foldl
    (fun acc L =>
      let x := t.contrib o.g o.ty.regs o.a.val L
      (RedOp.fn o.op o.ty acc.1 x.1, acc.2 || x.2)) (redUnit o.op o.ty, false)
/-- VRED (R108). -/
def execVred (o : VRedOps) (s : State) : Host.Outcome State Fault Refusal :=
  let x := s.cur.reduce o s.cur.lanes
  finish (.next (s.writeVal o.g o.ty.regs o.d.val fun _ => x))
/-- VSCAN (R108). -/
def execVscan (o : VRedOps) (s : State) : Host.Outcome State Fault Refusal :=
  finish (.next (s.writeVal o.g o.ty.regs o.d.val fun L => s.cur.reduce o (if o.excl then L else L + 1)))

/-- VBAL (R109). -/
def execVbal (o : VBalOps) (s : State) : Host.Outcome State Fault Refusal :=
  let t := s.cur
  finish (.next (s.writeVal o.g 1 o.d.val fun L =>
    let base := L - L % 32
    let row := (List.range 32).filter fun b => t.active o.g (base + b)
    (bitsOf 32 fun b => row.contains b && (t.preg o.p.val (base + b)).val,
     row.any fun b => (t.preg o.p.val (base + b)).tint || (t.lguard o.g (base + b)).tint || t.ctl.getLsbD (base + b))))

/-! ### Predicates -/

/-- A predicate instruction: lane by lane on vector predicates, once on scalar predicates (R110). -/
def State.pop (s : State) (g : LaneGuard) (d : PredReg) (f : Nat → PCell) : State :=
  match d with
  | .p i => s.writeP g i.val f
  | .q i => s.setQ i.val { f 0 with tint := (f 0).tint || s.cur.ctlAny }
def State.pbin (s : State) (o : PBinOps) (f : Bool → Bool → Bool) : State :=
  s.pop o.g o.d fun L =>
    let x := s.cur.predv o.a L
    let y := s.cur.predv o.b L
    { val := f x.val y.val, tint := x.tint || y.tint }

def execPand (o : PBinOps) (s : State) : Host.Outcome State Fault Refusal := finish (.next (s.pbin o (· && ·)))
def execPor (o : PBinOps) (s : State) : Host.Outcome State Fault Refusal := finish (.next (s.pbin o (· || ·)))
def execPxor (o : PBinOps) (s : State) : Host.Outcome State Fault Refusal := finish (.next (s.pbin o (· != ·)))
def execPnot (o : PUnOps) (s : State) : Host.Outcome State Fault Refusal :=
  finish (.next (s.pop o.g o.d fun L => { s.cur.predv o.a L with val := !(s.cur.predv o.a L).val }))
def execPmov (o : PUnOps) (s : State) : Host.Outcome State Fault Refusal :=
  finish (.next (s.pop o.g o.d fun L => s.cur.predv o.a L))

/-- The tint of PANY and PALL (R111). -/
def Team.anyTint (t : Team) (o : PAnyOps) : Bool :=
  ((t.activeLanes o.g).any fun L => (t.preg o.a.val L).tint || (t.lguard o.g L).tint) || t.ctlAny
def execPany (o : PAnyOps) (s : State) : Host.Outcome State Fault Refusal :=
  finish (.next (s.setQ o.d.val
    { val := (s.cur.activeLanes o.g).any fun L => (s.cur.preg o.a.val L).val, tint := s.cur.anyTint o }))
def execPall (o : PAnyOps) (s : State) : Host.Outcome State Fault Refusal :=
  finish (.next (s.setQ o.d.val
    { val := (s.cur.activeLanes o.g).all fun L => (s.cur.preg o.a.val L).val, tint := s.cur.anyTint o }))

end Sys2Proof.Machine
end

