-- ==== Sys2Proof/Machine/Access.lean ====
section
/-! DEFINITION. Loads, stores, atomics, guesses, prefetch and the events of an access (R133-R169, R172, R418). -/

namespace Sys2Proof.Machine

/-! ### Addresses and checks -/

/-- The address of a lane and its tint (R134). -/
def Team.memAddr (t : Team) (a : AddrOp) (L : Nat) : Nat × Bool :=
  match a with
  | .base b => ((t.sval b).toNat, (t.sreg b.val).tint)
  | .index b i k =>
    let v := t.vreg i.val L
    ((t.sval b + BitVec.ofInt 64 (v.val.toInt * 2 ^ k.val)).toNat, (t.sreg b.val).tint || v.tint)

/-- The operands of an address in slot order, with the lanes in which they are tinted (R55, R154). -/
def Team.addrOps (t : Team) (a : AddrOp) : List (Nat × Nat × (Nat → Bool)) :=
  match a with
  | .base b => [(2, b.val, fun _ => (t.sreg b.val).tint)]
  | .index b i _ => [(2, b.val, fun _ => (t.sreg b.val).tint), (3, i.val, fun L => (t.vreg i.val L).tint)]
/-- A register group as the data operand of slot 4. -/
def Team.dataOp (t : Team) (c regs : Nat) : Nat × Nat × (Nat → Bool) :=
  (4, c, fun L => (List.range regs).any fun k => (t.vreg (c + k) L).tint)
/-- The value of a register group in a lane. -/
def Team.group (t : Team) (c regs L : Nat) : Nat :=
  (List.range regs).foldl (fun a k => a + (t.vreg (c + k) L).val.toNat * 2 ^ (32 * k)) 0

/-- The permission that a page of the remote-window kind needs elsewhere: none here. Alignment, then range or translation of one lane (R134, R136). -/
def State.checkLane (s : State) (sp : Space) (need : Need) (w a : Nat) : Except XFail Place :=
  if a % w ≠ 0 then .error { cause := cMisaligned, why := 0 }
  else match s.locate sp need a w with
    | .ok x => .ok x.place
    | .error f => .error f
/-- The trap of a failed check: $flanes names the failing lanes of the first row, and a fault without translation its address (R136, R273, R322). -/
def xTrap (f : XFail) (acc a : Nat) (ls : List Nat) : Trap :=
  { Trap.of f.cause (if f.why ≠ 0 ∨ f.cause = cFabricTarget then a else 0) with lanes := flanesOf ls, acc, why := f.why }
def failOf : Except XFail Place → Option XFail
  | .error f => some f
  | .ok _ => none
/-- Every lane is checked before any takes effect (R136). Where lanes fail different checks, the cause is that of the lowest failing lane (DESIGN CHOICE, log 64). -/
def State.checkLanes (s : State) (sp : Space) (need : Need) (acc w : Nat) (ls : List (Nat × Nat)) :
    Except Trap (List (Nat × Nat × Place)) :=
  let rs := ls.map fun p => (p.1, p.2, s.checkLane sp need w p.2)
  let bad := rs.filterMap fun r => (failOf r.2.2).map fun f => (r.1, r.2.1, f)
  match bad with
  | [] => .ok (rs.filterMap fun r => match r.2.2 with
    | .ok p => some (r.1, r.2.1, p)
    | .error _ => none)
  | (_, a, f) :: _ => .error (xTrap f acc a (bad.map fun b => b.1))

/-! ### The last-value table (R144-R146) -/

def spCode : Space → Nat
  | .g => 0 | .k => 1 | .q => 2 | .d => 3
def lvtIndex (a : Nat) : Nat := bitsAt a 2 12
def lvtTag (sp : Space) (a : Nat) : Nat :=
  bitsAt a 14 12 ^^^ bitsAt a 26 12 ^^^ bitsAt a 38 12 ^^^ bitsAt a 50 7 ^^^ (spCode sp * 1024)
def State.lvt (s : State) (core a : Nat) : LvtEntry := (s.coreAt core).lvt.get LvtEntry.invalid (lvtIndex a)
def LvtEntry.hit (e : LvtEntry) (ctx : Nat) (sp : Space) (a : Nat) : Bool :=
  e.valid && e.tag == lvtTag sp a && e.ctx == ctx
/-- The guess for a 32-bit word (R145). -/
def State.guessWord (s : State) (core ctx : Nat) (sp : Space) (a : Nat) : Lane :=
  let e := s.lvt core a
  if !e.hit ctx sp a then 0 else if 2 ≤ e.conf then e.value + e.stride.signExtend 32 else e.value
/-- The guess for an element as it enters the registers (R145). A byte beyond the one word that R145 reads, in a 16-bit element at byte 3 of a word, is 0 (DESIGN CHOICE, log 88). -/
def State.guess (s : State) (core ctx : Nat) (sp : Space) (w : Width) (signed : Bool) (a : Nat) : Nat :=
  match w with
  | .w8 | .w16 => elemValue w signed ((s.guessWord core ctx sp (alignDown 4 a)).toNat / 2 ^ (8 * (a % 4)))
  | w => (List.range w.regs).foldl (fun g k => g + (s.guessWord core ctx sp (a + 4 * k)).toNat * 2 ^ (32 * k)) 0
/-- An exact word trains its entry (R146). -/
def LvtEntry.train (e : LvtEntry) (ctx : Nat) (sp : Space) (a : Nat) (x : Lane) : LvtEntry :=
  if e.hit ctx sp a then
    let d := (x - e.value).toInt
    let c : Option (BitVec 16) := if -32768 ≤ d ∧ d ≤ 32767 then some (BitVec.ofInt 16 d) else none
    if c = some e.stride then { e with conf := min (e.conf + 1) 3, value := x }
    else if e.conf = 0 then { e with stride := c.getD 0, value := x }
    else { e with conf := e.conf - 1, value := x }
  else { valid := true, tag := lvtTag sp a, ctx, value := x, stride := 0, conf := 0 }
def Core.train (c : Core) (t : Train) : Core :=
  let e := (c.lvt.get LvtEntry.invalid (lvtIndex t.addr)).train t.ctx t.sp t.addr t.word
  { c with lvt := c.lvt.set LvtEntry.invalid (lvtIndex t.addr) e }
/-- A word waits to train its table at the end of the cycle, in issue order and then in lane order; guesses of the cycle come first (R146). -/
def Train.before (a b : Train) : Bool := decide (a.load < b.load) || (a.load == b.load && decide (a.lane < b.lane))
def putTrain (t : Train) : List Train → List Train
  | [] => [t]
  | x :: l => if t.before x then t :: x :: l else x :: putTrain t l
def State.trainWord (s : State) (core : Nat) (t : Train) : State := s.modCore core fun c => { c with trains := putTrain t c.trains }
/-- The training of a cycle, at its end. -/
def Core.trainAll (c : Core) : Core := { (c.trains.foldl Core.train c) with trains := [] }
/-- The words of an exact answer to a team train the table; an atomic's, a poisoned one and one at a tinted address do not (R141, R146). -/
def State.train (s : State) (ld : Load) (l : LoadLane) : State :=
  let on := match ld.kind with
    | .atom _ => false
    | _ => true
  if !on || ld.team.gid == 0 || l.tintAddr || l.bad.isSome || decide (ld.w.bytes < 4) then s
  else (List.range (ld.w.bytes / 4)).foldl
    (fun s k => s.trainWord ld.core {
      load := ld.key, lane := l.lane, ctx := ld.ctx, sp := ld.sp, addr := l.addr + 4 * k,
      word := BitVec.ofNat 32 (l.value / 2 ^ (32 * k)) }) s

/-! ### Expiry (R138, R141, R142) -/

/-- The late-answer records in use on a core. -/
def Load.rows (ld : Load) : List Nat := (ld.lanes.map fun l => l.lane / 32).eraseDups
def Load.recordsUsed (ld : Load) : Nat :=
  sumOf (ld.rows.map fun r => ((List.range ld.regs).filter fun i =>
    ld.lanes.any fun l => l.lane / 32 == r && l.record i).length)
def State.recordsUsed (s : State) (core : Nat) : Nat :=
  sumOf ((s.loads.filter fun ld => ld.core == core).map Load.recordsUsed)
/-- A row of a load expires: a tinted address gives a guess alone, and the others a guess with records while the core has enough free. -/
def State.expireRow (s : State) (k r : Nat) : State :=
  match s.load? k with
  | none => s
  | some ld =>
    let room := decide (s.recordsUsed ld.core + ld.regs ≤ 256)
    let f := fun l : LoadLane =>
      if l.lane / 32 = r && l.st == .waiting then
        let g := s.guess ld.core ld.ctx ld.sp ld.w ld.signed l.addr
        if l.tintAddr then { l with st := .guessOnly, guess := g }
        else if room then { l with st := .expired, guess := g } else l
      else l
    s.modLoad k fun ld => { ld with lanes := ld.lanes.map f }
/-- The lanes of a load expire together; what stays Waiting goes on as under w0. -/
def State.expire (s : State) (k : Nat) : State :=
  match s.load? k with
  | none => s
  | some ld => (ld.rows.foldl (fun s r => s.expireRow k r) s).modLoad k fun ld => { ld with limit := 0 }
/-- The cycle in which a limit ends (R138). -/
def limitEnd (issued limit : Nat) : Nat := issued + 2 ^ (limit + 5)

/-! ### Loads -/

/-- A lane of an access as it is issued. -/
def LoadLane.issue (L a : Nat) (p : Place) (tintAddr tint : Bool) : LoadLane :=
  { lane := L, place := p, addr := a, tintAddr, st := .waiting, value := 0, guess := 0, bad := none, tint,
    performed := false, late := false, gone := 0, dem := 0, tintAt := none, x := 0, c := 0, gd := none }
/-- An access of the team in focus, as it is issued. -/
def State.newLoad (s : State) (kind : LoadKind) (sp : Space) (w : Width) (signed : Bool) (d regs : Nat)
    (lanes : List LoadLane) : Load :=
  { key := s.nextKey, team := s.cur.id, seq := s.cur.seq, pc := s.cur.instrAddr, kind, sp, w, signed, d, regs,
    limit := 0, issued := s.clk, acq := none, rel := none, relaxed := false, lanes, keep := [],
    fences := s.cur.fences, written := false, core := s.coreOf s.cur.id.gid, ctx := s.ctxOf s.cur,
    redirected := false, hdr := s.hdrOf s.cur.id }
/-- The lanes under a false tinted guard (R57). -/
def Team.keepLanes (t : Team) (g : LaneGuard) : List Nat :=
  t.laneList.filter fun L => t.mask.getLsbD L && !(t.lguard g L).val && (t.lguard g L).tint
/-- Whether a lane's result is tinted by its guard or by control tint (R57, R94). -/
def Team.forced (t : Team) (g : LaneGuard) (L : Nat) : Bool := (t.lguard g L).tint || t.ctl.getLsbD L

/-- The lanes of a load: an untinted address that fails a check raises the fault, a tinted one is Guess only (R141, R153). -/
def State.loadLanes (s : State) (g : LaneGuard) (sp : Space) (w : Width) (signed : Bool) (a : AddrOp)
    (remote : Bool) : Except Trap (List LoadLane) :=
  let t := s.cur
  let act := (t.activeLanes g).map fun L => (L, t.memAddr a L)
  let chk := s.checkLanes sp needR 1 w.bytes ((act.filter fun p => !p.2.2).map fun p => (p.1, p.2.1))
  match chk with
  | .error tr => .error tr
  | .ok ok =>
    match (if remote then ok.filter fun r => !r.2.2.isPeer else []) with
    | r :: rest => .error (Trap.lanesOf cFabricTarget r.2.1 (r.1 :: rest.map fun q => q.1))
    | [] => .ok (act.map fun p =>
      if p.2.2 then
        match s.checkLane sp needR w.bytes p.2.1 with
        | .ok pl =>
          if remote && !pl.isPeer then
            { LoadLane.issue p.1 p.2.1 .nowhere true (t.forced g p.1) with
              st := .guessOnly, guess := s.guess (s.coreOf t.id.gid) (s.ctxOf t) sp w signed p.2.1 }
          else LoadLane.issue p.1 p.2.1 pl true (t.forced g p.1)
        | .error _ =>
          { LoadLane.issue p.1 p.2.1 .nowhere true (t.forced g p.1) with
            st := .guessOnly, guess := s.guess (s.coreOf t.id.gid) (s.ctxOf t) sp w signed p.2.1 }
      else
        LoadLane.issue p.1 p.2.1 (((ok.find? fun r => r.1 == p.1).map fun r => r.2.2).getD .nowhere) false
          (t.forced g p.1))

/-- The registers of a team written by a load in one lane: the exact value, tinted where its address was, or the guess tinted (R143, R153, R162); by a GDEM those it has resolved (R169). -/
def Team.loadWrite (t : Team) (ld : Load) (l : LoadLane) : Team :=
  match l.gd with
  | some g => g.got.foldl (fun t r => t.setV (ld.d + r.1) l.lane { val := BitVec.ofNat 32 r.2, tint := l.tint }) t
  | none =>
  let guess := l.st != .exact
  let x := if guess then l.guess else l.value
  (List.range ld.regs).foldl (fun t i =>
    t.setV (ld.d + i) l.lane { val := BitVec.ofNat 32 (x / 2 ^ (32 * i)), tint := guess || l.tintAddr || l.tint }) t
/-- An answer that failed at a tinted address yields the guess instead of a fault (R153; DEDUCED, log 22). -/
def State.settled (s : State) (ld : Load) (l : LoadLane) : LoadLane :=
  if l.st == .exact && l.tintAddr && l.bad.isSome then
    { l with st := .guessOnly, guess := s.guess ld.core ld.ctx ld.sp ld.w ld.signed l.addr }
  else l
def Team.keepTint (t : Team) (ld : Load) (L : Nat) : Team :=
  (List.range ld.regs).foldl (fun t i => t.setV (ld.d + i) L { t.vreg (ld.d + i) L with tint := true }) t
/-- The write of a load's destination: earlier records in its lanes are abandoned, and $gorigin takes the first guess (R142, R143, R147). -/
def State.writeLoad (s : State) (ld : Load) : State :=
  match s.team? ld.team with
  | none => s.modLoad ld.key fun ld => { ld with written := true }
  | some t =>
    let ls := (ld.lanes.filter fun l => l.st != .abandoned).map fun l => l.lane
    let s1 := (List.range ld.regs).foldl (fun s i => s.abandonOf ld.team (ld.d + i) ls) s
    let live := (ld.lanes.filter fun l => l.st != .abandoned).map (s.settled ld)
    let first := !s.tintAnyOf t && live.any fun l => l.st != .exact || l.tintAddr
    State.pruneLoads ((s1.modTeam ld.team fun t =>
      let t := ld.keep.foldl (fun t L => t.keepTint ld L) (live.foldl (fun t l => t.loadWrite ld l) t)
      if first then { t with fr := { t.fr with gorigin := pcBits ld.pc } } else t).modLoad ld.key fun ld =>
        { ld with written := true })

/-- The fault of a load whose answer was poisoned, denied or lost: all its failing lanes (R418). -/
def Load.badLanes (ld : Load) : List LoadLane := ld.lanes.filter fun l => l.st == .exact && !l.tintAddr && l.bad.isSome
def Load.badTrap (ld : Load) : Option Trap :=
  match ld.badLanes with
  | [] => none
  | l :: ls => some { Trap.lanesOf (l.bad.getD 0) l.addr (l.lane :: ls.map fun m => m.lane) with opnd := 256 * ld.d + 1 }
/-- All lanes of a load of a group's team have what they need for its write (R143). -/
def Load.ready (ld : Load) : Bool := ld.team.gid != 0 && !ld.written && !ld.redirected && ld.kind != .mat && ld.lanes.all fun l => l.st != .waiting
/-- A load none of whose lanes is Waiting writes its destination in that cycle (R143); a fault is left to be taken where its team stands (R418). -/
def State.writeDue (s : State) (k : Nat) : State :=
  match s.load? k with
  | none => s
  | some ld => if ld.ready && ld.badTrap.isNone then s.writeLoad ld else s
/-- A load is issued. In drill mode it expires in its issue cycle (R147), and one that has no lane to wait for is written in it (R143). -/
def State.issueLoad (s : State) (ld : Load) : State :=
  let s := { s.bump with loads := s.loads ++ [ld] }
  if s.cur.sys.gdrill && ld.limit != 0 then (s.expire ld.key).writeDue ld.key
  else if ld.ready && ld.badTrap.isNone then s.writeLoad ld else s

/-- An LD of a method: from its buffer or from the object (R343); poison counts where a byte comes from the object. -/
def State.methodByte (s : State) (m : MethodCtx) (off : Nat) : Byte :=
  (m.stores.get none off).getD (s.byte (m.phys + off))
def inObject (m : MethodCtx) (w a : Nat) : Bool := a % w == 0 && decide (m.base ≤ a) && decide (a + w ≤ m.base + m.size)
def State.methodLd (s : State) (o : LoadOps) (m : MethodCtx) : State :=
  let t := s.cur
  let act := t.activeLanes o.g
  match act.filter fun L => !inObject m o.w.bytes (t.memAddr o.addr L).1 with
  | L :: _ => s.methodFail 0x4B t.instrAddr L
  | [] =>
    let fromMem := fun L => (List.range o.w.bytes).any fun k => (m.stores.get none ((t.memAddr o.addr L).1 - m.base + k)).isNone
    match act.filter fun L => fromMem L && s.poisoned (m.phys + ((t.memAddr o.addr L).1 - m.base)) o.w.bytes with
    | L :: ls =>
      (s.post { Report.bare m.ctx 0x03 cPoisoned (t.memAddr o.addr L).1 with
        pc := t.instrAddr.toNat, lanes := flanesOf (L :: ls), opnd := 256 * o.d.val + 1 }).methodFail 0x4E t.instrAddr L
    | [] =>
      let val := fun L =>
        let off := (t.memAddr o.addr L).1 - m.base
        elemValue o.w o.signed (fromBytes ((List.range o.w.bytes).map fun k => s.methodByte m (off + k)))
      ((List.range o.w.regs).foldl (fun s k => s.writeV o.g (o.d.val + k) fun L =>
        { val := BitVec.ofNat 32 (val L / 2 ^ (32 * k)), tint := false }) s).advance

/-- A byte of the tint map, which the device reaches beside a handler's access to the register region (R271). -/
def State.mapPlace (s : State) (need : Need) (va : Nat) : Except XFail Nat :=
  match s.locate .g need va 1 with
  | .ok { place := .phys p, .. } => if need.r && s.poisoned p 1 then .error { cause := cPoisoned, why := 0 } else .ok p
  | .ok _ => .error { cause := cPermission, why := 0 }
  | .error f => .error f
/-- The first address of an access whose byte of the tint map fails: a failure of a save-area access, which kills the group (R275). -/
def State.mapFail (s : State) (sp : Space) (w : Width) (need : Need) (as : List Nat) : Option (XFail × Nat) :=
  as.findSome? fun a => (s.tintBit sp w a).bind fun b => match s.mapPlace need b.1 with
    | .error f => some (f, b.1)
    | .ok _ => none
/-- A lane of a handler's LD from the register region takes its tint from the tint map (R271). -/
def State.mapLane (s : State) (sp : Space) (w : Width) (l : LoadLane) : LoadLane :=
  match s.tintBit sp w l.addr with
  | none => l
  | some (va, b) => match s.mapPlace needR va with
    | .ok p => { l with tintAt := some (8 * p + b) }
    | .error _ => l
/-- LD and GATH (R162, R164). -/
def State.load (s : State) (o : LoadOps) (gath : Bool) : Eff :=
  match s.cur.method with
  | some m => .hold (s.methodLd o m)
  | none => match s.loadLanes o.g o.sp o.w o.signed o.addr false with
    | .error tr => .trap s tr
    | .ok lanes => match (if gath then none else s.mapFail o.sp o.w needR (lanes.map LoadLane.addr)) with
      | some (f, va) => .hold (s.killSave s.cur.id.gid f va)
      | none => .next (s.issueLoad { s.newLoad .load o.sp o.w o.signed o.d.val o.w.regs (if gath then lanes else lanes.map (s.mapLane o.sp o.w)) with
        limit := o.limit.val, acq := if o.acq then some o.scope else none, keep := s.cur.keepLanes o.g })
def execLd (o : LoadOps) (s : State) : Host.Outcome State Fault Refusal := finish (s.load o false)
def execGath (o : LoadOps) (s : State) : Host.Outcome State Fault Refusal := finish (s.load o true)

/-! ### Stores and reductions -/

/-- A posted access of the team in focus, as it is issued. -/
def State.newPost (s : State) (w : Width) (signed : Bool) (rel : Option Scope) (writes : List PostWrite) : Post :=
  { key := s.nextKey, team := s.cur.id, seq := s.cur.seq, pc := s.cur.instrAddr, w, signed, rel,
    fences := s.cur.fences, writes, core := s.coreOf s.cur.id.gid, kid := s.kidOf s.cur, counted := true,
    ctx := s.ctxOf s.cur, num := none, sig := none, relaxed := false, eng := none, accepted := false, entered := false, paths := [], hdr := s.hdrOf s.cur.id }
/-- The path sequence toward a target on a path (R359). -/
def pathKey (tgt path : Nat) : Nat := 16 * tgt + path
/-- The path that the route table gives toward a target: the direct one while there is none. -/
def State.rowTo (s : State) (r : Nat) : Nat :=
  let row := s.route.get 16 r
  if row = 16 then r else row
/-- The path that an XSEND takes as it is accepted (R367). -/
def State.sendPath (s : State) (o : SendPath) (r : Nat) : Nat :=
  match o with
  | .auto => s.rowTo r
  | .direct => if s.linkTo r then r else s.rowTo r
  | .via n => n.val
/-- Bytes of remote writes are assigned to the path that the route table gives (R254, R359). -/
def State.assignPath (s : State) (p : Place) (n : Nat) : State :=
  match p with
  | .peer r _ =>
    let k := pathKey r (s.rowTo r)
    { s with pathSeq := s.pathSeq.set 0 k (s.pathSeq.get 0 k + n) }
  | _ => s
/-- The peers that the writes of a posted access go to. -/
def Post.peers (q : Post) : List Nat := (q.writes.filterMap fun w => match w.place with
  | .peer r _ => some r
  | _ => none).eraseDups
/-- A posted access leaves WAI: it is counted if it has not been, takes an engine number where it has one, and a path toward each of its peers (R48, R254, R292). -/
def State.takePost (s : State) (q : Post) : State × Post :=
  let num := q.eng.map fun e => (e, s.tlNext q.team.gid e)
  let s1 := match q.eng with
    | some e => s.tlTake q.team.gid e
    | none => s
  let s2 := if q.counted && !q.entered then s1.outUp q.core q.kid else s1
  let s3 := if q.sig.isSome then s2 else q.writes.foldl (fun s w => s.assignPath w.place w.data.length) s2
  let seqs := fun (r : Nat) => (List.range 16).map fun i => s3.pathSeq.get 0 (pathKey r i)
  let sig := match q.sig, q.writes with
    | some (op, some _), { place := .peer r _, .. } :: _ => some (op, some (seqs r))
    | x, _ => x
  (s3, { q with num, sig, paths := q.peers.map fun r => (r, s3.rowTo r), accepted := true, entered := q.counted })
/-- The device as the issuer of writes of its own, and the host. -/
def deviceId : TeamId := { gid := 0, idx := 97 }
def hostId : TeamId := { gid := 0, idx := 98 }
/-- A posted write toward a peer that no team issues: in the order of the device's, or the host's, own; `count` names the core and kernel of the counting entry it takes, if any. -/
def State.postBy (s : State) (id : TeamId) (ctx va : Nat) (p : Place) (bs : List Byte) (rel : Option Scope)
    (count : Option (Nat × Nat) := none) (hdr : ReqHdr := ReqHdr.nobody) : State :=
  let r := s.takePost
    { key := s.nextKey, team := id, seq := s.nextKey, pc := 0, w := .w8, signed := false, rel, fences := [],
      writes := [{ place := p, va, data := bs, red := none, done := false }], core := (count.map Prod.fst).getD 1152,
      kid := (count.map Prod.snd).getD 0, counted := count.isSome, ctx,
      num := none, sig := none, relaxed := false, eng := none, accepted := true, entered := false, paths := [], hdr }
  { r.1.bump with posts := r.1.posts ++ [r.2] }
/-- A write of the device itself: performed at its home here, or posted toward a peer. -/
def State.deviceWrite (s : State) (ctx va : Nat) (p : Place) (bs : List Byte) (rel : Option Scope := none) : State :=
  if bs.isEmpty then s
  else if p.isPeer then s.postBy deviceId ctx va p bs rel
  else s.homeWrite false ReqHdr.nobody ctx va p bs
/-- Such a write to a run list, from its byte `k` on. -/
def State.deviceRuns (s : State) (ctx va : Nat) (rel : Option Scope) : List (Place × Nat) → Nat → List Byte → State
  | [], _, _ => s
  | (p, n) :: l, k, bs =>
    if n ≤ k then s.deviceRuns ctx (va + n) rel l (k - n) bs
    else (s.deviceWrite ctx (va + k) (p.plus k) (bs.take (n - k)) rel).deviceRuns ctx (va + n) rel l 0 (bs.drop (n - k))
/-- Operations of a team that have not left WAI (R48): a later one of the team stays behind them (DESIGN CHOICE, log 65). -/
def State.inWai (s : State) (id : TeamId) : Bool :=
  (s.posts.any fun q => q.team == id && !q.accepted) || s.engs.any fun e => e.team == id && !e.accepted
/-- Operations of a team that have issued and found no entry to be counted in (R292). -/
def State.uncounted (s : State) (id : TeamId) : Bool :=
  (s.posts.any fun q => q.team == id && q.counted && !q.entered) || (s.engs.any fun e => e.team == id && !e.entered)
    || (s.appends.any fun a => a.team == id && !a.accepted) || s.asks.any fun a => a.team == id && a.checked.isSome && !a.entered
/-- A posted access issues: it is counted then, but without a free entry it stays in WAI uncounted, and its team goes on (R48, R292). -/
def State.issuePost (s : State) (q : Post) (eng : Option Nat) : Eff :=
  let room := s.outOk q.core q.kid
  let q := { q with eng }
  if q.counted && (!room || s.inWai q.team) then
    .next { (if room then s.outUp q.core q.kid else s).bump with posts := s.posts ++ [{ q with entered := room }] }
  else
    let r := s.takePost q
    .next { r.1.bump with posts := r.1.posts ++ [r.2] }
/-- No earlier operation of a team waits in WAI. -/
def State.firstInWai (s : State) (id : TeamId) (key : Nat) : Bool :=
  !((s.posts.any fun p => p.team == id && !p.accepted && decide (p.key < key))
    || s.engs.any fun e => e.team == id && !e.accepted && decide (e.key < key))
/-- A posted access that waits is counted once an entry is free, and accepted where no earlier operation of its team waits. -/
def State.acceptPost (s : State) (q : Post) : State :=
  if q.accepted || !(q.entered || s.outOk q.core q.kid) then s
  else if s.firstInWai q.team q.key then
    let r := s.takePost q
    r.1.modPost q.key fun _ => r.2
  else if q.entered then s
  else (s.outUp q.core q.kid).modPost q.key fun q => { q with entered := true }

/-- Guarded scratchpad bytes: the fault of R209, with the failing address (R234). -/
def State.guardTrap (s : State) (n : Nat) (rs : List (Nat × Nat × Place)) : Option Trap :=
  match rs.filter fun r => (match r.2.2 with
      | .scratch _ _ _ => true
      | _ => false) && s.placeGuarded r.2.2 n with
  | [] => none
  | r :: rest => some (Trap.lanesOf cBarOverwrite r.2.1 (r.1 :: rest.map fun q => q.1))

/-- The stores of a method into its buffer of 512 words (R343, R344). -/
def State.methodSt (s : State) (o : StoreOps) (m : MethodCtx) : State :=
  let t := s.cur
  let act := t.activeLanes o.g
  match act.filter fun L => !inObject m o.w.bytes (t.memAddr o.addr L).1 with
  | L :: _ => s.methodFail 0x4B t.instrAddr L
  | [] =>
    let put := fun st L =>
      let off := (t.memAddr o.addr L).1 - m.base
      (leBytes o.w.bytes (t.group o.c.val o.w.regs L)).zipIdx.foldl
        (fun st p => SMap.set none st (off + p.2) (some p.1)) st
    let full := fun st : SMap (Option Byte) => decide (512 < ((st.map fun p => p.1 / 8).eraseDups).length)
    let st := act.foldl put m.stores
    if full st then
      s.methodFail 0x4C t.instrAddr (((act.find? fun L => full ((act.filter (· ≤ L)).foldl put m.stores))).getD 0)
    else (s.modCur fun t => { t with method := (t.method.map fun m => { m with stores := st }) }).advance

/-- The writes of a handler's ST into the tint map, with the words of its lanes (R271). -/
def State.mapWrites (s : State) (sp : Space) (w : Width) (c : Nat) (rs : List (Nat × Nat × Place)) : List PostWrite :=
  rs.filterMap fun r => match s.tintBit sp w r.2.1 with
    | none => none
    | some (va, b) => match s.mapPlace needW va with
      | .error _ => none
      | .ok p => some (if (s.cur.vreg c r.1).tint then
          { place := .phys p, va, data := [BitVec.ofNat 8 (2 ^ b)], red := some .or, done := false }
        else { place := .phys p, va, data := [BitVec.ofNat 8 (255 - 2 ^ b)], red := some .and, done := false })
/-- A program's writes into save areas are noted (R270). -/
def State.noteWrites (s : State) (ctx w : Nat) (rs : List (Nat × Nat × Place)) : State :=
  rs.foldl (fun s r => match r.2.2 with
    | .phys _ => s.noteSave ctx r.2.1 w
    | _ => s) s
/-- ST and SCAT: a store to .g is posted, one to a scratchpad is performed at once (R163, R164).
A handler's ST into the register region stores tints, and tint rule 6 does not apply to it (R271). -/
def State.store (s : State) (o : StoreOps) (scat : Bool) : Eff :=
  let t := s.cur
  match t.method with
  | some m => .hold (s.methodSt o m)
  | none =>
  let act := (t.activeLanes o.g).map fun L => (L, (t.memAddr o.addr L).1)
  let tinty := !scat && !act.isEmpty && act.all fun p => (s.tintBit o.sp o.w p.2).isSome
  match (if tinty then none else s.laneEscape o.g (t.addrOps o.addr ++ [t.dataOp o.c.val o.w.regs])) with
  | some tr => .trap s tr
  | none =>
    match s.checkLanes o.sp needW 2 o.w.bytes act with
    | .error tr => .trap s tr
    | .ok [] => .next s
    | .ok rs => match s.guardTrap o.w.bytes rs, (if scat then none else s.mapFail o.sp o.w needW (rs.map fun r => r.2.1)) with
      | some tr, _ => .trap s tr
      | none, some (f, va) => .hold (s.killSave t.id.gid f va)
      | none, none =>
        let one := fun r : Nat × Nat × Place =>
          PostWrite.mk r.2.2 r.2.1 (leBytes o.w.bytes (t.group o.c.val o.w.regs r.1)) none false
        let ws := rs.map one ++ (if scat then [] else s.mapWrites o.sp o.w o.c.val rs)
        let q := s.newPost o.w o.signed (if o.rel then some o.scope else none) ws
        if o.sp = .g then (s.noteWrites (s.ctxOf t) o.w.bytes rs).issuePost q (if scat then some 18 else none)
        else if (ws.zipIdx.all fun p => s.earlierHit q.team q.seq p.1.place o.w.bytes = false)
            && !s.acqHold q.team q.seq && relDone s q.team q.seq q.rel && s.fencesDone q.team q.fences then
          .next (ws.foldl (fun s w => s.doWrite { q with writes := ws.map fun w => { w with done := true } } w) s)
        else .hold s
def execSt (o : StoreOps) (s : State) : Host.Outcome State Fault Refusal := finish (s.store o false)
def execScat (o : StoreOps) (s : State) : Host.Outcome State Fault Refusal := finish (s.store o true)

/-- The registers of an atomic's operand: the compared value first, then the new one (R165). -/
def atomRegs (w : Width) (op : AtomOp) : Nat := if op = .cas then 2 * w.regs else w.regs
/-- The operands of a lane: its value, and the compared value of .cas. -/
def Team.atomOps (t : Team) (w : Width) (op : AtomOp) (c L : Nat) : Nat × Nat :=
  if op = .cas then (t.group (c + w.regs) w.regs L, t.group c w.regs L) else (t.group c w.regs L, 0)
def ordAcq : MemOrder → Bool
  | .acq | .acqrel => true
  | _ => false
def ordRel : MemOrder → Bool
  | .rel | .acqrel => true
  | _ => false

/-- The checks of an atomic access: tint rule 6, alignment, translation with R and W, guards (R154, R136, R209). -/
def State.atomCheck (s : State) (g : LaneGuard) (sp : Space) (w : Width) (op : AtomOp) (addr : AddrOp) (c : Nat) :
    Except Trap (List (Nat × Nat × Place)) :=
  let t := s.cur
  match s.laneEscape g (t.addrOps addr ++ [t.dataOp c (atomRegs w op)]) with
  | some tr => .error tr
  | none =>
    match s.checkLanes sp needRW 3 w.bytes ((t.activeLanes g).map fun L => (L, (t.memAddr addr L).1)) with
    | .error tr => .error tr
    | .ok rs => match s.guardTrap w.bytes rs with
      | some tr => .error tr
      | none => .ok rs
/-- The scope of an atomic: one with a lane at a peer acts as XATOM, whose scope is the pod (R369). -/
def atomScope (sc : Scope) (rs : List (Nat × Nat × Place)) : Scope := if rs.any fun r => r.2.2.isPeer then .pod else sc
/-- An atomic with a result is issued (R166). -/
def State.issueAtom (s : State) (w : Width) (signed : Bool) (op : AtomOp) (ord : MemOrder) (sc : Scope) (sp : Space)
    (d c : Nat) (rlx : Bool) (rs : List (Nat × Nat × Place)) : Eff :=
  let lanes := rs.map fun r =>
    let x := s.cur.atomOps w op c r.1
    { LoadLane.issue r.1 r.2.1 r.2.2 false false with x := x.1, c := x.2 }
  .next ((s.noteWrites (s.ctxOf s.cur) w.bytes rs).issueLoad { s.newLoad (.atom op) sp w signed d w.regs lanes with
    acq := if ordAcq ord then some (atomScope sc rs) else none, rel := if ordRel ord then some (atomScope sc rs) else none, relaxed := rlx })
/-- An atomic without a result is posted (R166). -/
def State.issueRed (s : State) (w : Width) (signed : Bool) (op : AtomOp) (ord : MemOrder) (sc : Scope) (c : Nat) (rlx : Bool)
    (rs : List (Nat × Nat × Place)) : Eff :=
  match rs with
  | [] => .next s
  | rs => (s.noteWrites (s.ctxOf s.cur) w.bytes rs).issuePost { s.newPost w signed (if ordRel ord then some (atomScope sc rs) else none) (rs.map fun r =>
      { place := r.2.2, va := r.2.1, data := leBytes w.bytes (s.cur.atomOps w op c r.1).1, red := some op,
        done := false }) with relaxed := rlx } none

/-! ### Near leases (R167) -/

/-- A near atomic takes or renews its line's lease, the least recently used line leaving a full buffer; one that finds its lease held lowers the counter. -/
def State.lease (s : State) (core line a : Nat) : State :=
  (s.recallFor core (.phys (128 * line)) 128).modCore core fun c =>
    if c.lease.contains line then
      { c with lease := line :: c.lease.filter (· != line),
               predictor := c.predictor.set 0 (predIndex a) (c.predictor.get 0 (predIndex a) - 1) }
    else { c with lease := (line :: c.lease).take 32 }
/-- The leases that an atomic on .g takes by its placement (R167). -/
def State.leases (s : State) (core : Nat) (pl : Placement) (rs : List (Nat × Nat × Place)) : State :=
  rs.foldl (fun s r => match r.2.2 with
    | .phys p =>
      let near := match pl with
        | .near => true
        | .home => false
        | .auto => decide ((s.coreAt core).predictor.get 0 (predIndex r.2.1) < 2)
      if near then s.lease core (p / 128) r.2.1 else s
    | _ => s) s

/-- ATOM (R166). -/
def execAtom (o : AtomOps) (s : State) : Host.Outcome State Fault Refusal :=
  finish (match s.atomCheck o.g o.sp o.w o.op o.addr o.c.val with
  | .error tr => .trap s tr
  | .ok rs =>
    (s.leases (s.coreOf s.cur.id.gid) o.place rs).issueAtom o.w o.signed o.op o.ord o.scope o.sp o.d.val o.c.val false rs)
/-- RED (R166). -/
def execRed (o : AtomOps) (s : State) : Host.Outcome State Fault Refusal :=
  finish (match s.atomCheck o.g o.sp o.w o.op o.addr o.c.val with
  | .error tr => .trap s tr
  | .ok rs =>
    match s.issueRed o.w o.signed o.op o.ord o.scope o.c.val false rs with
    | .next s' => .next (s'.leases (s.coreOf s.cur.id.gid) o.place rs)
    | e => e)
/-- NEAR_LEASE_RECALL: the home takes a line's lease back, and the line's counter rises (R167). -/
def execNearLeaseRecall (core line : Nat) (s : State) : Host.Outcome State Fault Refusal :=
  .next (s.recall core line)

/-! ### Guesses: FIX, GTEST, GDROP (R168) -/

/-- A count of dropped guesses (R147). -/
def State.countDrops (s : State) (n : Nat) : State :=
  s.modCur fun t => { t with sys := { t.sys with gdrop := BitVec.ofNat 32 (min (t.sys.gdrop.toNat + n) (2 ^ 32 - 1)) } }

def execFix (o : TintOps) (s : State) : Host.Outcome State Fault Refusal :=
  finish (.next (match o.d with
  | .v i => s.writeV o.g i.val fun L => { s.cur.vreg i.val L with tint := false }
  | .s i => s.setS i.val { s.cur.sreg i.val with tint := s.cur.ctlAny }
  | .pred (.p i) => s.writeP o.g i.val fun L => { s.cur.preg i.val L with tint := false }
  | .pred (.q i) => s.setQ i.val { s.cur.qreg i.val with tint := s.cur.ctlAny }))

/-- The lanes that GDROP clears: active, tinted, and not tinted anew by guard or control tint. -/
def Team.dropped (t : Team) (g : LaneGuard) (tinted : Nat → Bool) : Nat :=
  ((t.activeLanes g).filter fun L => tinted L && !t.forced g L).length
def execGdrop (o : TintOps) (s : State) : Host.Outcome State Fault Refusal :=
  let t := s.cur
  finish (.next (match o.d with
  | .v i =>
    (s.writeV o.g i.val fun L => if (t.vreg i.val L).tint then VCell.zero else t.vreg i.val L).countDrops
      (t.dropped o.g fun L => (t.vreg i.val L).tint)
  | .s i =>
    if (t.sreg i.val).tint then
      (s.setS i.val { val := 0, tint := t.ctlAny }).countDrops (if t.ctlAny then 0 else 1)
    else if t.ctlAny then s.setS i.val { t.sreg i.val with tint := true } else s
  | .pred (.p i) =>
    (s.writeP o.g i.val fun L => if (t.preg i.val L).tint then PCell.zero else t.preg i.val L).countDrops
      (t.dropped o.g fun L => (t.preg i.val L).tint)
  | .pred (.q i) =>
    if (t.qreg i.val).tint then
      (s.setQ i.val { val := false, tint := t.ctlAny }).countDrops (if t.ctlAny then 0 else 1)
    else if t.ctlAny then s.setQ i.val { t.qreg i.val with tint := true } else s))

def execGtest (o : GtestOps) (s : State) : Host.Outcome State Fault Refusal :=
  let t := s.cur
  let src := fun L => match o.a with
    | .v i => (t.vreg i.val L).tint
    | .s i => (t.sreg i.val).tint
    | .pred r => (t.predv r L).tint
  finish (.next (s.pop o.g o.d fun L => { val := src L, tint := false }))

/-! ### GDEM (R169) -/

/-- The load whose record holds lane `L` of a register of a team: the one that last wrote it (R142). -/
def State.recordOf (s : State) (id : TeamId) (r L : Nat) : Option (Load × LoadLane × Nat) :=
  (s.loads.reverse.findSome? fun ld =>
    if ld.hit id r then
      match ld.lane? L with
      | some l => if l.record (r - ld.d) then some (ld, l, r - ld.d) else none
      | none => none
    else none)
/-- Register `i` of a record's lane as a value of its own. -/
def regOf (x i : Nat) : Nat := x / 2 ^ (32 * i) % 2 ^ 32

/-- A lane of a GDEM as it is issued: each tinted register of its group has its kept value, waits for its record's answer, or under the address form is read again at w0 where it has no record; the first kept answer that is bad makes the lane's fault. -/
def State.gdemLane (s : State) (g : LaneGuard) (d regs L : Nat) (again : Option (Nat × Place)) : Option LoadLane :=
  let t := s.cur
  let rs := ((List.range regs).filter fun i => (t.vreg (d + i) L).tint).map fun i => (i, s.recordOf t.id (d + i) L)
  let links := rs.filterMap fun r => match r.2 with
    | some (ld, l, k) => if l.late then none else some (r.1, ld.key, k)
    | none => none
  let got := rs.filterMap fun r => match r.2 with
    | some (_, l, k) => if l.late then some (r.1, regOf l.value k) else none
    | none => none
  let bad := rs.findSome? fun r => r.2.bind fun x => if x.2.1.late then x.2.1.bad else none
  let re := if again.isSome then (rs.filter fun r => r.2.isNone).map Prod.fst else []
  let at_ : Nat × Place := match again, rs.findSome? fun r => r.2 with
    | some a, _ => a
    | none, some x => (x.2.1.addr, x.2.1.place)
    | none, none => (0, .nowhere)
  if links.isEmpty && got.isEmpty && re.isEmpty then none
  else
    let m := LoadLane.issue L at_.1 at_.2 false (t.forced g L)
    let due := !(links.isEmpty && re.isEmpty)
    some { m with bad, gd := some { links, got, again := re }, performed := re.isEmpty, st := if due then .waiting else .exact }
/-- The records that a GDEM demands. -/
def GdemLane.wants (rs : List (Nat × Option (Load × LoadLane × Nat))) (key : Nat) : List Nat :=
  rs.filterMap fun r => match r.2 with
    | some (ld, _, k) => if ld.key = key then some k else none
    | none => none
/-- A GDEM issues: its records are Demanded, and it writes its group once, when every lane has what it waits for (R169). -/
def State.gdem (s : State) (g : LaneGuard) (sp : Space) (w : Width) (signed : Bool) (d regs : Nat)
    (again : List (Nat × Nat × Place)) : State :=
  let t := s.cur
  let lanes := (t.activeLanes g).filterMap fun L => s.gdemLane g d regs L ((again.find? fun r => r.1 == L).map fun r => r.2)
  let recs := fun L => ((List.range regs).filter fun i => (t.vreg (d + i) L).tint).map fun i => (i, s.recordOf t.id (d + i) L)
  let demand := fun (key : Nat) (l : LoadLane) =>
    if t.active g l.lane then { l with dem := (GdemLane.wants (recs l.lane) key).foldl (fun m k => m ||| 2 ^ k) l.dem } else l
  let ld : Load := { s.newLoad .gdem sp w signed d regs lanes with keep := t.keepLanes g }
  let s1 := { s.bump with loads := (s.loads.map fun x => { x with lanes := x.lanes.map (demand x.key) }) ++ [ld] }
  if ld.ready && ld.badTrap.isNone then s1.writeLoad ld else s1
/-- A lane whose record's peer is lost raises peer-lost at the GDEM (R362, R418). -/
def State.gdemLost (s : State) (g : LaneGuard) (d regs : Nat) : Option Trap :=
  let t := s.cur
  let lost := (t.activeLanes g).filter fun L => (List.range regs).any fun i =>
    match s.recordOf t.id (d + i) L with
    | some (_, l, _) => l.bad == some cPeerLost
    | none => false
  match lost with
  | [] => none
  | L :: _ => some { Trap.lanesOf cPeerLost (((List.range regs).findSome? fun i =>
      (s.recordOf t.id (d + i) L).map fun r => r.2.1.addr).getD 0) lost with opnd := 256 * d + 1 }

def execGdemShort (o : GdemShortOps) (s : State) : Host.Outcome State Fault Refusal :=
  finish (match s.gdemLost o.g o.d.val 1 with
  | some tr => .trap s tr
  | none => .next (s.gdem o.g .g .w32 false o.d.val 1 []))
/-- The address form: a tinted address escapes, and the lanes without a record are checked before any is read (R154, R169). -/
def execGdemAddress (o : GdemAddrOps) (s : State) : Host.Outcome State Fault Refusal :=
  let t := s.cur
  finish (match s.addrEscape o.g (t.addrOps o.addr) with
  | some tr => .trap s tr
  | none => match s.gdemLost o.g o.d.val o.w.regs with
    | some tr => .trap s tr
    | none =>
      let need := (t.activeLanes o.g).filter fun L => (List.range o.w.regs).any fun i =>
        (t.vreg (o.d.val + i) L).tint && (s.recordOf t.id (o.d.val + i) L).isNone
      match s.checkLanes o.sp needR 1 o.w.bytes (need.map fun L => (L, (t.memAddr o.addr L).1)) with
      | .error tr => .trap s tr
      | .ok rs =>
        .next (s.gdem o.g o.sp o.w o.signed o.d.val o.w.regs rs))

/-! ### PREF (R172) -/

def execPref (o : PrefOps) (s : State) : Host.Outcome State Fault Refusal :=
  let t := s.cur
  let lanes := (t.activeLanes o.g).filterMap fun L =>
    let a := t.memAddr o.addr L
    match a.2, s.checkLane o.sp needR o.w.bytes a.1 with
    | false, .ok p => some (LoadLane.issue L a.1 p false false)
    | _, _ => none
  let s1 := if o.sp = .g then lanes.foldl (fun s l => s.fillTlb (s.coreOf t.id.gid) (s.ctxOf t) l.addr) s else s
  finish (.next (if lanes.isEmpty || (t.sys.gdrill && o.limit.val != 0) then s1
    else
      let ld : Load := { s.newLoad .pref o.sp o.w o.signed 0 0 lanes with limit := o.limit.val, written := true }
      { s1.bump with loads := s1.loads ++ [ld] }))

/-! ### The events of an access -/

/-- The expiry cycle of a load has passed: an answer that reaches the core in that cycle is still exact (R138). -/
def Load.pastLimit (ld : Load) (now : Nat) : Bool := ld.limit != 0 && (!ld.written || ld.kind == .pref) && decide (limitEnd ld.issued ld.limit < now)
/-- LOAD_EXPIRY, from the expiry cycle on: the guess sees the table before that cycle's training, and an answer of the same cycle is taken first, as `State.firstOf` has it (R8, R138, R141, R145, R146). -/
def execLoadExpiry (k : Nat) (s : State) : Host.Outcome State Fault Refusal :=
  .next (match s.load? k with
  | some ld =>
    if ld.limit ≠ 0 ∧ ld.written = false ∧ limitEnd ld.issued ld.limit ≤ s.clk then s.expire k else s
  | none => s)

/-- A lane of a GDEM with the registers that have come; it has its answer once nothing is due. -/
def LoadLane.gives (l : LoadLane) (g : GdemLane) (bad : Option Nat) : LoadLane :=
  { l with gd := some g, bad := l.bad.orElse fun _ => bad, st := if g.links.isEmpty && g.again.isEmpty then .exact else .waiting }
/-- The exact answer of a Waiting lane is in; one read of a GDEM serves every register of its group (R169). -/
def State.exactIn (s : State) (ld : Load) (m : LoadLane) : State :=
  match m.gd with
  | some g =>
    let g1 : GdemLane := { g with again := [], got := g.got ++ g.again.map fun i => (i, regOf m.value i) }
    s.modLoad ld.key fun ld => ld.setLane ({ m with bad := none }.gives g1 m.bad)
  | none => State.pruneLoads (s.modLoad ld.key fun ld => ld.setLane { m with st := .exact })

/-- A late answer reaches the GDEM lanes that wait for it. -/
def State.feedGdem (s : State) (k : Nat) (m : LoadLane) : State :=
  let f := fun l : LoadLane => match l.gd with
    | some g =>
      let mine := g.links.filter fun x => x.2.1 == k
      if l.lane == m.lane && l.st == .waiting && !mine.isEmpty then
        l.gives { g with links := (g.links.filter fun x => x.2.1 != k), got := g.got ++ mine.map fun x => (x.1, regOf m.value x.2.2) } m.bad
      else l
    | none => l
  { s with loads := s.loads.map fun ld => if ld.kind = .gdem then { ld with lanes := ld.lanes.map f } else ld }
/-- The late answer of an Expired or Abandoned lane is in. -/
def State.lateIn (s : State) (ld : Load) (m : LoadLane) : State :=
  let m := { m with late := true }
  State.pruneLoads ((s.modLoad ld.key fun ld => ld.setLane m).feedGdem ld.key m)
/-- The answer of a lane is in: exact where it waits, late where it has expired or been abandoned (R141). -/
def State.answerIn (s : State) (ld : Load) (m : LoadLane) : State :=
  match m.st with
  | .waiting => (s.train ld m).exactIn ld m
  | .expired | .abandoned => (s.train ld m).lateIn ld m
  | _ => s
/-- The lane's answer may come: it is due to arrive, and not a GDEM's that only waits for records. -/
def LoadLane.open_ (l : LoadLane) : Bool :=
  (match l.gd with
    | some g => !g.again.isEmpty
    | none => true)
  && (l.st == .waiting || ((l.st == .expired || l.st == .abandoned) && !l.late))
/-- An answer reaches a lane of a load. -/
def State.arriveLane (s : State) (k L : Nat) (remote : Reply) (late : Bool) : State :=
  match s.load? k with
  | none => s
  | some ld => match ld.lane? L with
    | none => s
    | some l =>
      if !l.open_ || (l.st != .waiting) != late then s
      else match s.answer ld l remote with
        | none => s
        | some (s1, m) => s1.answerIn ld m
/-- EXACT_ANSWER_ARRIVAL (R141): one after the expiry cycle finds the load expired, and a PREF abandoned (R138, R172). -/
def execExactAnswerArrival (k L : Nat) (remote : Reply) (s : State) : Host.Outcome State Fault Refusal :=
  .next (match s.load? k with
  | none => s
  | some ld =>
    if ld.pastLimit s.clk && ld.kind == .pref then { s with loads := s.loads.filter fun x => x.key != k }
    else if ld.pastLimit s.clk then
      let s1 := s.expire k
      (s1.arriveLane k L remote true).arriveLane k L remote false
    else s.arriveLane k L remote false)
/-- LATE_ANSWER_ARRIVAL (R141). -/
def execLateAnswerArrival (k L : Nat) (remote : Reply) (s : State) : Host.Outcome State Fault Refusal :=
  .next (s.arriveLane k L remote true)

/-- The fault of a load waits in its team, and the write does not take place (R418). -/
def State.deferFault (s : State) (ld : Load) (tr : Trap) (at_ : FaultAt) : State :=
  State.pruneLoads ((s.modTeam ld.team fun t =>
    if t.state = .exiting || t.state == .retired then t else { t with deferred := t.deferred ++ [{ trap := tr, at_ }] }).modLoad ld.key
      fun ld => { ld with written := true, lanes := (ld.lanes.map LoadLane.drop) })

/-- The registers that the next instruction of an open clause uses; none where it does not decode. -/
def Team.nextUses (t : Team) : List Reg :=
  let e : Env := { regs := t.regs, accs := t.accs, lanes := t.lanes, teams := t.teams, idx := t.id.idx }
  match t.clause.bind fun c => c.words[c.idx]? with
  | none => []
  | some w => match decodeWord e w with
    | .ok i => usesOf e i
    | .error _ => []
/-- The team stands where a fault of a load is taken: at a boundary, or at an instruction held on a register of the load (R418). A load's fault becomes known there (log 26). -/
def State.stands (s : State) (ld : Load) : Bool :=
  match s.team? ld.team with
  | none => true
  | some t => t.clause.isNone || t.nextUses.any fun r => (vRun ld.d ld.regs).contains r
/-- The team takes no fault and is reported with none: it is in Exiting, or gone (R89, R418). -/
def State.leaving (s : State) (id : TeamId) : Bool :=
  match s.team? id with
  | none => true
  | some t => t.state == .exiting || t.state == .retired

/-- A load writes its destination, or defers its fault; a poisoned answer is POISON_CONSUMED's (R143, R418). -/
def State.destWrite (s : State) (ld : Load) : State :=
  if !ld.ready then s
  else match ld.badTrap with
    | none => s.writeLoad ld
    | some tr => if tr.cause = cPoisoned ∨ s.stands ld = false then s else s.deferFault ld tr .stand
/-- A read or AtomicOp of the host that a peer has answered completes: with its bytes, or with Unsupported Request where a byte is poisoned, denied or lost (R374, log 20). -/
def State.hostGives (s : State) (ld : Load) : State :=
  if ld.lanes.any fun l => l.st == .waiting then s
  else
    let s1 : State := { s with loads := s.loads.filter fun x => x.key != ld.key }
    match ld.lanes.find? fun l => l.bad.isSome with
    | some l =>
      let s2 := if l.bad = some cPoisoned then s1.post (Report.bare ld.ctx 0x03 cPoisoned l.addr) else s1
      { s2 with hostReply := .unsupported }
    | none => { s1 with hostReply := .value (ld.lanes.flatMap fun l => leBytes ld.w.bytes l.value) }
/-- LOAD_DESTINATION_WRITE (R143, R418). -/
def execLoadDestinationWrite (k : Nat) (s : State) : Host.Outcome State Fault Refusal :=
  .next (match s.load? k with
  | none => s
  | some ld => if ld.team = hostId then s.hostGives ld else s.destWrite ld)

/-- A load's fault for poisoned data, with its report, which holds the $fpc of the trap; nothing of a team that is leaving is reported (R89, R311, R331). -/
def State.poisonFault (s : State) (ld : Load) (tr : Trap) (at_ : FaultAt) : State :=
  let s1 := s.deferFault ld tr at_
  if s.leaving ld.team then s1
  else s1.post { Report.from_ ld.hdr ld.ctx 0x03 cPoisoned tr.addr with
    pc := ((s.team? ld.team).map fun t => (pcBits t.standAddr).toNat).getD 0, lanes := tr.lanes, opnd := tr.opnd }
/-- POISON_CONSUMED: a load whose answer was poisoned faults, and its context is reported (R331, R418). -/
def execPoisonConsumed (k : Nat) (s : State) : Host.Outcome State Fault Refusal :=
  .next (match s.load? k with
  | none => s
  | some ld =>
    if !ld.ready then s
    else match ld.badTrap with
      | none => s
      | some tr =>
        if tr.cause ≠ cPoisoned ∨ s.stands ld = false then s
        else s.poisonFault ld tr .stand)

/-- SCOREBOARD_RELEASE: a producer of a team has its result, writes it, and the held instruction may proceed (R49). -/
def execScoreboardRelease (id : TeamId) (s : State) : Host.Outcome State Fault Refusal :=
  .next (match s.team? id with
  | none => s
  | some t => match t.sf with
    | r :: _ => s.sfDone id r.key
    | [] => match s.loads.find? fun ld => ld.team == id && ld.ready with
      | some ld => s.destWrite ld
      | none => s)

/-! ### Reads that an instruction or an engine makes for itself (R189, R198, R231) -/

/-- The load of `n` bytes of a range of runs, 8 bytes a lane. -/
def wordLanes (runs : List (Place × Nat)) (a n : Nat) : List LoadLane :=
  (List.range (n / 8)).map fun i => LoadLane.issue i (a + 8 * i) (runPlace runs (8 * i)) false false
/-- A read of the engine is in flight. -/
def State.matLoad (s : State) (runs : List (Place × Nat)) (a n : Nat) : State × Nat :=
  let ld : Load := s.newLoad .mat .g .w64 false 0 0 (wordLanes runs a n)
  ({ s.bump with loads := s.loads ++ [ld] }, ld.key)
/-- Every lane of a read of the engine that is due and local is performed, in order, where the order allows it (R180). -/
def State.feedMat (s : State) (k : Nat) : State :=
  match s.load? k with
  | none => s
  | some ld => (ld.lanes.map LoadLane.lane).foldl (fun s L => match s.load? k with
    | none => s
    | some ld => match ld.lane? L with
      | none => s
      | some l =>
        if l.performed || l.place.isPeer || !s.laneOk ld l then s
        else
          let r := s.doLanes ld l
          r.1.modLoad k fun ld => ld.setLane { r.2 with st := .exact }) s
/-- All lanes of a read have their values. -/
def State.matReady (s : State) (k : Nat) : Option Load :=
  match s.load? k with
  | none => none
  | some ld => if ld.lanes.all LoadLane.performed then some ld else none
def State.dropLoad (s : State) (k : Nat) : State := { s with loads := s.loads.filter fun ld => ld.key != k }
/-- The bytes of a read of 8-byte lanes. -/
def matBytes (ld : Load) : List Byte := ld.lanes.flatMap fun l => leBytes 8 l.value

/-- An instruction that ends in a trap leaves no read in flight. -/
def State.dropMine (s : State) : State :=
  { s with loads := s.loads.filter fun ld => !(ld.kind == .mat && ld.team == s.cur.id && ld.seq == s.cur.seq) }
/-- A plain w0 read at issue that the instruction waits for: the read when every lane has its value, none while it is due. -/
def State.readFirst (s : State) (need : Need) (a n : Nat) : Except Trap (State × Option Load) :=
  let done := fun (s : State) (k : Nat) =>
    let s1 := s.feedMat k
    match s1.matReady k with
    | none => (s1, none)
    | some ld => (s1.dropLoad k, some ld)
  match s.loads.find? fun ld => ld.kind == .mat && ld.team == s.cur.id && ld.seq == s.cur.seq with
  | some ld => .ok (done s ld.key)
  | none => match s.locateRange .g need a (pagesIn n) n with
    | .error (f, va) => .error (xTrap f 1 va [])
    | .ok runs =>
      let r := s.matLoad runs a n
      .ok (done r.1 r.2)
/-- The trap of such a read; one for poisoned data is reported too, with the address of its instruction (R311, R331). -/
def State.readTrap (s : State) (tr : Trap) : Eff :=
  let s1 := s.dropMine
  .trap (if tr.cause = cPoisoned ∧ tr.why ≠ 3 then
      s1.post { s1.reportFor s1.cur.id (s1.ctxOf s1.cur) 0x03 cPoisoned tr.addr with
        pc := s1.cur.instrAddr.toNat, lanes := tr.lanes, opnd := tr.opnd }
    else s1) tr

end Sys2Proof.Machine
end

