-- ==== Sys2Proof/Machine/Tensor.lean ====
section
/-! DEFINITION. Tensor layout records: their fields, acceptance, shards and addresses, and the checks every handle goes through (R173-R178). -/

namespace Sys2Proof.Machine


def Tlr.word (t : Tlr) (w : Nat) : Nat := nth 0 t w
def tlrOf (bs : List Byte) : Tlr := (List.range 32).map fun w => fromBytes ((bs.drop (8 * w)).take 8)
def Tlr.v (t : Tlr) : Bool := (t.word 0).testBit 63
def Tlr.ctx (t : Tlr) : Nat := bitsAt (t.word 0) 32 16
def Tlr.rank (t : Tlr) : Nat := bitsAt (t.word 0) 29 3
def Tlr.fmtCode (t : Tlr) : Nat := bitsAt (t.word 0) 24 5
def Tlr.blk (t : Tlr) : Nat := bitsAt (t.word 0) 16 8
def Tlr.base (t : Tlr) : Nat := bitsAt (t.word 1) 0 57
def Tlr.scbase (t : Tlr) : Nat := bitsAt (t.word 2) 0 57
def Tlr.tscale (t : Tlr) : Lane := BitVec.ofNat 32 (t.word 4)
def Tlr.ext (t : Tlr) (d : Nat) : Nat := bitsAt (t.word (5 + d / 2)) (32 * (d % 2)) 32
def Tlr.stride (t : Tlr) (d : Nat) : Int := toSigned 48 (bitsAt (t.word (8 + d)) 0 48)
def Tlr.nax (t : Tlr) : Nat := bitsAt (t.word 14) 0 3
def Tlr.asize (t : Tlr) (a : Nat) : Nat := bitsAt (t.word 14) (8 + 4 * a) 4 + 1
def Tlr.split (t : Tlr) (a : Nat) : Bool := (t.word 15).testBit (4 * a + 3)
def Tlr.adim (t : Tlr) (a : Nat) : Nat := bitsAt (t.word 15) (4 * a) 3
def Tlr.peer (t : Tlr) (m : Nat) : Nat := bitsAt (t.word 16) (4 * m) 4
def Tlr.sbase (t : Tlr) : Nat := bitsAt (t.word 17) 0 57
def Tlr.sstep (t : Tlr) : Nat := bitsAt (t.word 18) 0 57
def Tlr.axes (t : Tlr) : List Nat := List.range t.nax
/-- The number of mesh ranks, P. -/
def Tlr.ranks (t : Tlr) : Nat := t.axes.foldl (fun p a => p * t.asize a) 1
/-- Fd: the product of the sizes of the axes that split a dimension. -/
def Tlr.parts (t : Tlr) (d : Nat) : Nat :=
  t.axes.foldl (fun f a => if t.split a && t.adim a == d then f * t.asize a else f) 1

/-- The element format of a code, where a record may hold it (R175). -/
def tlrFmt : Nat → Option Fmt
  | 0 => some .i8 | 1 => some .i16 | 2 => some .i32 | 4 => some .n8 | 5 => some .n16 | 6 => some .n32
  | 10 => some .f32 | 11 => some .f16 | 12 => some .bf16 | 13 => some .e4m3 | 14 => some .e5m2 | 15 => some .e2m1
  | 16 => some .mxe4m3 | 17 => some .mxe5m2 | 18 => some .mxe2m1 | 19 => some .q4 | 20 => some .t2
  | _ => none
def Tlr.fmt (t : Tlr) : Option Fmt := tlrFmt t.fmtCode
/-- BLK is legal for the format. -/
def blkOk (f : Fmt) (b : Nat) : Bool :=
  match f with
  | .q4 => b == 32 || b == 128
  | f => if f.isMx then b == 32 else b == 0
/-- The zero fields of a record are zero. -/
def Tlr.zeros (t : Tlr) : Bool :=
  bitsAt (t.word 0) 48 15 == 0 && bitsAt (t.word 0) 0 16 == 0
    && [1, 2, 3, 17, 18].all (fun w => decide (t.word w < 2 ^ 57)) && decide (t.word 4 < 2 ^ 32)
    && (List.range 6).all (fun d => decide (t.word (8 + d) < 2 ^ 48))
    && decide (t.word 14 < 2 ^ 24) && bitsAt (t.word 14) 3 5 == 0 && decide (t.word 15 < 2 ^ 16)
    && (List.range 13).all fun i => t.word (19 + i) == 0
/-- No value is listed twice. -/
def distinct : List Nat → Bool
  | [] => true
  | x :: l => !l.contains x && distinct l
/-- The conditions under which SETTLR accepts a valid record (R175). -/
def Tlr.ok (t : Tlr) : Bool :=
  match t.fmt with
  | none => false
  | some f =>
    t.zeros && decide (1 ≤ t.rank) && decide (t.rank ≤ 6) && blkOk f t.blk
      && (List.range 6).all (fun d => if d < t.rank then decide (1 ≤ t.ext d) else t.ext d == 1)
      && (decide (8 ≤ f.bits) || (t.stride 0 == 1 &&
        (List.range 6).all fun d => d == 0 || t.stride d % ((8 / f.bits : Nat) : Int) == 0))
      && decide (t.nax ≤ 4) && decide (t.ranks ≤ 16)
      && t.axes.all (fun a => !t.split a || decide (t.adim a < t.rank))
      && (List.range 6).all (fun d => t.ext d % t.parts d == 0)
      && distinct ((List.range t.ranks).map t.peer)
      && (List.range 16).all (fun m => decide (m < t.ranks) || t.peer m == 0)
      && (t.nax != 0 || (t.word 15 == 0 && t.word 16 == 0 && t.word 17 == 0 && t.word 18 == 0))

/-! ### Shards (R177) -/

/-- The coordinate of mesh rank `m` on axis `a`: mixed radix, axis 0 most significant. -/
def Tlr.axisAt (t : Tlr) (m a : Nat) : Nat :=
  m / ((t.axes.filter fun b => decide (a < b)).foldl (fun p b => p * t.asize b) 1) % t.asize a
/-- The combined coordinate of the axes that split a dimension, the lower-numbered more significant. -/
def Tlr.shardAt (t : Tlr) (m d : Nat) : Nat :=
  t.axes.foldl (fun s a => if t.split a && t.adim a == d then s * t.asize a + t.axisAt m a else s) 0
/-- The local extent of a dimension. -/
def Tlr.lext (t : Tlr) (d : Nat) : Nat := t.ext d / t.parts d
/-- The mesh rank of a package, where it holds a shard; an unsharded record has one everywhere. -/
def Tlr.meshRank (t : Tlr) (rank : Nat) : Option Nat :=
  if t.nax = 0 then some 0 else (List.range t.ranks).find? fun m => t.peer m == rank
/-- The base of the elements that a package holds as mesh rank `m`. -/
def Tlr.baseOf (t : Tlr) (m : Nat) : Nat := if t.nax = 0 then t.base else t.sbase + m * t.sstep
/-- The element offset of local coordinates (R176). -/
def Tlr.offset (t : Tlr) (cs : List Nat) : Int :=
  cs.zipIdx.foldl (fun o p => o + p.1 * t.stride p.2) 0
/-- The byte address of an element and the position of its bits in the byte (R176). -/
def Tlr.addr (t : Tlr) (bits base : Nat) (cs : List Nat) : Nat × Nat :=
  let o := t.offset cs * (bits : Int)
  (wrapTo 64 (base + o / 8), (o % 8).toNat)
/-- The address of the scale byte of an MX block of dimension 0 (R176). -/
def Tlr.scaleAddr (t : Tlr) (block c1 : Nat) : Nat :=
  wrapTo 64 (t.scbase + block + ceilDiv (t.lext 0) 32 * c1)

/-! ### The handle (R173, R178) -/

/-- The place of a record in memory. -/
def State.tlrPlace (s : State) (c : Ctx) (h : Nat) : Option Nat :=
  let va := c.table + 256 * h
  match s.walk c.root va with
  | .ok e => some (pteFrame e + va % sizeBytes (pteSize e))
  | .error _ => none
/-- A record as a core reads it: its cached copy, or the table's bytes. -/
def State.tlrBytes (s : State) (core : Nat) (c : Ctx) (h : Nat) : Option (List Byte) :=
  match (s.coreAt core).tlr.find? fun l => l.ctx == c.id && l.handle == h with
  | some l => some l.bytes
  | none => (s.tlrPlace c h).map fun a => s.physRead a 256
/-- The record is cached, among at most 64. -/
def State.tlrCache (s : State) (core : Nat) (c : Ctx) (h : Nat) : State :=
  match s.tlrBytes core c h with
  | none => s
  | some bs => s.modCore core fun k =>
    { k with tlr := (({ ctx := c.id, handle := h, bytes := bs } : TlrLine) ::
        k.tlr.filter fun l => !(l.ctx == c.id && l.handle == h)).take 64 }
/-- Checks 1 and 2 of a handle, in their order. -/
def State.tlrCheck (s : State) (core slot h : Nat) : Except Trap Tlr :=
  match s.ctx? slot with
  | none => .error (Trap.of cTensorRecord h)
  | some c =>
    if c.tableLen ≤ h then .error (Trap.of cTensorRecord h)
    else match s.tlrBytes core c h with
      | none => .error (Trap.of cTensorRecord h)
      | some bs =>
        let t := tlrOf bs
        if !t.v then .error (Trap.of cTensorRecord h)
        else if t.ctx ≠ c.id then .error (Trap.of cTensorContext h)
        else .ok t
/-- The record of a handle for the team in focus. -/
def State.tlr (s : State) (h : Nat) : Except Trap Tlr := s.tlrCheck (s.coreOf s.cur.id.gid) (s.ctxOf s.cur) h
def State.cacheHandle (s : State) (h : Nat) : State :=
  match s.ctx? (s.ctxOf s.cur) with
  | some c => s.tlrCache (s.coreOf s.cur.id.gid) c h
  | none => s

end Sys2Proof.Machine
end

