-- ==== Sys2Proof/Machine/Barrier.lean ====
section
/-! DEFINITION. Barrier objects at their homes: states, phases, waiters, bindings and held requests, and the instructions that act on them (R206-R213, R221-R227, R233, R365). -/

namespace Sys2Proof.Machine

/-! ### The object (R206) -/

/-- The fields of a barrier object. -/
structure BarObj where
  inb : Int
  outb : Int
  exp : Nat
  pend : Nat
  gen : Nat
  bk : Nat
  w : Bool
  fl : Bool
  bid : Nat
  deriving DecidableEq, Repr

def BarObj.ofWords (w0 w1 : Nat) : BarObj :=
  { inb := toSigned 32 (bitsAt w0 32 32), exp := bitsAt w0 16 16, pend := bitsAt w0 0 16,
    outb := toSigned 32 (bitsAt w1 32 32), gen := bitsAt w1 28 4, bk := bitsAt w1 26 2,
    w := w1.testBit 25, fl := w1.testBit 24, bid := bitsAt w1 12 12 }
def BarObj.word0 (b : BarObj) : Nat := wrapTo 32 b.inb * 2 ^ 32 + b.exp * 2 ^ 16 + b.pend
def BarObj.word1 (b : BarObj) : Nat :=
  wrapTo 32 b.outb * 2 ^ 32 + b.gen * 2 ^ 28 + b.bk * 2 ^ 26 + b2n b.w * 2 ^ 25 + b2n b.fl * 2 ^ 24 + b.bid * 2 ^ 12
/-- A count stays in 32 bits, two's complement (R210). -/
def countOk (x : Int) : Bool := decide (-(2 ^ 31) ≤ x) && decide (x ≤ 2 ^ 31 - 1)

/-- The object at a place, unless it is Plain: its bytes are guarded exactly while it is Live or Failed (R209, R210). -/
def State.bar? (s : State) (o : ObjLoc) : Option BarObj :=
  if s.placeGuarded o.place 16 then
    let bs := s.placeRead o.place 16
    some (BarObj.ofWords (fromBytes (bs.take 8)) (fromBytes (bs.drop 8)))
  else none
/-- The home writes the object's words. -/
def State.putWords (s : State) (o : ObjLoc) (w0 w1 : Nat) : State :=
  let s1 := s.placeWrite o.place (leBytes 8 w0 ++ leBytes 8 w1)
  match o with
  | .phys a => s1.fireIf (condAt a 16)
  | _ => s1
def State.putBar (s : State) (o : ObjLoc) (b : BarObj) : State := s.putWords o b.word0 b.word1

/-! ### Waiters and bindings -/

/-- The home wakes every waiter of an object: blocked teams, parked groups and teams of peers (R210, R211). -/
def State.wakeObj (s : State) (o : ObjLoc) (fail : Option Nat) : State :=
  let wake := fun t : Team => match t.wait with
    | some w => if w.obj = o ∧ w.answer = none ∧ t.state = .blocked then { t with wait := some { w with answer := some fail } } else t
    | none => t
  let rise := fun g : Group =>
    if (g.state = .parked ∨ g.state = .saving) ∧ (g.wakes.any fun w => match w with
        | .object p _ => p == o
        | _ => false) = true then { g with awake := true } else g
  let rest := s.remoteWaits.filter fun w => .phys w.obj != o
  { s.mapTeams wake with groups := s.groups.map rise, remoteWaits := rest }
/-- A BBIND that its object's home still holds has not bound it (R210). -/
def State.bindHeld (s : State) (k : Nat) : Bool := s.groups.any fun g => g.held.any fun r => match r.op with
  | .bind j => j == k
  | _ => false
/-- The binding of an object, and its freeing at both homes (R213). -/
def State.bindOf (s : State) (o : ObjLoc) : Option Binding := s.binds.find? fun b => b.obj == o && !s.bindHeld b.key
def State.releaseBind (s : State) (o : ObjLoc) : State := { s with binds := s.binds.filter fun b => b.obj != o || s.bindHeld b.key }
/-- An object in a Live state is written, after its phase is completed where the condition holds (R211). -/
def State.settle (s : State) (o : ObjLoc) (b : BarObj) : State :=
  let bound := b.bk == 0 || match s.bindOf o with
    | some x => x.satisfied
    | none => false
  if b.pend = 0 ∧ b.inb = 0 ∧ b.outb = 0 ∧ bound = true then
    ((s.releaseBind o).putBar o { b with gen := (b.gen + 1) % 16, pend := b.exp, bk := 0, bid := 0, w := false }).wakeObj o none
  else s.putBar o b

/-- What the home answers to an operation. -/
inductive BarOut where
  | done
  | gen (g : Nat)
  | test (b : Bool)
  | block
  | complete
  | failed (c : Nat)
  | fault (c : Nat)
  deriving DecidableEq, Repr

/-- An object that enters Failed (R210): its waiters wake with failure, the binding is freed and the object is reported. -/
def State.failObj (s : State) (o : ObjLoc) (b : BarObj) (ctx va : Nat) : State :=
  let s1 := (s.releaseBind o).putBar o { b with fl := true, bk := 0, bid := 0, w := false }
  (s1.wakeObj o (some cBarCount)).post (Report.bare ctx 0x05 cBarCount va)

/-- The code of a binding kind in BK (R206). -/
def bindCode : BindKind → Nat
  | .tl => 1 | .chunk => 2 | .watch => 3

/-- One operation applied at the home of an object that is on this package (R210, R211, R225, R226). -/
def State.barApply (s : State) (o : ObjLoc) (ctx va : Nat) (op : BarOp) : State × BarOut :=
  match s.bar? o with
  | none => match op with
    | .init n =>
      let b : BarObj := { inb := 0, outb := 0, exp := n, pend := n, gen := 0, bk := 0, w := false, fl := false, bid := 0 }
      ((s.setGuard o.place true).putBar o b, .done)
    | .inv => (s, .done)
    | .count _ _ => (s, .done)
    | .bind k => ({ s with binds := s.binds.filter fun b => b.key != k }, .fault cBarState)
    | _ => (s, .fault cBarState)
  | some b =>
    match op with
    | .init n =>
      if !b.fl && b.w then (s, .fault cBarLive)
      else
        let c : BarObj := { inb := 0, outb := 0, exp := n, pend := n, gen := 0, bk := 0, w := false, fl := false, bid := 0 }
        ((s.releaseBind o).putBar o c, .done)
    | .inv =>
      let s1 := ((s.releaseBind o).putWords o 0 0).setGuard o.place false
      (if b.fl then s1 else s1.wakeObj o (some cBarInvalidated), .done)
    | .arrive =>
      if b.fl then (s, .fault cBarState)
      else if b.pend = 0 then (s, .fault cBarExcess)
      else (s.settle o { b with pend := b.pend - 1 }, .gen b.gen)
    | .expect out n =>
      if b.fl then (s, .fault cBarState)
      else
        let x := (if out then b.outb else b.inb) + n
        if !countOk x then (s, .fault cBarCount)
        else (s.settle o (if out then { b with outb := x } else { b with inb := x }), .done)
    | .count out n =>
      if b.fl then (s, .done)
      else
        let x := (if out then b.outb else b.inb) - n
        if !countOk x then (s.failObj o b ctx va, .done)
        else (s.settle o (if out then { b with outb := x } else { b with inb := x }), .done)
    | .bind k =>
      if b.fl || b.bk != 0 then ({ s with binds := s.binds.filter fun b => b.key != k }, .fault cBarState)
      else match s.binds.find? fun x => x.key == k with
        | none => (s, .done)
        | some x => (s.settle o { b with bk := bindCode x.kind, bid := x.bid }, .done)
    | .wait p =>
      if b.fl then (s, .failed cBarCount)
      else if b.gen ≠ p then (s, .complete)
      else (s.putBar o { b with w := true }, .block)
    | .test p => if b.fl then (s, .test true) else (s, .test (b.gen != p))

/-- The home rejects what an operation would write into an object inside a registered combiner object: the bytes stay (R335; DESIGN CHOICE, log 96). -/
def State.barRejected (s s' : State) (o : ObjLoc) : Bool :=
  match o with
  | .phys a => (s.regOver a 16).isSome && s'.placeRead o.place 16 != s.placeRead o.place 16
  | _ => false
/-- One operation at an object's home; a rejected one is reported to its context, binds nothing and answers as if it had been made (R335). -/
def State.barOp (s : State) (o : ObjLoc) (h : ReqHdr) (ctx va : Nat) (op : BarOp) : State × BarOut :=
  let r := s.barApply o ctx va op
  if s.barRejected r.1 o then
    let s1 := s.post (Report.from_ h ctx 0x02 0x41 va)
    match op with
    | .bind k => ({ s1 with binds := s1.binds.filter fun b => b.key != k }, r.2)
    | _ => (s1, r.2)
  else r

/-! ### Held requests (R210, R265) -/

/-- The answer to a held request reaches its team: a result is written, a fault waits for the next clause start. -/
def State.deliverHeld (s : State) (r : HeldReq) (va : Nat) (a : BarOut) : State :=
  match r.team with
  | none => s
  | some id =>
    s.modTeam id fun t =>
      let free := fun (u : Team) (x : Reg) => { u with heldRegs := u.heldRegs.filter (· != x) }
      match r.op, a with
      | .arrive, .gen g => free { t with s := t.s.set SCell.zero r.d { val := BitVec.ofNat 64 g, tint := false } } (.s r.d)
      | .test _, .test b => free { t with q := t.q.set PCell.zero r.d { val := b, tint := r.tint } } (.q r.d)
      | .wait _, .complete => { t with wait := t.wait.map fun w => { w with answer := some none } }
      | .wait _, .failed c => { t with wait := t.wait.map fun w => { w with answer := some (some c) } }
      | op, .fault c =>
        let u := match op with
          | .arrive => free t (.s r.d)
          | .test _ => free t (.q r.d)
          | _ => t
        if u.state = .exiting ∨ u.state = .retired then u else { u with deferred := u.deferred ++ [{ trap := Trap.of c va, at_ := .clause }] }
      | _, _ => t
/-- The home applies the requests that it held for an object, in arrival order: each leaves the list as it is applied. -/
def State.applyHeld (s : State) (gid : Nat) (sp : Space) (off : Nat) : State :=
  let here := fun r : HeldReq => r.sp == sp && r.off == off
  let first := fun (s : State) => (s.group? gid).bind fun g => (g.held.find? here).map fun r => (g.ctx, r)
  let n := match s.group? gid with
    | some g => (g.held.filter here).length
    | none => 0
  (List.range n).foldl (fun s _ => match first s with
    | none => s
    | some (ctx, r) =>
      let s1 := s.modGroup gid fun g => { g with held := g.held.erase r }
      let x := s1.barOp (.scratch gid sp off) ReqHdr.nobody ctx off r.op
      x.1.deliverHeld r off x.2) s
def State.hold_ (s : State) (gid : Nat) (r : HeldReq) : State :=
  s.modGroup gid fun g => { g with held := g.held ++ [r] }

/-! ### Addresses and places of objects (R207, R221) -/

/-- The frame that a window gives lies in the die-scratchpad range (R207, R315). -/
def inDieScratch (a : Nat) : Bool :=
  (List.range 4).any fun d => decide (scratchBase d ≤ a) && decide (a < scratchBase d + scratchSize)
/-- A .g page that fits a scope: the die-scratchpad kind on the team's die, on this package, or anywhere in the pod (R207). -/
def State.scopeOk (s : State) (sc : Scope) (x : Xlat) : Bool :=
  match x.place with
  | .phys a => pteKind x.pte == 1 && (sc != .die || physDie a == pcoreDie (s.coreOf s.cur.id.gid))
  | .peer _ a => sc == .pod && inDieScratch a
  | _ => false
def Place.obj : Place → ObjLoc
  | .scratch gid sp off => .scratch gid sp off
  | .phys a => .phys a
  | .peer r a => .peer r a
  | .nowhere => .phys 0
/-- The object address: its alignment, its range or translation with R and W, then its row of R207; every fault holds the address (R221, R234). -/
def State.objAt (s : State) (o : ObjSpace) (a : Nat) : Except Trap ObjLoc :=
  if a % 16 ≠ 0 then .error (Trap.of cMisaligned a)
  else match s.locate o.sp needRW a 16 with
    | .error f => .error { xTrap f 3 a [] with addr := a }
    | .ok x =>
      if o.sp = .g ∧ s.scopeOk o.scope x = false then .error (Trap.of cBarState a) else .ok x.place.obj
/-- A barrier of CPY, CPYT or TMOV: a .g address takes the scope of its page (R228). -/
def State.barAt (s : State) (sp : Space) (a : Nat) : Except Trap ObjLoc := s.objAt { sp, scope := .pod } a

/-- The home that holds an object's binding table, and its entries (R207). -/
def State.objHome (s : State) (o : ObjLoc) : Nat × Nat :=
  match o with
  | .scratch gid .k _ => (s.coreOf gid, 32)
  | .scratch gid .q _ => (4096 + quadKey (s.coreOf gid), 64)
  | .scratch gid _ off => (8192 + s.servedBy (24 * pcoreDie (s.coreOf gid) + off / 256 % 24), 256)
  | .phys a => (8192 + s.homeMsu a, 256)
  | .peer r _ => (16384 + r, 2 ^ 32)
/-- The home that makes the comparison, and its arming entries (R213). -/
def State.condHome (s : State) (c : BindCond) : Nat × Nat :=
  match c with
  | .engine gid _ _ | .chunk gid _ _ _ => (s.coreOf gid, 32)
  | .memTl a _ | .watch a _ => (8192 + s.homeMsu a, 256)
  | .peer r _ => (16384 + r, 2 ^ 32)
/-- Both tables have a free entry; BID is the lowest free number at the object's home. -/
def State.bindRoom (s : State) (o : ObjLoc) (c : BindCond) : Option Nat :=
  let h := s.objHome o
  let mine := s.binds.filter fun b => (s.objHome b.obj).1 == h.1
  let k := s.condHome c
  let armed := s.binds.filter fun b => (s.condHome b.cond).1 == k.1
  if mine.length < h.2 ∧ armed.length < k.2 then
    (List.range (mine.length + 1)).find? fun i => mine.all fun b => b.bid != i
  else none

/-! ### Objects of a peer (R365) -/

/-- A barrier operation travels to a peer, and the instruction stands until the answer has come (R265); a counted one holds an outstanding entry (R292). -/
def State.viaPeer (s : State) (r va : Nat) (counted : Bool) (k : State → BarrierAnswer → Eff) : Eff :=
  let id := s.cur.id
  match s.sent.find? fun b => b.team == id with
  | some b => match b.answer with
    | none => .hold s
    | some a => k { s with sent := s.sent.filter fun b => b.team != id } a
  | none =>
    let core := s.coreOf id.gid
    let kid := s.kidOf s.cur
    if counted && !s.outOk core kid then .hold s
    else
      let s1 := if counted then s.outUp core kid else s
      let b : BarSent := { key := s1.nextKey, team := id, seq := s1.cur.seq, rank := r, va, core, kid, counted, answer := none, ctx := s1.ctxOf s1.cur, hdr := s1.hdrOf id }
      .hold { (s1.signalTo core (.peer r 0)).bump with sent := s1.sent ++ [b] }

/-- A .g operation on this package counts only while it is on its way (R292). -/
def State.gRoom (s : State) (sp : Space) : Bool := sp != .g || s.outOk (s.coreOf s.cur.id.gid) (s.kidOf s.cur)
/-- A fault of this chapter, with the object's address (R234). -/
def barFault (s : State) (c va : Nat) : Eff := .trap s (Trap.of c va)
/-- An RSH of the team is still to raise its expectation on the object, which comes before the team's later operations there (R384). -/
def State.barExpected (s : State) (o : ObjLoc) : Bool :=
  match o with
  | .phys a => (s.plans.any fun p => p.team == s.cur.id && p.bar == some a)
    || s.asks.any fun q => q.team == s.cur.id && q.bar == some a
  | _ => false
/-- The instruction waits for its team's earlier acquires, and for an expectation of its own RSH (R242, R384). -/
def State.barDue (s : State) (o : ObjLoc) : Bool := s.barExpected o || s.acqHold s.cur.id s.cur.seq
/-- The request of the team in focus reaches an object's home (R14, R167). -/
def State.reachBar (s : State) (o : ObjLoc) : State :=
  let core := s.coreOf s.cur.id.gid
  (s.signalTo core o.place).recallFor core o.place 16
/-- The request stands at the object's home: held for a Plain object of the group's own, applied otherwise, or sent to the peer. -/
def State.barrier (s : State) (o : ObjLoc) (sp : Space) (va d : Nat) (counted : Bool) (op : BarOp)
    (held : State → Eff) (k : State → BarOut → Eff) (tint : Bool := false) : Eff :=
  let isInit := match op with
    | .init _ | .inv => true
    | _ => false
  if s.barDue o then .hold s
  else match o with
  | .peer r _ => s.viaPeer r va counted fun s a => match a with
    | .done => k s .done
    | .gen g => k s (.gen g)
    | .test b => k s (.test b)
    | .block => k s .block
    | .wake none => k s .complete
    | .wake (some c) => k s (.failed c)
    | .fault c => k s (.fault c)
  | .scratch gid p off =>
    if (s.bar? o).isNone && !isInit then
      held (s.hold_ gid { sp := p, off, op, team := some s.cur.id, d, tint := tint || s.cur.ctlAny })
    else
      let x := (s.reachBar o).barOp o (s.hdrOf s.cur.id) (s.ctxOf s.cur) va op
      k x.1 x.2
  | .phys _ =>
    if counted && !s.gRoom sp then .hold s
    else
      let x := (s.reachBar o).barOp o (s.hdrOf s.cur.id) (s.ctxOf s.cur) va op
      k x.1 x.2
/-- The frame of an operation without a result: done, or its fault. -/
def doneOr (va : Nat) (s : State) (a : BarOut) : Eff :=
  match a with
  | .fault c => barFault s c va
  | _ => .next s

/-! ### The instructions (R222-R227) -/

/-- BINIT (R210, R222): the requests held for the object follow at once. -/
def execBinit (o : BinitOps) (s : State) : Host.Outcome State Fault Refusal :=
  let srcs := match o.n with
    | .reg b => [(2, o.a.val), (3, b.val)]
    | .imm _ => [(2, o.a.val)]
  finish (s.teamOp o.g srcs fun s =>
    let va := (s.cur.sval o.a).toNat
    match s.objAt o.o va with
    | .error tr => .trap s tr
    | .ok loc =>
      let n := match o.n with
        | .reg b => (s.cur.sval b).toNat
        | .imm x => x.toNat
      if n = 0 ∨ 65535 < n then barFault s cBarState va
      else s.barrier loc o.o.sp va 0 true (.init n) (fun s => .next s) fun s a => match a, loc with
        | .done, .scratch gid sp off => .next (s.applyHeld gid sp off)
        | _, _ => doneOr va s a)
/-- BINV (R210, R222). -/
def execBinv (o : BinvOps) (s : State) : Host.Outcome State Fault Refusal :=
  finish (s.teamOp o.g [(2, o.a.val)] fun s =>
    let va := (s.cur.sval o.a).toNat
    match s.objAt o.o va with
    | .error tr => .trap s tr
    | .ok loc => s.barrier loc o.o.sp va 0 true .inv (fun s => .next s) (doneOr va))

/-- The scope of an object: its space's, or the one the instruction names (R207). -/
def objScope (o : ObjSpace) : Scope :=
  match o.sp with
  | .k => .core | .q => .quad | .d => .die | .g => o.scope
/-- The frame of tint rule 8: nothing when guarded off, the trap when any tint is set (R156, R233). -/
def State.syncOp (s : State) (g : TeamGuard) (k : State → Eff) : Eff :=
  let gc := s.cur.tguard g
  if !gc.val && !gc.tint then .next s
  else match s.syncTrap with
    | some tr => .trap s tr
    | none => if gc.val then k s else .next s

/-- BARV (R223): its arrival reaches the home after every earlier access of the team at the object's scope. -/
def execBarv (o : BarvOps) (s : State) : Host.Outcome State Fault Refusal :=
  finish (s.syncOp o.g fun s =>
    let va := (s.cur.sval o.a).toNat
    match s.objAt o.o va with
    | .error tr => .trap s tr
    | .ok loc =>
      if !relDone s s.cur.id s.cur.seq (some (objScope o.o)) then .hold s
      else s.barrier loc o.o.sp va o.d.val true .arrive
        (fun s => .next (s.modCur fun t => { t with heldRegs := .s o.d.val :: t.heldRegs }))
        fun s a => match a with
          | .gen g => .next (s.setS o.d.val { val := BitVec.ofNat 64 g, tint := false })
          | _ => doneOr va s a)
/-- BEXP (R224). -/
def execBexp (o : BexpOps) (s : State) : Host.Outcome State Fault Refusal :=
  finish (s.teamOp o.g [(2, o.a.val), (3, o.b.val)] fun s =>
    let va := (s.cur.sval o.a).toNat
    match s.objAt o.o va with
    | .error tr => .trap s tr
    | .ok loc =>
      let n := (s.cur.sval o.b).toNat
      if 2 ^ 32 ≤ n then barFault s cBarCount va
      else s.barrier loc o.o.sp va 0 true (.expect o.out n) (fun s => .next s) (doneOr va))

/-- The failure of a BWAIT at an instruction: its predicate and $fcause, or its trap (R225). -/
def State.waitFail (s : State) (q : Option (Fin 4)) (c va : Nat) (pc : Word) (idx : Nat) (k : State → State) : State :=
  match q with
  | some q =>
    let tr : Trap := { Trap.of cBarFailed 0 with sub := c }
    k ((s.setQ q.val { val := true, tint := false }).modCur fun t =>
      { t with fr := { t.fr with cause := fcauseWord tr t.mode.hm idx } })
  | none => s.trapAt { Trap.of cBarFailed va with sub := c } pc idx
def State.waitDone (s : State) (q : Option (Fin 4)) : State :=
  match q with
  | some q => s.setQ q.val { val := false, tint := false }
  | none => s
/-- A team blocks (R89): its clause is left, and it waits at the BWAIT. -/
def State.block (s : State) (obj : ObjLoc) (va phase : Nat) (q : Option (Fin 4)) (sc : Scope) : State :=
  let t := s.cur
  let w : WaitFor :=
    { obj, va, phase, q, scope := sc, hdr := t.hdrAddr, idx := t.instrIdx,
      count := (t.clause.map fun c => c.words.length).getD 0,
      hint := (t.clause.map fun c => c.header.getLsbD 42).getD false, answer := none }
  s.modCur fun t => { t with state := .blocked, inSet := false, wait := some w, clause := none, pc := w.hdr, start := w.idx }
/-- BWAIT (R225). -/
def execBwait (o : BwaitOps) (s : State) : Host.Outcome State Fault Refusal :=
  finish (s.syncOp o.g fun s =>
    let va := (s.cur.sval o.a).toNat
    let phase := bitsAt (s.cur.sval o.b).toNat 0 4
    match s.objAt o.o va with
    | .error tr => .trap s tr
    | .ok loc => s.barrier loc o.o.sp va 0 false (.wait phase)
        (fun s => .hold (s.block loc va phase o.d (objScope o.o))) fun s a => match a with
      | .complete => .next (s.waitDone o.d)
      | .failed c => (match o.d with
        | some _ => .next (s.waitFail o.d c va s.cur.instrAddr s.cur.instrIdx id)
        | none => .trap s { Trap.of cBarFailed va with sub := c })
      | .block => .hold (s.block loc va phase o.d (objScope o.o))
      | a => doneOr va s a)
/-- BTEST (R226, R233). -/
def execBtest (o : BtestOps) (s : State) : Host.Outcome State Fault Refusal :=
  let t := s.cur
  let gc := t.tguard o.g
  let va := (t.sval o.a).toNat
  let phase := bitsAt (t.sval o.b).toNat 0 4
  finish (if !gc.val then .next (s.writeQ o.g o.d.val false false)
    else if (t.sreg o.a.val).tint || (t.sreg o.b.val).tint then .next (s.writeQ o.g o.d.val false true)
    else match s.objAt o.o va with
      | .error tr => .trap s tr
      | .ok loc => s.barrier loc o.o.sp va o.d.val false (.test phase)
          (fun s => .next (s.modCur fun t => { t with heldRegs := .q o.d.val :: t.heldRegs })) (tint := gc.tint) fun s a => match a with
        | .test b => .next (s.writeQ o.g o.d.val b false)
        | a => doneOr va s a)

/-- A timeline as an instruction names it (R214, R215). -/
inductive TlName where
  | engine (e : Nat)
  | mem (va : Nat)
  deriving DecidableEq, Repr
def tlName (x : Word) : Option TlName :=
  let n := x.toNat
  if bitsAt n 57 6 ≠ 0 then none
  else if n.testBit 63 then (if bitsAt n 5 52 = 0 ∧ bitsAt n 0 5 < 22 then some (.engine (bitsAt n 0 5)) else none)
  else if n % 8 = 0 then some (.mem (bitsAt n 0 57)) else none
/-- What a .tl, .chunk or .watch binding compares, with its checks (R212, R227). -/
def State.bindCond (s : State) (sp : Space) (kind : BindKind) (b c : Word) : Except Trap BindCond :=
  let word := fun (va : Nat) (f : Nat → BindCond) => match s.locate .g needR va 8 with
    | .error e => Except.error { xTrap e 1 va [] with addr := va }
    | .ok x => match x.place with
      | .phys a => .ok (f a)
      | .peer r a => .ok (.peer r a)
      | _ => .error (Trap.of cBarState va)
  match kind with
  | .tl => match tlName b with
    | none => .error (Trap.of cTlDesignator b.toNat)
    | some (.engine e) => .ok (.engine s.cur.id.gid e c.toNat)
    | some (.mem va) => word va fun a => .memTl a c.toNat
  | .chunk =>
    let lim := match s.myGroup with
      | some g => s.spaceSize g .k
      | none => 0
    let f := bitsAt c.toNat 0 7
    let l := bitsAt c.toNat 8 7
    if sp ≠ .k ∨ b.toNat % 16 ≠ 0 ∨ lim < b.toNat + 16 ∨ l < f then .error (Trap.of cBarState b.toNat)
    else .ok (.chunk s.cur.id.gid b.toNat f l)
  | .watch => if b.toNat % 8 ≠ 0 then .error (Trap.of cMisaligned b.toNat) else word b.toNat fun a => .watch a c.toNat
/-- The team's own earlier accesses to the word compared come first (R238), and what an early release of it releases, whoever will observe the phase (R242, R247). -/
def State.condDue (s : State) (c : BindCond) : Bool :=
  match c with
  | .memTl a _ | .watch a _ => s.earlierHit s.cur.id s.cur.seq (.phys a) 8 || s.earlyPending (.phys a) 8
  | _ => false
/-- BBIND (R213, R227): compared and armed where the thing compared has its home, recorded at the object's. -/
def execBbind (o : BbindOps) (s : State) : Host.Outcome State Fault Refusal :=
  finish (s.teamOp o.g [(2, o.a.val), (3, o.b.val), (4, o.c.val)] fun s =>
    let va := (s.cur.sval o.a).toNat
    match s.objAt o.o va with
    | .error tr => .trap s tr
    | .ok loc => match s.bindCond o.o.sp o.kind (s.cur.sval o.b) (s.cur.sval o.c) with
      | .error tr => .trap s tr
      | .ok cond =>
        if s.condDue cond || s.barDue loc then .hold s
        else
          let arm := fun (s : State) (bid : Nat) =>
            let b : Binding :=
              { key := s.nextKey, obj := loc, va, kind := o.kind, cond, bid, satisfied := s.condHolds cond, fired := false,
                ctx := s.ctxOf s.cur, owner := s.rank }
            ({ s.bump with binds := s.binds ++ [b] }, b.key)
          match s.bindRoom loc cond with
          | none => barFault s cBarResource va
          | some bid => match loc, cond with
            | .peer r _, .peer _ _ => s.viaPeer r va true fun s a => match a with
              | .fault c => barFault s c va
              | _ => .next s
            | .peer r _, _ => s.viaPeer r va true fun s a => match a with
              | .fault c => barFault s c va
              | _ => .next (arm s bid).1
            | _, .peer r _ => s.viaPeer r va true fun s a => match a with
              | .fault c => barFault s c va
              | _ =>
                let x := arm s bid
                x.1.barrier loc .k va 0 false (.bind x.2) (fun s => .next s) (doneOr va)
            | _, _ =>
              if !s.gRoom o.o.sp then .hold s
              else
                let x := arm s bid
                x.1.barrier loc .k va 0 false (.bind x.2) (fun s => .next s) (doneOr va))

/-! ### Events -/

/-- The notice of a binding's comparison is in at the home of its object. -/
def State.satisfy (s : State) (k : Nat) (o : ObjLoc) : State :=
  let s1 : State := { s with binds := s.binds.map fun b => if b.key = k then { b with satisfied := true, fired := false } else b }
  let s2 := match o with
    | .scratch gid _ _ => s1.modGroup gid fun g =>
      if (g.state = GState.parked ∨ g.state = GState.saving) ∧ (g.wakes.any fun w => match w with
          | .object p _ => p == o
          | _ => false) = true ∧ s.bindHeld k = false then { g with awake := true } else g
    | _ => s1
  match s2.bar? o with
  | some c =>
    let s3 := s2.settle o c
    if c.fl || c.bk == 0 || s2.barRejected s3 o then s2 else s3
  | none => s2
/-- Signals and counts that name an object of a group on the move wait for its restore: the group migrates, or its handlers have begun to save it (R269; DEDUCED, log 97, for a park). -/
def State.countHeld (s : State) (o : ObjLoc) : Bool :=
  match o with
  | .scratch gid _ _ => match s.group? gid with
    | some g => g.cause == .migrate || g.hasImage || !g.images.isEmpty
    | none => false
  | _ => false
/-- BINDING_FIRE: the notice of an armed comparison that came true reaches the home of its object (R211, R213); that of a moving group is held (R269). -/
def execBindingFire (k : Nat) (s : State) : Host.Outcome State Fault Refusal :=
  .next (match s.binds.find? fun b => b.key == k with
  | none => s
  | some b =>
    if !b.fired then s
    else match b.obj with
      | .peer r _ => if s.sendOk k r then { s with binds := s.binds.filter fun b => b.key != k } else s
      | o => if s.countHeld o && (s.bar? o).isSome then
          { s with binds := s.binds.map fun b => if b.key = k then { b with satisfied := true, fired := false } else b }
        else s.satisfy k o)

/-- A count of an engine applied at its object's home; one for a Plain object of the group's own is held there (R208, R210). -/
def State.applyCount (s : State) (c : BarCount) : State :=
  let s1 : State := { s with counts := s.counts.filter fun x => x.key != c.key }
  let run := fun (s : State) => (((s.signalTo c.core c.obj.place).recallFor c.core c.obj.place 16).barOp c.obj c.hdr c.ctx c.va (.count c.out c.n)).1
  match c.obj with
  | .peer _ _ => s1.signalTo c.core c.obj.place
  | .scratch gid sp off =>
    if (s.group? gid).isNone then s1
    else if (s.bar? c.obj).isNone then s1.hold_ gid { sp, off, op := .count c.out c.n, team := none, d := 0, tint := false }
    else run s1
  | .phys _ => run s1
/-- BARRIER_BYTES_COUNTED: a count reaches its object's home: it leaves for a peer once its packet may go (R254), and is held for a group on the move (R269). -/
def execBarrierBytesCounted (k : Nat) (s : State) : Host.Outcome State Fault Refusal :=
  .next (match s.counts.find? fun c => c.key == k with
  | none => s
  | some c =>
    if (match c.obj with
      | .peer r _ => !s.sendOk k r
      | _ => false) then s
    else if s.countHeld c.obj then { s with counts := s.counts.map fun c => if c.key = k then { c with held := true } else c }
    else s.applyCount c)

/-- Where a team goes on after its BWAIT: the next instruction of the clause, or the following clause (R89). -/
def WaitFor.after (w : WaitFor) : Word × Nat :=
  if w.idx + 1 < w.count then (w.hdr, w.idx + 1) else (w.hdr + BitVec.ofNat 64 (8 * (w.count + 1)), 0)
/-- A Blocked team whose home has answered (R89, R225): it leaves Blocked past its BWAIT, or takes the trap of a failure without a predicate. -/
def State.wakeCur (s : State) : State :=
  match s.cur.wait with
  | none => s
  | some w => match w.answer with
    | none => s
    | some a =>
      if s.cur.state ≠ .blocked then s
      else
        let pass := fun s : State => s.modCur fun t =>
          { t with state := .pending, wait := none, pc := w.after.1, start := w.after.2, seq := t.seq + 1,
                   yielding := if w.hint && w.after.2 == 0 then some [] else t.yielding }
        match a with
        | none => pass (s.waitDone w.q)
        | some c =>
          let pc := w.hdr + BitVec.ofNat 64 (8 * (w.idx + 1))
          match w.q with
          | some _ => s.waitFail w.q c 0 pc w.idx pass
          | none => (s.modCur fun t => { t with state := .pending, wait := none }).waitFail none c w.va pc w.idx id
/-- BWAIT_WAKE (R89, R225). -/
def execBwaitWake (id : TeamId) (s : State) : Host.Outcome State Fault Refusal := .next (s.onTeam id State.wakeCur)

end Sys2Proof.Machine
end

