-- ==== Sys2Proof/Machine/Combiner.lean ====
section
/-! DEFINITION. Combiner objects: registration, requests, skeins, methods and their ends (R333-R350). -/

namespace Sys2Proof.Machine

/-! ### MSUs and registrations -/

def State.msuAt (s : State) (m : Nat) : Msu := s.msus.get Msu.init m
def State.modMsu (s : State) (m : Nat) (f : Msu → Msu) : State := { s with msus := s.msus.set Msu.init m (f (s.msuAt m)) }
def State.modReg (s : State) (k : Nat) (f : CombReg → CombReg) : State :=
  { s with combRegs := s.combRegs.map fun r => if r.key = k then f r else r }
def State.dropReg (s : State) (k : Nat) : State := { s with combRegs := s.combRegs.filter fun r => r.key != k }

/-- The fields of a registration record (R337). -/
structure RegRecord where
  state : Nat
  cause : Nat
  why : Nat
  commits : Nat
  fail : RegFail
  deriving DecidableEq, Repr
def RegRecord.words (r : RegRecord) : List Nat :=
  [256 * r.cause + r.state, r.why, r.commits, r.fail.mpc, 2 ^ 32 * r.fail.origin + r.fail.lane, r.fail.nreq, 0, 0]
/-- The home writes the record: words 1 to 7 first, then word 0 as a release at pkg scope (R337). -/
def State.putRecord (s : State) (ctx va : Nat) (runs : List (Place × Nat)) (r : RegRecord) : State :=
  let bs := r.words.flatMap (leBytes 8)
  (s.deviceRuns ctx va none runs 8 (bs.drop 8)).deviceRuns ctx va (some .pkg) runs 0 (bs.take 8)
/-- The code of a registration's state in its record; a Draining one is Live there (R337, R339). -/
def RegState.code : RegState → Nat
  | .live | .draining => 1
  | .broken => 2
/-- The record of a registration is written as it stands. -/
def State.writeRec (s : State) (r : CombReg) : State :=
  s.putRecord r.ctx r.recVa [(r.record, 64)] { state := r.state.code, cause := r.cause, why := 0, commits := r.commits, fail := r.fail }
/-- A registration becomes Free: its record has STATE 0, its other fields as they stood (R339; log 68). -/
def State.freeReg (s : State) (r : CombReg) : State :=
  (s.dropReg r.key).putRecord r.ctx r.recVa [(r.record, 64)]
    { state := 0, cause := r.cause, why := 0, commits := r.commits, fail := r.fail }

/-! ### CREG and CDREG (R338, R348, R349) -/

/-- The descriptor's fields, and whether its layout holds apart from where its ranges lie (R333, R337). -/
structure RegDesc where
  base : Nat
  method : Nat
  gwin : Nat
  regs : Nat
  size : Nat
  record : Nat
  ok : Bool
  deriving DecidableEq, Repr
def regDesc (ws : List Nat) : RegDesc :=
  let w := nth 0 ws
  let base := bitsAt (w 0) 0 57
  let size := bitsAt (w 2) 0 17
  { base, method := bitsAt (w 1) 0 57, gwin := bitsAt (w 2) 32 8, regs := 8 * (bitsAt (w 2) 24 3 + 1), size,
    record := bitsAt (w 3) 0 57
    ok := decide (w 0 < 2 ^ 57) && decide (w 1 < 2 ^ 57) && decide (w 2 < 2 ^ 40) && decide (w 3 < 2 ^ 57)
      && bitsAt (w 2) 27 5 == 0 && bitsAt (w 2) 17 7 == 0 && (List.range 4).all (fun i => w (4 + i) == 0)
      && base % 256 == 0 && bitsAt (w 1) 0 3 == 0 && bitsAt (w 3) 0 6 == 0
      && size % 8 == 0 && decide (8 ≤ size) && decide (size ≤ 65536) }
/-- Whether every page of a range has a CO of the given value. -/
def State.coAll (s : State) (a n : Nat) (co : Bool) : Bool :=
  (unitsOf 65536 a n).all fun u => match s.locate .g { r := false, w := false, x := false } (max a (65536 * u)) 1 with
    | .ok x => pteCo x.pte == co
    | .error _ => true
/-- The reason for which the home refuses a registration, if any (R338). -/
def State.regWhy (s : State) (d : RegDesc) (phys msu : Nat) : Nat :=
  if !d.ok then 1
  else if !s.coAll d.base d.size true || !s.coAll d.record 64 false then 2
  else if d.base / 65536 ≠ (d.base + d.size - 1) / 65536 then 3
  else if (s.regOver phys d.size).isSome then 4
  else if 64 ≤ (s.combRegs.filter fun r => r.msu == msu).length then 5
  else 0
/-- Control tint in any lane, masked or not, escapes (R347, R350). -/
def State.ctlEscape (s : State) (slot : Nat) : Option Trap :=
  if s.cur.ctlAny then
    some { Trap.of cGuessEscape 0 with
      opnd := slot, lanes := flanesOf (s.cur.laneList.filter fun L => s.cur.ctl.getLsbD L) }
  else none
/-- The frame of CREG, CDREG and CREP: a tinted scalar, a tinted guard or a set control-tint bit escapes (R350). -/
def State.cregOp (s : State) (g : TeamGuard) (srcs : List (Nat × Nat)) (k : State → Eff) : Eff :=
  let gc := s.cur.tguard g
  if !gc.val && !gc.tint then .next s
  else match s.ctlEscape (256 * guardField g) with
    | some tr => .trap s tr
    | none => s.teamOp g srcs k
/-- CREG (R338, R348). -/
def State.creg (s : State) (o : CregOps) : Eff :=
  s.cregOp o.g [(2, o.a.val)] fun s =>
    let a := (s.cur.sval o.a).toNat
    let ctx := s.ctxOf s.cur
    if a % 64 ≠ 0 then .trap s (Trap.of cMisaligned 0)
    else match s.readFirst needR a 64 with
      | .error tr => s.readTrap tr
      | .ok (s1, none) => .hold s1
      | .ok (s1, some ld) => match ld.lanes.find? fun l => l.bad.isSome with
        | some l => s1.readTrap (Trap.of (l.bad.getD cPoisoned) l.addr)
        | none =>
          let d := regDesc (ld.lanes.map LoadLane.value)
          match s1.locateRange .g needRW d.base (pagesIn d.size) d.size with
          | .error (f, va) => .trap s1 (xTrap f 3 va [])
          | .ok runs => match s1.locateRange .g needX d.method (pagesIn 8) 8, s1.locateRange .g needW d.record (pagesIn 64) 64 with
            | .error (f, va), _ => .trap s1 (xTrap f 4 va [])
            | .ok _, .error (f, va) => .trap s1 (xTrap f 2 va [])
            | .ok _, .ok rec =>
              if !relDone s1 s1.cur.id s1.cur.seq (some .pkg) then .hold s1
              else
                let phys := match runPlace runs 0 with
                  | .phys p => p
                  | _ => 0
                let msu := s1.coMsu phys
                let why := s1.regWhy d phys msu
                if why ≠ 0 then
                  let s2 := s1.putRecord ctx d.record rec { state := 3, cause := cCombRefused, why, commits := 0, fail := RegFail.none }
                  .next (s2.setQ o.d.val { val := false, tint := false })
                else
                  let r : CombReg :=
                    { key := s1.nextKey, msu, ctx, base := d.base, phys, size := d.size, method := d.method, gwin := d.gwin,
                      regs := d.regs, record := runPlace rec 0, recVa := d.record, state := .live, commits := 0, cause := 0,
                      fail := RegFail.none, lastAt := none, prevAt := none }
                  let s2 : State := { s1.bump with combRegs := s1.combRegs ++ [r] }
                  .next ((s2.writeRec r).setQ o.d.val { val := true, tint := false })
def execCreg (o : CregOps) (s : State) : Host.Outcome State Fault Refusal := finish (s.creg o)

/-- An object has a request queued or a skein running. -/
def State.regBusy (s : State) (r : CombReg) : Bool :=
  let m := s.msuAt r.msu
  (m.queue.any fun q => q.reg == r.key) || match m.skein with
    | some k => k.reg == r.key
    | none => false
/-- A Draining registration with nothing queued and nothing running becomes Free (R339). -/
def State.drained (s : State) (k : Nat) : State :=
  match s.combRegs.find? fun r => r.key == k with
  | none => s
  | some r =>
    if r.state = .draining ∧ s.regBusy r = false then s.freeReg r else s
/-- CDREG (R349). -/
def execCdreg (o : CregOps) (s : State) : Host.Outcome State Fault Refusal :=
  finish (s.cregOp o.g [(2, o.a.val)] fun s =>
    let a := (s.cur.sval o.a).toNat
    let ctx := s.ctxOf s.cur
    if a % 256 ≠ 0 then .trap s (Trap.of cMisaligned 0)
    else match s.locate .g needW a 1 with
      | .error f => .trap s (xTrap f 3 a [])
      | .ok _ =>
        let q := fun (s : State) (b : Bool) => Eff.next (s.setQ o.d.val { val := b, tint := false })
        match s.combRegs.find? fun r => r.ctx == ctx && r.base == a && r.state != .draining with
        | none => q s false
        | some r =>
          if r.state = .broken then q (s.freeReg r) true
          else q ((s.modReg r.key fun r => { r with state := .draining }).drained r.key) true)

/-! ### COMB and its requests (R340, R347) -/

/-- The origin word of a request (R342). -/
def originWord (lcore team lane : Nat) : Nat := lcore % 2 ^ 11 + team % 16 * 2 ^ 11 + lane % 2 ^ 10 * 2 ^ 15
/-- The lanes of a COMB with their places: alignment, then R, W and CO (R347). -/
def State.combLane (s : State) (a : Nat) : Except XFail Place :=
  if a % 8 ≠ 0 then .error { cause := cMisaligned, why := 0 }
  else match s.locate .g needRW a 8 with
    | .error f => .error f
    | .ok x => if pteCo x.pte then .ok x.place else .error { cause := cPermission, why := 0 }
/-- The packets of a COMB: one for each row and home (R340). -/
def State.packetsOf (s : State) (comb : Nat) (team : TeamId) (seq : Nat) (rs : List CombReq) : List CombPacket :=
  let keys := (rs.map fun r => (r.lane / 32, s.coMsu r.phys)).eraseDups
  keys.map fun k =>
    { key := 0, comb, team, seq, msu := k.2, reqs := rs.filter fun r => r.lane / 32 == k.1 && s.coMsu r.phys == k.2 }
def State.sendPacket (s : State) (p : CombPacket) : State :=
  let q : CombPacket := { p with key := s.nextKey }
  { s.bump with combPackets := s.combPackets ++ [q] }
def State.comb (s : State) (o : CombOps) : Eff :=
  let t := s.cur
  match (s.laneEscape o.g (t.addrOps o.addr ++ [t.dataOp o.c.val 2])).orElse fun _ => s.ctlEscape (256 * o.g.p.val) with
  | some tr => .trap s tr
  | none =>
    let act := (t.activeLanes o.g).map fun L => (L, (t.memAddr o.addr L).1)
    let rs := act.map fun p => (p.1, p.2, s.combLane p.2)
    let bad := rs.filterMap fun r => (failOf r.2.2).map fun f => (r.1, r.2.1, f)
    match bad with
    | (_, a, f) :: _ => .trap s (xTrap f 3 a (bad.map fun b => b.1))
    | [] =>
      let num := s.tlNext t.id.gid 20
      let s1 := s.tlTake t.id.gid 20
      if act.isEmpty then .next (s1.tlFinish t.id.gid 20 num)
      else
        let lcore := match s.myGroup with
          | some g => g.lcore
          | none => 0
        let key := s1.nextKey
        let reqs := rs.filterMap fun r => match r.2.2 with
          | .ok (.phys p) => some (CombReq.mk key r.1 r.2.1 p (BitVec.ofNat 64 (t.group o.c.val 2 r.1))
              (originWord lcore t.id.idx r.1) (s.ctxOf t) 0 0)
          | _ => none
        let c : Comb :=
          { key, team := t.id, seq := t.seq, pc := t.instrAddr, d := o.d.val, status := o.status.val, lanes := act.map (·.1),
            replies := [], num, core := s.coreOf t.id.gid, ctx := s.ctxOf t, redirected := false }
        let s2 : State := { s1.bump with combs := s1.combs ++ [c] }
        .next ((s2.packetsOf key t.id t.seq reqs).foldl State.sendPacket s2)
/-- COMB (R347). -/
def execComb (o : CombOps) (s : State) : Host.Outcome State Fault Refusal := finish (s.comb o)

/-- A failure as a reply (R344). -/
def failWord (c : Nat) : Word := BitVec.ofNat 64 (0xFFFFFFFF00000000 + c)
/-- A reply reaches its COMB; one that has gone discards it (R347). -/
def State.reply (s : State) (q : CombReq) (x : Word) (fail : Bool) : State :=
  { s with combs := s.combs.map fun c =>
      if c.key = q.comb then { c with replies := c.replies.put q.lane (x, fail) } else c }
/-- One request as the home finds its registration (R339, R340). -/
def State.takeReq (s : State) (msu : Nat) (q : CombReq) : State :=
  match s.combRegs.find? fun r => r.ctx == q.ctx && decide (r.base ≤ q.va) && decide (q.va < r.base + r.size) with
  | none => s.reply q (failWord 0x48) true
  | some r => match r.state with
    | .draining => s.reply q (failWord 0x48) true
    | .broken => s.reply q (failWord 0x49) true
    | .live =>
      let now := s.msuNow
      let s1 := s.modMsu msu fun m => { m with queue := m.queue ++ [{ q with reg := r.key, at_ := now }] }
      s1.modReg r.key fun r => { r with lastAt := some now, prevAt := if r.lastAt = some now then r.prevAt else r.lastAt }
/-- COMBINER_REQUEST_ARRIVAL: a packet enters its home's queue whole, once there is room, the team's earlier packets to that home are in, and its earlier accesses are performed (R340, R347). -/
def execCombinerRequestArrival (k : Nat) (s : State) : Host.Outcome State Fault Refusal :=
  .next (match s.combPackets.find? fun p => p.key == k with
  | none => s
  | some p =>
    let earlier := s.combPackets.any fun q => q.team == p.team && q.msu == p.msu && decide (q.seq < p.seq)
    let before := s.combPackets.any fun q => q.comb == p.comb && q.msu == p.msu && decide (q.key < p.key)
    let room := decide ((s.msuAt p.msu).queue.length + p.reqs.length ≤ 256)
    if earlier || before || !room || !relDone s p.team p.seq (some .pkg) || s.acqHold p.team p.seq then s
    else
      let addr := p.reqs.head?.map CombReq.phys
      let s0 := s.trip (s.coreOf p.team.gid) { die := p.msu / 24, router := msuRouter p.msu, addr } addr
      let s1 : State := { s0 with combPackets := s0.combPackets.filter fun q => q.key != k }
      p.reqs.foldl (fun s q => s.takeReq p.msu q) s1)

/-! ### Skeins (R341, R342) -/

/-- A registration qualifies for a skein at its home in this cycle (R341). -/
def State.qualifies (s : State) (r : CombReg) : Bool :=
  let now := s.msuNow
  let mine := (s.msuAt r.msu).queue.filter fun q => q.reg == r.key
  let oldest := match mine with
    | q :: _ => decide (q.at_ + r.gwin ≤ now)
    | [] => false
  let last := if r.lastAt = some now then r.prevAt else r.lastAt
  let idle := match last with
    | some a => decide (a + 8 < now)
    | none => true
  r.state != .broken && !mine.isEmpty && (decide (32 ≤ mine.length) || oldest || idle || r.state == .draining)
/-- The method team of a skein (R342). -/
def methodTeam (r : CombReg) (reqs : List CombReq) : Team :=
  let t := Team.create { gid := 0, idx := r.msu } 32 r.regs 0 1 false 0 (BitVec.ofNat 64 r.method) 0
  let cell := fun x : Nat => VCell.mk (BitVec.ofNat 32 x) false
  let put := fun (v : SMap VCell) (reg i x : Nat) => v.set VCell.zero (1024 * reg + i) (cell x)
  let v := reqs.zipIdx.foldl (fun v p =>
    put (put (put (put v 0 p.2 (bitsAt p.1.arg.toNat 0 32)) 1 p.2 (bitsAt p.1.arg.toNat 32 32)) 2 p.2 (p.1.va - r.base)) 3 p.2 p.1.origin) []
  let sset := fun (m : SMap SCell) (i x : Nat) => m.set SCell.zero i { val := BitVec.ofNat 64 x, tint := false }
  { t with
    v
    s := sset (sset (sset (sset [] 0 r.base) 1 r.size) 2 reqs.length) 3 r.commits
    mask := BitVec.ofNat 1024 (2 ^ reqs.length - 1), mode := .method, state := .active
    method := some { msu := r.msu, reg := r.key, ctx := r.ctx, base := r.base, size := r.size, phys := r.phys,
                     stores := [], replies := [], failed := none } }
/-- SKEIN_FORM: the home packs the oldest requests of the object whose oldest request stands first, and the micro-core starts its method (R341, R342). -/
def execSkeinForm (msu : Nat) (s : State) : Host.Outcome State Fault Refusal :=
  let m := s.msuAt msu
  .next (if m.skein.isSome then s
  else match m.queue.find? fun q => s.combRegs.any fun r => r.key == q.reg && s.qualifies r with
    | none => s
    | some q0 => match s.combRegs.find? fun r => r.key == q0.reg with
      | none => s
      | some r =>
        let take := (m.queue.filter fun q => q.reg == r.key).take 32
        let left := m.queue.filter fun q => !take.contains q
        let s1 := s.modMsu msu fun m => { m with queue := left, skein := some { reg := r.key, reqs := take, start := s.msuNow } }
        { s1 with others := s1.others ++ [methodTeam r take] })

/-! ### CREP and the end of a method (R343, R344, R350) -/

/-- CREP outside method mode is illegal (R350). -/
def execCrep (o : CrepOps) (s : State) : Host.Outcome State Fault Refusal :=
  let t := s.cur
  finish (match t.method with
  | none => .trap s (Trap.illegal 7 0)
  | some _ => s.cregOp o.g [] fun s =>
    let ls := t.laneList.filter fun L => t.mask.getLsbD L
    let put := fun (m : SMap Word) L => SMap.put m L (BitVec.ofNat 64 (t.group o.a.val 2 L))
    .next (s.modCur fun t => { t with method := t.method.map fun m => { m with replies := ls.foldl put m.replies } }))

/-- A team without a slot any more leaves the machine; the focus falls on an empty slot where it was the team. -/
def State.dropTeam (s : State) (id : TeamId) : State :=
  if s.cur.id = id then s.unfocus else { s with others := s.others.filter fun t => t.id != id }
/-- The method has stored the byte of its object at a physical address. -/
def MethodCtx.stored (m : MethodCtx) (a : Nat) : Bool := decide (m.phys ≤ a) && (m.stores.get none (a - m.phys)).isSome
/-- The buffered bytes of a method performed at their home as one step: no binding there sees a part of them, and a sector that they fill is poisoned no more (R331, R343). -/
def State.commit (s : State) (m : MethodCtx) : State :=
  let put := fun (x : SMap Byte) (p : Nat × Option Byte) => match p.2 with
    | some b => x.set 0 (m.phys + p.1) b
    | none => x
  let s := s.recallFor 1152 (.phys m.phys) m.size
  (({ s with mem := m.stores.foldl put s.mem } : State).heal (.phys m.phys) m.size fun p => match p with
    | .phys a => m.stored a
    | _ => false).fireIf fun c => match c with
      | .memTl a _ | .watch a _ => (List.range 8).any fun i => m.stored (a + i)
      | _ => false
/-- METHOD_RETURN: commit, then the replies (R343). -/
def execMethodReturn (msu : Nat) (s : State) : Host.Outcome State Fault Refusal :=
  .next (match (s.msuAt msu).skein, s.team? { gid := 0, idx := msu } with
  | some k, some t => match t.method, t.state with
    | some m, .exiting =>
      if m.failed.isSome then s
      else
        let s1 := (s.commit m).modMsu msu fun u => { u with skein := none }
        let s2 := (s1.modReg k.reg fun r => { r with commits := r.commits + 1 }).dropTeam t.id
        let s3 := match s2.combRegs.find? fun r => r.key == k.reg with
          | some r => s2.writeRec r
          | none => s2
        (k.reqs.zipIdx.foldl (fun s p => s.reply p.1 (m.replies.get 0 p.2) false) s3).drained k.reg
    | _, _ => s
  | _, _ => s)
/-- A skein fails: nothing is written, its requests get the cause, and the object breaks or, Draining, is freed (R339, R344). -/
def State.failSkein (s : State) (msu : Nat) (k : Skein) (f : MethodFail) : State :=
  let s1 := (s.modMsu msu fun u => { u with skein := none }).dropTeam { gid := 0, idx := msu }
  let s2 := k.reqs.foldl (fun s q => s.reply q (failWord f.cause) true) s1
  match s2.combRegs.find? fun r => r.key == k.reg with
  | none => s2
  | some r =>
    let origin := match k.reqs[f.lane]? with
      | some q => q.origin
      | none => 0
    let fail : RegFail := { mpc := f.pc.toNat, origin, lane := f.lane, nreq := k.reqs.length }
    let queued := (s2.msuAt msu).queue.filter fun q => q.reg == r.key
    let s3 := queued.foldl (fun s q => s.reply q (failWord 0x49) true)
      (s2.modMsu msu fun u => { u with queue := u.queue.filter fun q => q.reg != r.key })
    let r1 : CombReg := { r with state := .broken, cause := f.cause, fail }
    if r.state = .draining then s3.freeReg r1 else (s3.modReg r.key fun _ => r1).writeRec r1
/-- METHOD_FAULT (R344). -/
def execMethodFault (msu : Nat) (s : State) : Host.Outcome State Fault Refusal :=
  .next (match (s.msuAt msu).skein, (s.team? { gid := 0, idx := msu }).bind Team.method with
  | some k, some m => match m.failed with
    | some f => s.failSkein msu k f
    | none => s
  | _, _ => s)
/-- METHOD_TIMEOUT: the method has run 1,048,576 MSU cycles (R344). -/
def execMethodTimeout (msu : Nat) (s : State) : Host.Outcome State Fault Refusal :=
  .next (match (s.msuAt msu).skein with
  | some k => if k.start + 1048576 ≤ s.msuNow then s.failSkein msu k { cause := 0x4D, pc := 0, lane := 0 } else s
  | none => s)

/-! ### Replies and rejections -/

/-- COMBINER_REPLY_WRITE: every active lane has its reply or failure, and the pair and the status predicate are written as one (R347). -/
def execCombinerReplyWrite (c : Nat) (s : State) : Host.Outcome State Fault Refusal :=
  .next (match s.combs.find? fun x => x.key == c with
  | none => s
  | some x =>
    if x.redirected || !(x.lanes.all fun L => x.replies.any fun p => p.1 == L) then s
    else
      let s1 : State := { s with combs := s.combs.filter fun y => y.key != c }
      let s2 := (s1.abandonOf x.team x.d x.lanes).abandonOf x.team (x.d + 1) x.lanes
      (s2.modTeam x.team fun t => x.lanes.foldl (fun t L =>
        let r := x.replies.get (0, false) L
        let t := (t.setV x.d L { val := BitVec.ofNat 32 r.1.toNat, tint := false }).setV (x.d + 1) L
          { val := BitVec.ofNat 32 (r.1.toNat / 2 ^ 32), tint := false }
        if x.status = 0 then t
        else { t with p := t.p.set PCell.zero (1024 * x.status + L) { val := r.2, tint := false } }) t).tlFinish x.team.gid 20 x.num)

/-- COMBINER_GUARD_REJECT: the home rejects the next write of an access that falls on a registered object, and reports it (R335). -/
def execCombinerGuardReject (k : Nat) (s : State) : Host.Outcome State Fault Refusal :=
  let onObject := fun (p : Place) (n : Nat) => match p with
    | .phys a => (s.regOver a n).isSome
    | _ => false
  .next (match s.post? k with
  | some q => match q.writes.zipIdx.find? fun w => !w.1.done && onObject w.1.place w.1.data.length with
    | some w => s.performWrite k w.2
    | none => s
  | none => match s.load? k with
    | some ld => match ld.kind with
      | .atom _ => (match ld.lanes.find? fun l => !l.performed && onObject l.place ld.w.bytes with
        | some l => s.performLane k l.lane
        | none => s)
      | _ => s
    | none => s)

/-- The instructions that a method may execute (R343). -/
def methodOk (i : Instr) : Bool :=
  match i with
  | .ld o => o.sp == .g && !o.acq && o.scope == .team && o.limit.val == 0
  | .st o => o.sp == .g && !o.rel && o.scope == .team
  | .srd o => o.n.toNat == 0 || o.n.toNat == 1 || o.n.toNat == 9
  | .nop _ | .bra _ | .brq _ | .brd _ | .join _ | .loop _ | .exit _ | .crep _ => true
  | .smov _ | .smovi _ | .sadd _ | .ssub _ | .smul _ | .smulh _ | .sand _ | .sor _ | .sxor _ | .sshl _ | .sshr _
  | .ssar _ | .smin _ | .smax _ | .scmp _ | .ssel _ | .slda _ => true
  | .vmov _ | .vmovi _ | .vbcst _ | .vadd _ | .vsub _ | .vadds _ | .vsubs _ | .vmul _ | .vmulh _ | .vmad _ | .vabs _
  | .vneg _ | .vmin _ | .vmax _ | .vand _ | .vor _ | .vxor _ | .vnot _ | .vshl _ | .vshr _ | .vsar _ | .vclz _
  | .vpopc _ | .vbfe _ | .vbfi _ | .vperm _ | .vsel _ | .vcmp _ | .vlea _ | .vshf _ | .vred _ | .vscan _ | .vbal _ => true
  | .pand _ | .por _ | .pxor _ | .pnot _ | .pmov _ | .pany _ | .pall _ => true
  | .fadd _ | .fsub _ | .fmul _ | .ffma _ | .fmin _ | .fmax _ | .fabs _ | .fneg _ | .fcmp _ | .fclass _ | .frnd _
  | .hadd2 _ | .hmul2 _ | .hfma2 _ | .fdot2 _ | .frcp _ | .frsq _ | .fsqrt _ | .fexp2 _ | .flog2 _ | .fsinpi _
  | .fcospi _ | .ftanh _ | .fsigm _ | .cvt _ | .pack _ | .unpk _ | .quant _ | .deq _ => true
  | _ => false

end Sys2Proof.Machine
end

