-- ==== Sys2Proof/Machine/Sync.lean ====
section
/-! DEFINITION. Copy channels, the block-transfer engine, chunk maps, timelines and fences (R170, R171, R214-R220, R228-R234, R248, R415). -/

namespace Sys2Proof.Machine

/-! ### Checks at issue -/

/-- A range of a copy: runs of bytes that pass R136, none in a remote window (R415); faults hold the address (R234). -/
def State.copyRange (s : State) (sp : Space) (need : Need) (a n : Nat) : Except Trap (List (Place × Nat)) :=
  match s.locateRange sp need a (pagesIn n) n with
  | .error (f, va) => .error { xTrap f (if need.w then 6 else 5) va [] with addr := va }
  | .ok runs =>
    let rec peerAt : List (Place × Nat) → Nat → Option Nat
      | [], _ => none
      | (p, n) :: l, va => if p.isPeer then some va else peerAt l (va + n)
    match peerAt runs a with
    | some va => .error (Trap.of cFabricTarget va)
    | none => .ok runs
/-- Destination bytes in a scratchpad that are guarded raise barrier-overwrite (R209). -/
def State.copyGuard (s : State) (sp : Space) (runs : List (Place × Nat)) (a : Nat) : Option Trap :=
  if sp = .g then none
  else match runs.find? fun r => s.placeGuarded r.1 r.2 with
    | some _ => some (Trap.of cBarOverwrite a)
    | none => none
/-- The barrier operand, where there is one. -/
def State.copyBar (s : State) (bar : Option Space) (c : Fin 64) : Except Trap (Option ObjLoc × Nat) :=
  match bar with
  | none => .ok (none, 0)
  | some sp =>
    let va := (s.cur.sval c).toNat
    match s.barAt sp va with
    | .error tr => .error tr
    | .ok o => .ok (some o, va)

/-- An engine operation of the team in focus. -/
def State.newEng (s : State) (kind : EngKind) (total : Nat) : EngOp :=
  let t := s.cur
  { key := s.nextKey, team := t.id, seq := t.seq, kind, src := [], dst := [], units := [], fetched := 0, landed := 0, total,
    bar := none, barVa := 0, out := false, num := 0, map := none, flight := [], limit := 0,
    issued := s.clk, atDeadline := false, core := s.coreOf t.id.gid, kid := s.kidOf t, ctx := s.ctxOf t, rel := none,
    relaxed := false, tgt := 0, by_ := .auto, path := 0, offset := 0, acked := [], dropped := [], grant := none, va := 0, bads := [],
    accepted := false, entered := false, hdr := s.hdrOf t.id }
def engNumber : EngKind → Nat
  | .cpy c => c
  | .tmov | .cpytLd | .cpytSt => 16
  | .xsend => 19
/-- The operations that a channel has accepted and not completed (R218). -/
def State.chanOps (s : State) (core chan : Nat) : List EngOp :=
  s.engs.filter fun e => e.core == core && e.kind == .cpy chan && e.accepted
/-- The maps that the block-transfer engine of a core tracks (R219). -/
def State.maps (s : State) (core : Nat) : List (Nat × Nat) :=
  ((s.engs.filter fun e => e.core == core && e.accepted).filterMap fun e => e.map.map fun m => (e.team.gid, m)).eraseDups
/-- Chunk `i` of a map is set (R219). -/
def State.setChunk (s : State) (gid map i : Nat) : State :=
  let a := map + i / 8
  let b := fromBytes (s.placeRead (.scratch gid .k a) 1)
  (s.placeWrite (.scratch gid .k a) [BitVec.ofNat 8 (b ||| 2 ^ (i % 8))]).fireIf fun c => match c with
    | .chunk g m _ _ => g == gid && m == map
    | _ => false
/-- The engine can accept an operation: a place in its channel, a map that it can track, and an outstanding entry (R218, R219, R292). -/
def State.engFree (s : State) (op : EngOp) : Bool :=
  (op.entered || s.outOk op.core op.kid) && match op.kind, op.map with
    | .cpy chan, _ => decide ((s.chanOps op.core chan).length < 16)
    | _, some m => (s.maps op.core).contains (op.team.gid, m) || decide ((s.maps op.core).length < 8)
    | _, none => true
/-- An operation leaves WAI: it takes its number, its outstanding count if it has none yet, its path and its bytes there, and the chunks of its map without a byte are set; one without bytes completes at once (R48, R215, R220, R228, R292, R359, R367). -/
def State.takeEng (s : State) (op : EngOp) : State :=
  let eng := engNumber op.kind
  let num := s.tlNext op.team.gid eng
  let s1 := s.tlTake op.team.gid eng
  let idle := match op.map with
    | some m => ((List.range 128).filter fun i => op.units.all fun u => u.chunk != some i).map fun i => (m, i)
    | none => []
  let s2 := idle.foldl (fun s c => s.setChunk op.team.gid c.1 c.2) s1
  if op.total = 0 then
    let s3 := s2.tlFinish op.team.gid eng num
    if op.entered then s3.outDown op.core op.kid else s3
  else
    let s3 := if op.entered then s2 else s2.outUp op.core op.kid
    if op.kind = .xsend then
      let path := s3.sendPath op.by_ op.tgt
      let k := pathKey op.tgt path
      let at_ := s3.pathSeq.get 0 k
      { s3 with pathSeq := s3.pathSeq.set 0 k (at_ + op.total),
                engs := s3.engs ++ [{ op with num, accepted := true, entered := true, path, offset := at_ }] }
    else { s3 with engs := s3.engs ++ [{ op with num, accepted := true, entered := true }] }
/-- An operation of an engine issues: it is accepted at once where that can be, and otherwise stays in WAI, counted where an entry is free, while its team goes on (R48, R292). -/
def State.acceptEng (s : State) (op : EngOp) : Eff :=
  if s.engFree op && !s.inWai op.team then .next (s.bump.takeEng op)
  else
    let room := s.outOk op.core op.kid
    .next { (if room then s.outUp op.core op.kid else s).bump with engs := s.engs ++ [{ op with entered := room }] }
def State.eng? (s : State) (k : Nat) : Option EngOp := s.engs.find? fun e => e.key == k
def State.modEng (s : State) (k : Nat) (f : EngOp → EngOp) : State :=
  { s with engs := s.engs.map fun e => if e.key = k then f e else e }
/-- An operation that waits is counted once an entry is free, and accepted when its engine is free and no earlier one of its team waits. -/
def State.acceptWaiting (s : State) (op : EngOp) : State :=
  if op.accepted then s
  else if s.firstInWai op.team op.key && s.engFree op then
    State.takeEng { s with engs := s.engs.filter fun e => e.key != op.key } op
  else if !op.entered && s.outOk op.core op.kid then
    (s.outUp op.core op.kid).modEng op.key fun e => { e with entered := true }
  else s
/-- The save areas that a destination in .g touches are noted (R270). -/
def State.noteRange (s : State) (sp : Space) (a n : Nat) : State :=
  if sp = .g then s.noteSave (s.ctxOf s.cur) a n else s

/-! ### CPY (R218, R228) -/

/-- CPY. A byte count that fails its check leaves the destination address in $faddr (R234; DESIGN CHOICE, log 66). -/
def execCpy (o : CpyOps) (s : State) : Host.Outcome State Fault Refusal :=
  let srcs := [(1, o.d.val), (2, o.a.val), (3, o.b.val)] ++ (if o.bar.isSome then [(4, o.c.val)] else [])
  finish (s.teamOp o.g srcs fun s =>
    let d := (s.cur.sval o.d).toNat
    let a := (s.cur.sval o.a).toNat
    let n := (s.cur.sval o.b).toNat
    if 16777216 < n ∨ n % 8 ≠ 0 then .trap s (Trap.of cCopyArgument d)
    else if d % 8 ≠ 0 ∨ a % 8 ≠ 0 then .trap s (Trap.of cMisaligned (if d % 8 ≠ 0 then d else a))
    else match s.copyRange o.ssp needR a n with
      | .error tr => .trap s tr
      | .ok src => match s.copyRange o.dsp needW d n with
        | .error tr => .trap s tr
        | .ok dst => match s.copyGuard o.dsp dst d with
          | some tr => .trap s tr
          | none => match s.copyBar o.bar o.c with
            | .error tr => .trap s tr
            | .ok (bar, barVa) =>
              (s.noteRange o.dsp d n).acceptEng
                { s.newEng (.cpy o.chan.val) n with src, dst, bar, barVa, out := o.out, va := d })

/-! ### TMOV (R170, R171) -/

/-- The shape of a tile: row strides, rows and row length, in bytes (R170). -/
structure TileShape where
  dstride : Nat
  sstride : Nat
  rows : Nat
  len : Nat
  deriving DecidableEq, Repr
def tileShape (x : Word) : TileShape :=
  { dstride := 8 * bitsAt x.toNat 45 19, sstride := 8 * bitsAt x.toNat 26 19, rows := bitsAt x.toNat 13 13,
    len := 8 * bitsAt x.toNat 0 13 }
/-- The ranges of the rows of a rectangle. -/
def State.rectRuns (s : State) (sp : Space) (need : Need) (a stride len : Nat) : Nat → Except Trap (List (List (Place × Nat)))
  | 0 => .ok []
  | n + 1 => match s.rectRuns sp need a stride len n with
    | .error e => .error e
    | .ok l => match s.copyRange sp need (a + stride * n) len with
      | .error e => .error e
      | .ok r => .ok (l ++ [r])
/-- The words of a tile in row order, with what each row's place gives. -/
def tileUnits (src dst : List (List (Place × Nat))) (len : Nat) : List EngUnit :=
  (List.zip src dst).flatMap fun p => (List.range (len / 8)).map fun i =>
    { src := runPlace p.1 (8 * i), dst := runPlace p.2 (8 * i), bytes := 8, mask := 2 ^ 64 - 1, data := [], bad := false,
      chunk := none, got := false, done := false }
/-- A fault of R136 at a TMOV states no address but a page fault's and the fabric's (R273). -/
def plainFault (tr : Trap) : Trap := if tr.cause = cScratchRange ∨ tr.cause = cPermission then { tr with addr := 0 } else tr
def execTmov (o : TmovOps) (s : State) : Host.Outcome State Fault Refusal :=
  let srcs := [(1, o.d.val), (2, o.a.val), (3, o.b.val)] ++ (if o.bar.isSome then [(4, o.c.val)] else [])
  finish (s.teamOp o.g srcs fun s =>
    let d := (s.cur.sval o.d).toNat
    let a := (s.cur.sval o.a).toNat
    let sh := tileShape (s.cur.sval o.b)
    let rows := if sh.len = 0 then 0 else sh.rows
    if d % 8 ≠ 0 ∨ a % 8 ≠ 0 then .trap s (Trap.of cMisaligned 0)
    else match s.rectRuns o.ssp needR a sh.sstride sh.len rows with
      | .error tr => .trap s (plainFault tr)
      | .ok src => match s.rectRuns o.dsp needW d sh.dstride sh.len rows with
        | .error tr => .trap s (plainFault tr)
        | .ok dst => match dst.zipIdx.findSome? fun r => s.copyGuard o.dsp r.1 (d + sh.dstride * r.2) with
          | some tr => .trap s tr
          | none => match s.copyBar o.bar o.c with
            | .error tr => .trap s tr
            | .ok (bar, barVa) =>
              let s1 := (List.range rows).foldl (fun s r => s.noteRange o.dsp (d + sh.dstride * r) sh.len) s
              s1.acceptEng { s.newEng .tmov (rows * sh.len) with
                units := tileUnits src dst sh.len, bar, barVa, limit := o.limit.val, va := d,
                atDeadline := s.cur.sys.gdrill && o.limit.val != 0 })

/-! ### CPYT (R219, R220, R229) -/

/-- One piece of a window: its scratchpad offset from sD, the tensor byte address where any of its elements lies within the extents, its bytes and the bits within the extents. -/
structure WinPiece where
  off : Nat
  va : Option Nat
  bytes : Nat
  mask : Nat
  deriving DecidableEq, Repr
/-- The pieces of a window: an element of whole bytes each, or a byte of narrower elements (R176, R229). -/
def winPieces (t : Tlr) (m bits c0 c1 n0 n1 pitch : Nat) : List WinPiece :=
  let base := t.baseOf m
  let per := if bits < 8 then 8 / bits else 1
  let bytes := if bits < 8 then 1 else bits / 8
  (List.range n1).flatMap fun r => (List.range (n0 / per)).map fun i =>
    let ins := fun j => decide (c0 + per * i + j < t.lext 0) && decide (c1 + r < t.lext 1)
    let mask := if bits < 8 then (List.range per).foldl (fun a j => if ins j then a + (2 ^ bits - 1) * 2 ^ (bits * j) else a) 0
      else if ins 0 then 2 ^ bits - 1 else 0
    { off := r * pitch + bytes * i, bytes, mask
      va := if mask = 0 then none else some (t.addr bits base [c0 + per * i, c1 + r]).1 }
/-- The tensor side of each piece is located, with R or W (R136, R229). -/
def State.pieceSides (s : State) (need : Need) (sp : Space) (gid sd : Nat) (ld : Bool) : List WinPiece → Except Trap (List EngUnit)
  | [] => .ok []
  | p :: ps =>
    let scr : Place := .scratch gid sp (sd + p.off)
    let unit := fun (far : Place) =>
      EngUnit.mk (if ld then far else scr) (if ld then scr else far) p.bytes p.mask [] false (some (p.off / 512)) false false
    match s.pieceSides need sp gid sd ld ps with
    | .error e => .error e
    | .ok us => match p.va with
      | none => .ok (unit .nowhere :: us)
      | some va => match s.copyRange .g need va p.bytes with
        | .error e => .error e
        | .ok runs => .ok (unit (runPlace runs 0) :: us)
/-- The first failing piece stands first: pieces are checked from the front. -/
def State.firstFail (s : State) (need : Need) : List WinPiece → Option Trap
  | [] => none
  | p :: ps => match p.va with
    | none => s.firstFail need ps
    | some va => match s.copyRange .g need va p.bytes with
      | .error e => some e
      | .ok _ => s.firstFail need ps
/-- The checks of a record for CPYT, in the order of R173. -/
def State.cpytTlr (s : State) (h c0 c1 n0 n1 : Nat) : Except Trap (Tlr × Nat × Nat) :=
  match s.tlr h with
  | .error tr => .error tr
  | .ok t => match t.fmt, t.meshRank s.rank with
    | some f, some m =>
      if c0 * f.bits % 8 ≠ 0 ∨ n0 * f.bits % 8 ≠ 0 ∨ (t.rank < 2 ∧ ¬ (c1 = 0 ∧ n1 ≤ 1)) then .error (Trap.of cTensorRecord h)
      else .ok (t, m, f.bits)
    | _, _ => .error (Trap.of cTensorRecord h)
def State.cpyt (s : State) (o : CpytOps) (ld : Bool) : Eff :=
  let t := s.cur
  let srcs := [(1, o.d.val), (2, o.a.val), (2, o.a.val + 1), (2, o.a.val + 2)]
    ++ (if o.bar.isSome then [(3, o.b.val)] else []) ++ (if o.map then [(4, o.c.val)] else [])
  s.teamOp o.g srcs fun s =>
    let sd := (t.sval o.d).toNat
    let h := bitsAt (t.sreg o.a.val).val.toNat 0 16
    let w1 := (t.sreg (o.a.val + 1)).val.toNat
    let w2 := (t.sreg (o.a.val + 2)).val.toNat
    let c0 := bitsAt w1 0 32
    let c1 := bitsAt w1 32 32
    let n0 := bitsAt w2 0 16
    let n1 := bitsAt w2 16 16
    let pitch := bitsAt w2 32 32
    match s.cpytTlr h c0 c1 n0 n1 with
    | .error tr => .trap s tr
    | .ok (r, m, bits) =>
      let len := n0 * bits / 8
      let span : Int := ((n1 : Int) - 1) * pitch + len
      if sd % 8 ≠ 0 ∨ pitch % 8 ≠ 0 ∨ (1 < n1 ∧ pitch < len) ∨ (o.map ∧ 65536 < span) then .trap s (Trap.of cCopyArgument sd)
      else
        let need := if ld then needR else needW
        let total := n1 * len
        let scr := if total = 0 then Except.ok [] else s.copyRange o.sp (if ld then needW else needR) sd span.toNat
        match scr with
        | .error tr => .trap s tr
        | .ok _ =>
          let pieces := if total = 0 then [] else winPieces r m bits c0 c1 n0 n1 pitch
          match (if ld then pieces.findSome? fun p =>
              s.copyGuard o.sp [(.scratch t.id.gid o.sp (sd + p.off), p.bytes)] (sd + p.off) else none) with
          | some tr => .trap s tr
          | none => match s.firstFail need pieces, s.pieceSides need o.sp t.id.gid sd ld pieces with
            | some tr, _ => .trap s tr
            | none, .error tr => .trap s tr
            | none, .ok units => match s.copyBar o.bar o.b with
              | .error tr => .trap s tr
              | .ok (bar, barVa) =>
                let map := (t.sval o.c).toNat
                let lim := match s.myGroup with
                  | some g => s.spaceSize g .k
                  | none => 0
                if o.map ∧ map % 16 ≠ 0 then .trap s (Trap.of cMisaligned map)
                else if o.map ∧ lim < map + 16 then .trap s (Trap.of cScratchRange map)
                else
                  let s1 := if ld then s else pieces.foldl (fun s p => match p.va with
                    | some va => s.noteRange .g va p.bytes
                    | none => s) s
                  (s1.cacheHandle h).acceptEng { s.newEng (if ld then .cpytLd else .cpytSt) total with
                    units, bar, barVa, out := o.out, map := if o.map then some map else none, va := sd }
def execCpytLd (o : CpytOps) (s : State) : Host.Outcome State Fault Refusal := finish (s.cpyt o true)
def execCpytSt (o : CpytOps) (s : State) : Host.Outcome State Fault Refusal := finish (s.cpyt o false)

/-! ### What the engines do -/

/-- Delivery into a migrating group's allocations is frozen (R267, R269). -/
def State.frozen (s : State) (p : Place) : Option Nat :=
  match p with
  | .scratch gid _ _ => match s.group? gid with
    | some g => if g.cause = .migrate then some (s.pcore g.lcore) else none
    | none => none
  | _ => none
def State.landingUsed (s : State) (core : Nat) : Nat :=
  sumOf ((s.landing.filter fun l => l.core == core).map fun l => l.data.length)
/-- A count on its way to the barrier of an operation (R208). -/
def State.countFor (s : State) (e : EngOp) (n : Nat) : State :=
  match e.bar with
  | none => s
  | some obj =>
    let c : BarCount := { key := s.nextKey, op := e.key, obj, va := e.barVa, out := e.out, n, ctx := e.ctx, core := e.core, hdr := e.hdr, held := false }
    { s.bump with counts := s.counts ++ [c] }
/-- The operation has stored a byte, none of a poisoned sector of its own, `p` among its destinations (R331). -/
def EngOp.wrote (e : EngOp) (p : Place) (n : Nat) (x : Place) : Bool :=
  let run := fun (l : List (Place × Nat)) => (l.foldl (fun (a : Nat × Bool) r =>
    (a.1 + r.2, a.2 || r.1.overlaps (min r.2 (e.landed - a.1)) x 1)) (0, false)).2
  (p.overlaps n x 1 || run e.dst || e.units.any fun u => u.done && u.mask == 2 ^ (8 * u.bytes) - 1 && u.dst.overlaps u.bytes x 1)
    && e.bads.all fun b => !b.1.overlaps b.2 x 1
/-- Bytes of an engine written at their home under a mask of bits; poisoned ones land poisoned, a rejection is reported once, and a sector that the operation has written whole is poisoned no more (R209, R218, R229, R331, R335). -/
def State.engWrite (s : State) (e : EngOp) (p : Place) (data : List Byte) (mask : Nat) (bad : Bool) : State :=
  let n := data.length
  let full := mask = 2 ^ (8 * n) - 1
  let old := if full then 0 else fromBytes (s.placeRead p n)
  let new := if full then data
    else leBytes n (fromBytes data &&& mask ||| (old &&& (2 ^ (8 * n) - 1 - mask)))
  let s0 := (s.request e.core p).recallFor e.core p n
  let s1 := s0.homeWrite e.told e.hdr e.ctx e.va p new
  if s.rejects p n then s1.modEng e.key fun e => { e with told := true }
  else if bad then (s1.placePoison p n).modEng e.key fun e => { e with bads := (p, n) :: e.bads }
  else if full ∧ s1.placePoisoned p n = true then s1.heal p n (e.wrote p n)
  else s1
/-- Every window byte of a chunk has been written by a load, or read by a store: its bit is set (R220). -/
def State.chunkDone (s : State) (k : Nat) (c : Option Nat) : State :=
  match s.eng? k, c with
  | some e, some i => match e.map with
    | some m => if e.units.all fun u => u.chunk != some i || (if e.kind = .cpytSt then u.got else u.done) then s.setChunk e.team.gid m i else s
    | none => s
  | _, _ => s
/-- Bytes arrive at a destination: written and counted, or held by the landing buffer (R218, R220, R267). -/
def State.arriveAt (s : State) (e : EngOp) (p : Place) (data : List Byte) (mask : Nat) (bad : Bool) (chunk : Option Nat) : State :=
  match s.frozen p with
  | some core =>
    let l : Landed := { op := e.key, core, place := p, data, mask, bad, n := data.length, chunk }
    { s with landing := s.landing ++ [l] }
  | none =>
    let s1 := (s.engWrite e p data mask bad).modEng e.key fun e => { e with landed := e.landed + data.length }
    if e.out then s1 else s1.countFor e data.length
/-- Held bytes are counted in the step that writes them, into an object of a scratchpad (R269, R411). -/
def State.countHere (s : State) (e : EngOp) (n : Nat) : State :=
  match e.bar with
  | some (.scratch gid sp off) =>
    let c : BarCount := { key := s.nextKey, op := e.key, obj := .scratch gid sp off, va := e.barVa, out := e.out, n, ctx := e.ctx, core := e.core, hdr := e.hdr, held := false }
    s.bump.applyCount c
  | _ => s.countFor e n
/-- The last byte of an operation has been written and counted (R215). -/
def State.engOver (s : State) (e : EngOp) : Bool :=
  e.kind != .xsend && e.accepted && e.landed == e.total && e.fetched == e.total && !s.counts.any fun c => c.op == e.key
/-- An operation that is over completes on its timeline, and is counted off (R215, R292). -/
def State.engDone (s : State) (k : Nat) : State :=
  match s.eng? k with
  | none => s
  | some e =>
    if !s.engOver e then s
    else
      let s1 : State := { s with engs := s.engs.filter fun e => e.key != k }
      (s1.tlFinish e.team.gid (engNumber e.kind) e.num).outDown e.core e.kid
/-- The landing buffer gives its bytes to their destinations, in arrival order (R269, R272). -/
def State.release (s : State) (gid : Nat) : State :=
  let mine := s.landing.filter fun l => match l.place with
    | .scratch g _ _ => g == gid
    | _ => false
  let s1 : State := { s with landing := s.landing.filter fun l => !mine.contains l }
  mine.foldl (fun s l => match s.eng? l.op with
    | none => s
    | some e =>
      let s2 := (s.engWrite e l.place l.data l.mask l.bad).modEng e.key fun e => { e with landed := e.landed + l.n }
      (if e.out then s2 else s2.countHere e l.n).chunkDone e.key l.chunk) s1
/-- A restored group gets the bytes and the counts that were held for it, in one step, and what they end completes (R269, R272, R411). -/
def State.deliver (s : State) (gid : Nat) : State :=
  let ops := (s.engs.filter fun e => e.team.gid == gid).map EngOp.key
  let mine := fun c : BarCount => c.held && match c.obj with
    | .scratch g _ _ => g == gid
    | _ => false
  ops.foldl State.engDone ((s.counts.filter mine).foldl State.applyCount (s.release gid))

/-- What an engine reads: a discarded read gives a poisoned byte (R251, R331). -/
def State.engRead (s : State) (p : Place) (n : Nat) : List Byte × Bool :=
  match p with
  | .nowhere => (List.replicate n 0, true)
  | p => (s.placeRead p n, s.placePoisoned p n)
/-- An engine's read observes every earlier access of its team (R218, R248), and waits as any read does for an early release and a back-off (R245, R329). -/
def State.engReadOk (s : State) (e : EngOp) (p : Place) (n : Nat) : Bool :=
  !s.earlierHit e.team e.seq p n && !s.acqHold e.team e.seq && !s.earlyHold e.team p n && !s.backedOff p
/-- An engine's write follows every earlier access of its team to those bytes (R238), and waits as any write does for an early release and a back-off (R245, R329). -/
def State.engWriteOk (s : State) (e : EngOp) (p : Place) (n : Nat) : Bool :=
  !s.earlierHit e.team e.seq p n && !s.aheadHold e.team p n && !s.backedOff p
/-- An engine's read of its core travels to the home and back (R14, R167). -/
def State.engFetch (s : State) (e : EngOp) (p : Place) (n : Nat) : State := (s.fetchTrip e.core p).recallFor e.core p n
/-- Room for `n` bytes at a destination, which may be frozen. -/
def State.engRoom (s : State) (p : Place) (n : Nat) : Bool :=
  match s.frozen p with
  | some core => decide (s.landingUsed core + n ≤ 65536)
  | none => true

/-- Where the words that a copy has read and not delivered go, the oldest first. -/
def EngOp.flying (e : EngOp) : List Place :=
  (List.range e.flight.length).map fun i => runPlace e.dst (e.fetched - 8 * e.flight.length + 8 * i)
/-- The next word of a copy is read: its channel serves its copies in acceptance order, and a word that is still to be written is not read before (R218). -/
def State.copyRead (s : State) (e : EngOp) (chan : Nat) : State :=
  let ops := s.chanOps e.core chan
  let first := match ops.find? fun x => decide (x.fetched < x.total) with
    | some x => x.key == e.key
    | none => false
  let src := runPlace e.src e.fetched
  let dst := runPlace e.dst e.fetched
  if !first || !s.engReadOk e src 8 || !s.engRoom dst (8 * e.flight.length + 8) || ops.any (fun x => x.flying.any fun p => p.overlaps 8 src 8) then s
  else
    let r := s.engRead src 8
    let s1 := (s.engFetch e src 8).modEng e.key fun e => { e with fetched := e.fetched + 8, flight := e.flight ++ [r] }
    if e.out then s1.countFor e 8 else s1
/-- The oldest word that a copy has read reaches its destination, after those of the copies before it (R218). -/
def State.copyLand (s : State) (e : EngOp) (chan : Nat) : State :=
  match e.flight, e.flying with
  | w :: rest, dst :: _ =>
    let first := match (s.chanOps e.core chan).find? fun x => !x.flight.isEmpty with
      | some x => x.key == e.key
      | none => false
    if !first || !s.engRoom dst 8 || !s.engWriteOk e dst 8 then s
    else (s.modEng e.key fun e => { e with flight := rest }).arriveAt e dst w.1 (2 ^ 64 - 1) w.2 none
  | _, _ => s
/-- COPY_CHANNEL_WORD: the next 8 bytes of a copy are read, or the oldest that have been read are written, in ascending order (R218). -/
def execCopyChannelWord (x : EngTurn) (s : State) : Host.Outcome State Fault Refusal :=
  .next (match s.eng? x.key with
  | none => s
  | some e => match e.kind with
    | .cpy chan => if x.land then s.copyLand e chan else s.copyRead e chan
    | _ => s)

/-- The unit's destination must wait for an earlier unit that overlaps it, so that the highest-numbered row remains (R171). -/
def EngOp.unitFree (e : EngOp) (i : Nat) (u : EngUnit) : Bool :=
  (e.units.take i).all fun v => v.done || !v.dst.overlaps v.bytes u.dst u.bytes
/-- The bytes that a unit of CPYT writes, whether they are poisoned, and the bits it writes (R229). -/
def State.cpytData (s : State) (ld : Bool) (u : EngUnit) : List Byte × Bool :=
  if u.mask = 0 then (List.replicate u.bytes 0, false)
  else
    let r := s.engRead u.src u.bytes
    (if ld then leBytes u.bytes (fromBytes r.1 &&& u.mask) else r.1, r.2)
/-- A unit of a block operation is read (R171, R229, R248). -/
def State.unitRead (s : State) (e : EngOp) (i : Nat) (u : EngUnit) : State :=
  if u.got || !s.engReadOk e u.src u.bytes then s
  else
    let r := if e.kind = .tmov then s.engRead u.src u.bytes else s.cpytData (e.kind == .cpytLd) u
    let s1 := (s.engFetch e u.src u.bytes).modEng e.key fun e =>
      { e with fetched := e.fetched + u.bytes, units := e.units.set i { u with data := r.1, bad := r.2, got := true } }
    let s2 := if e.out then s1.countFor e u.bytes else s1
    if e.kind = .cpytSt then s2.chunkDone e.key u.chunk else s2
/-- A unit of a block operation is written: a TMOV's once every byte of it has been read (R171, R220, R229). -/
def State.unitLand (s : State) (e : EngOp) (i : Nat) (u : EngUnit) : State :=
  let free := e.kind != .tmov || (e.unitFree i u && e.units.all EngUnit.got)
  if !u.got || u.done || !free || !s.engRoom u.dst u.bytes || !s.engWriteOk e u.dst u.bytes then s
  else
    let mask := if e.kind = .cpytSt then u.mask else 2 ^ (8 * u.bytes) - 1
    let held := (s.frozen u.dst).isSome
    let s1 := (s.modEng e.key fun e => { e with units := e.units.set i { u with done := true } }).arriveAt e u.dst u.data mask u.bad u.chunk
    if held || e.kind == .cpytSt then s1 else s1.chunkDone e.key u.chunk
/-- BLOCK_TRANSFER_BYTES: one unit of a block operation is read or written, in any order (R171, R220, R229). -/
def execBlockTransferBytes (x : EngTurn) (i : Nat) (s : State) : Host.Outcome State Fault Refusal :=
  .next (match s.eng? x.key with
  | none => s
  | some e => match e.kind, e.units[i]? with
    | .tmov, some u | .cpytLd, some u | .cpytSt, some u =>
      if !e.accepted then s else if x.land then s.unitLand e i u else s.unitRead e i u
    | _, _ => s)

/-- ENGINE_OPERATION_COMPLETE: the last byte has been written and counted, and the operation completes on its timeline (R215, R292). -/
def execEngineOperationComplete (k : Nat) (s : State) : Host.Outcome State Fault Refusal := .next (s.engDone k)

/-- TMOV_DEADLINE: from the end of its limit on the memory system treats a TMOV as w0, and a prefetch past its limit is abandoned (R171, R172). -/
def execTmovDeadline (k : Nat) (s : State) : Host.Outcome State Fault Refusal :=
  .next (match s.eng? k with
  | some e =>
    if e.kind == .tmov && e.limit != 0 && decide (limitEnd e.issued e.limit < s.clk) then
      s.modEng k fun e => { e with atDeadline := true }
    else s
  | none => match s.load? k with
    | some ld =>
      if ld.kind = .pref ∧ ld.limit ≠ 0 ∧ limitEnd ld.issued ld.limit < s.clk then s.dropLoad k else s
    | none => s)

/-! ### Chunk maps and write pointers (R230) -/

/-- CHTEST. -/
def execChtest (o : ChtestOps) (s : State) : Host.Outcome State Fault Refusal :=
  let t := s.cur
  let gc := t.tguard o.g
  let m := (t.sval o.a).toNat
  let b := (t.sval o.b).toNat
  let f := bitsAt b 0 7
  let l := bitsAt b 8 7
  let lim := match s.myGroup with
    | some g => s.spaceSize g .k
    | none => 0
  finish (if !gc.val then .next (s.writeQ o.g o.d.val false false)
    else if (t.sreg o.a.val).tint || (t.sreg o.b.val).tint then .next (s.writeQ o.g o.d.val false true)
    else if m % 16 ≠ 0 then .trap s (Trap.of cMisaligned m)
    else if lim < m + 16 then .trap s (Trap.of cScratchRange m)
    else if s.earlierHit t.id t.seq (.scratch t.id.gid .k m) 16 || s.acqHold t.id t.seq then .hold s
    else .next (s.writeQ o.g o.d.val (s.chunksSet t.id.gid m f l) false))
/-- What CHWP reads of copy `n` on a channel. -/
def State.chwp (s : State) (gid chan n : Nat) : Word :=
  let tl := s.tline gid chan
  if n ≤ tl.value ∨ tl.done.contains n then BitVec.allOnes 64
  else match s.engs.find? fun e => e.team.gid == gid && e.kind == .cpy chan && e.accepted && e.num == n with
    | some e => BitVec.ofNat 64 e.landed
    | none => 0
/-- CHWP: an acquire, which waits for the earlier ones (R230, R242). -/
def execChwp (o : ChwpOps) (s : State) : Host.Outcome State Fault Refusal :=
  let t := s.cur
  let a := t.sreg o.a.val
  finish (if !a.tint && (t.tguard o.g).val && s.acqHold t.id t.seq then .hold s
    else .next (if a.tint then s.writeS o.g o.d.val 0 true
    else s.writeS o.g o.d.val (s.chwp t.id.gid o.chan.val a.val.toNat) false))

/-! ### Timelines and FENCE (R214-R217, R231, R232) -/

/-- TLSIG: a posted maximum of the timeline's word (R217, R231). -/
def execTlsig (o : TlsigOps) (s : State) : Host.Outcome State Fault Refusal :=
  finish (s.teamOp o.g [(2, o.a.val), (3, o.b.val)] fun s =>
    let x := s.cur.sval o.a
    match tlName x with
    | some (.mem va) => match s.locate .g needW va 8 with
      | .error f => .trap s { xTrap f 3 va [] with addr := va }
      | .ok p => s.issuePost (s.newPost .w64 false (if o.rel then some o.scope else none)
          [{ place := p.place, va, data := leBytes 8 (s.cur.sval o.b).toNat, red := some .max, done := false }]) none
    | _ => .trap s (Trap.of cTlDesignator x.toNat))
/-- TLRD: an engine timeline of the group, or the word at its home (R216, R231, R233). -/
def execTlrd (o : TlrdOps) (s : State) : Host.Outcome State Fault Refusal :=
  let t := s.cur
  let gc := t.tguard o.g
  let a := t.sreg o.a.val
  finish (if !gc.val then .next (s.writeS o.g o.d.val 0 false)
    else if a.tint then .next (s.writeS o.g o.d.val 0 true)
    else match tlName a.val with
      | none => .trap s (Trap.of cTlDesignator a.val.toNat)
      | some (.engine e) => if s.acqHold t.id t.seq then .hold s else .next (s.writeS o.g o.d.val (BitVec.ofNat 64 (s.tline t.id.gid e).value) false)
      | some (.mem va) => match s.readFirst needR va 8 with
        | .error tr => s.readTrap { tr with addr := va }
        | .ok (s1, none) => .hold s1
        | .ok (s1, some ld) => match ld.lanes with
          | l :: _ => (match l.bad with
            | some c => s1.readTrap (Trap.of c va)
            | none => .next (s1.writeS o.g o.d.val (BitVec.ofNat 64 l.value) false))
          | [] => .next s1)
/-- FENCE (R232): it stays open until it completes, while other instructions proceed; an acquiring one holds later accesses and instructions of its chapter as the scoreboard does, and a releasing one makes later writes releases. -/
def execFence (o : FenceOps) (s : State) : Host.Outcome State Fault Refusal :=
  let run := fun s : State =>
    let t := s.cur
    let s1 : State := { s with loads := (s.loads.map fun ld =>
      if ld.team = t.id ∧ ld.written = true ∧ ld.kind ≠ .pref then { ld with limit := 0 } else ld) }
    if s1.fenceDone t.id t.seq o.scope then .next s1
    else .next (s1.modCur fun t =>
      { t with fences := (t.fences.filter fun f => !s1.fenceDone t.id f.seq f.scope) ++ [{ seq := t.seq, scope := o.scope, acq := o.acq, rel := o.rel }] })
  finish (if o.scope = .team then
      (let gc := s.cur.tguard o.g
       if !gc.val && !gc.tint then .next s
       else match s.teamEscape o.g [] with
        | some tr => .trap s tr
        | none => run s)
    else s.syncOp o.g run)

end Sys2Proof.Machine
end

