-- ==== Sys2Proof/Machine/Plan.lean ====
section
/-! DEFINITION. The steps and runs of a re-shard plan, as its layout records give them (R375-R377). -/

namespace Sys2Proof.Machine

/-- A box of global coordinates, by dimension. -/
structure Box where
  ms : Nat
  md : Nat
  lo : List Nat
  hi : List Nat
  deriving DecidableEq, Repr
def Tlr.low (t : Tlr) (m d : Nat) : Nat := t.shardAt m d * (t.ext d / t.parts d)
/-- A rank with a nonzero coordinate on a replicate axis sends nothing. -/
def Tlr.replica (t : Tlr) (m : Nat) : Bool := t.axes.any fun a => !t.split a && t.axisAt m a != 0
/-- Every step of a plan, in order. -/
def planBoxes (src dst : Tlr) : List Box :=
  (List.range dst.ranks).flatMap fun md => (List.range src.ranks).filterMap fun ms =>
    let lo := (List.range 6).map fun d => max (src.low ms d) (dst.low md d)
    let hi := (List.range 6).map fun d => min (src.low ms d + src.lext d) (dst.low md d + dst.lext d)
    if src.replica ms || !(lo.zip hi).all fun p => decide (p.1 < p.2) then none else some { ms, md, lo, hi }
def Box.ext (b : Box) (d : Nat) : Nat := nth 0 b.hi d - nth 0 b.lo d
def Box.elements (b : Box) : Nat := (List.range 6).foldl (fun p d => p * b.ext d) 1
def Tlr.elemBits (t : Tlr) : Nat := (t.fmt.map Fmt.bits).getD 8
def Box.bytes (b : Box) (bits : Nat) : Nat := b.elements * bits / 8
/-- A run is a row of the box where both records have STRIDE0 1, else one element. -/
def rowRuns (src dst : Tlr) : Bool := src.stride 0 == 1 && dst.stride 0 == 1
def Box.runElems (b : Box) (rows : Bool) : Nat := if rows then b.ext 0 else 1
/-- The global coordinates of the first element of run `k`. -/
def Box.runAt (b : Box) (rows : Bool) (k : Nat) : List Nat :=
  let n := (List.range 6).foldl (fun (acc : List Nat × Nat) d =>
    if rows && d == 0 then (acc.1 ++ [nth 0 b.lo 0], acc.2)
    else (acc.1 ++ [nth 0 b.lo d + acc.2 % b.ext d], acc.2 / b.ext d)) ([], k)
  n.1
/-- The byte offset of global coordinates in the shard of a rank. -/
def Tlr.shardOff (t : Tlr) (m : Nat) (cs : List Nat) : Int :=
  t.offset (cs.zipIdx.map fun p => p.1 - t.low m p.2) * (t.elemBits : Int) / 8

/-- A word of the record as the engine knows it; it alone writes words 0 to 23 (R379), and WIN and BAR are taken as they were at the acceptance (DEDUCED, log 77). -/
def Plan.word (p : Plan) (i : Nat) : Nat := nth 0 p.words i
/-- The addresses and the length of a run. -/
structure Run where
  src : Nat
  dst : Nat
  bytes : Nat
  bar : Nat
  deriving DecidableEq, Repr
def runOf (p : Plan) (t : PlanStep) (k : Nat) (t1 t2 : Tlr) : Run :=
  let b : Box := { ms := t.ms, md := t.md, lo := t.lo, hi := t.hi }
  let cs := b.runAt (rowRuns t1 t2) k
  { src := wrapTo 64 ((t1.baseOf t.ms : Int) + t1.shardOff t.ms cs),
    dst := wrapTo 64 ((p.word (24 + t.pkg) : Int) + t2.shardOff t.md cs),
    bytes := t.size / max 1 t.runs, bar := p.word (40 + t.pkg) }
/-- The first run of a step that is in flight. -/
def PlanStep.firstFlying (t : PlanStep) : Option Nat := ((List.range t.sent).map (t.first + ·)).find? t.flying

end Sys2Proof.Machine
end

