-- ==== Sys2Proof/Machine/Fabric.lean ====
section
/-! DEFINITION. The pod fabric: its instructions, ports and routes, packets and acknowledgements, incarnations and lost peers (R351-R371, R416). -/

namespace Sys2Proof.Machine

/-! ### Ports and routes (R351-R355) -/

def State.modPort (s : State) (p : Nat) (f : Port → Port) : State := { s with ports := s.ports.set Port.init p (f (s.portAt p)) }
/-- The row of a target: the override, the direct link, or the lowest relay; 16 where there is none (R353). -/
def State.row (s : State) (t : Nat) : Nat :=
  match s.override.get none t with
  | some r => if s.relayOk r t then r else free t
  | none => free t
where
  free (t : Nat) : Nat :=
    if s.linkTo t then t else ((List.range s.podSize).find? fun r => s.relayOk r t).getD 16
/-- What a posted access waits for before its packets leave: its acceptance, the acquires before it, and what it releases (R242, R256). -/
def State.postOpen (s : State) (q : Post) : Bool :=
  q.accepted && !s.acqHold q.team q.seq && relDone s q.team q.seq q.rel && s.fencesDone q.team q.fences
/-- The runs of plans toward a target that are in flight: plan, step and run. -/
def State.runsTo (s : State) (t : Nat) : List (Nat × Nat × Nat) :=
  s.plans.flatMap fun p => p.steps.flatMap fun x => if x.pkg = t then
    ((List.range x.sent).filter fun i => x.flying (x.first + i)).map fun i => (p.key, x.index, x.first + i) else []
/-- The operations whose packets toward a target may have gone by now. -/
def State.sentKeys (s : State) (t : Nat) : List Nat :=
  ((s.posts.filter fun q => q.peers.contains t && s.postOpen q).map Post.key
  ++ (s.engs.filter fun e => e.kind == .xsend && e.tgt == t && e.accepted && relDone s e.team e.seq e.rel).map EngOp.key
  ++ (s.loads.filter fun ld => ld.lanes.any fun l => l.due && match l.place with
    | .peer r _ => r == t && s.peerOk ld l r
    | _ => false).map Load.key
  ++ (s.sent.filter fun b => b.rank == t && b.answer.isNone).map BarSent.key
  ++ (s.counts.filter fun c => match c.obj with
    | .peer r _ => r == t
    | _ => false).map BarCount.key
  ++ (s.binds.filter fun b => b.fired && match b.obj with
    | .peer r _ => r == t
    | _ => false).map Binding.key).filter fun k => s.sendOk k t
/-- The operations whose posted writes toward a target are not yet acknowledged. -/
def State.unacked (s : State) (t : Nat) : List Nat :=
  (s.posts.filter fun q => q.writes.any fun w => !w.done && match w.place with
    | .peer r _ => r == t
    | _ => false).map Post.key
  ++ (s.engs.filter fun e => e.kind == .xsend && e.tgt == t).map EngOp.key
/-- A row takes its present value; a changed one holds new packets until the writes sent on the old path are acknowledged (R254), and one without a path notes when it lost it (R416). -/
def State.reroute1 (s : State) (t : Nat) : State :=
  let old := s.route.get 16 t
  let new := s.row t
  if t = s.rank ∨ old = new then s
  else
    let sent := s.sentKeys t
    let s1 : State := { s with route := s.route.set 16 t new, pathless := s.pathless.set none t (if new = 16 then some (s.clk, sent) else none) }
    if old = 16 then s1
    else
      let hold : RouteHold := { tgt := t, sent, keys := (s.unacked t).filter sent.contains, runs := s.runsTo t }
      { s1 with holds := (s.holds.filter fun h => !s.drainedHold h) ++ [hold] }
/-- Every row after a change of a link. -/
def State.reroute (s : State) : State := (List.range s.podSize).foldl State.reroute1 s
/-- $peer (R352). -/
def State.peerReg (s : State) : Word :=
  let live := fun r => if r = s.rank then false else s.row r != 16
  BitVec.ofNat 64 (s.incarnation % 256 * 2 ^ 40 + (s.podSize - 1) % 16 * 2 ^ 36 + s.spare % 16 * 2 ^ 32
    + bitsOf 16 (fun r => decide (r < s.podSize) && r != s.rank && s.linkTo r) * 2 ^ 16
    + bitsOf 16 (fun r => decide (r < s.podSize) && live r))

/-! ### XFETCH, XATOM and XSIG (R368-R371) -/

/-- XFETCH. -/
def execXfetch (o : XfetchOps) (s : State) : Host.Outcome State Fault Refusal :=
  finish (match s.loadLanes o.g .g o.w o.signed o.addr true with
  | .error tr => .trap s tr
  | .ok lanes => .next (s.issueLoad { s.newLoad .load .g o.w o.signed o.d.val o.w.regs lanes with
      limit := o.limit.val, acq := if o.acq then some .pod else none, relaxed := o.rlx, keep := s.cur.keepLanes o.g }))
/-- The lanes of an XATOM: those of an ATOM, every page a remote window. -/
def State.xatomCheck (s : State) (o : XatomOps) : Except Trap (List (Nat × Nat × Place)) :=
  match s.atomCheck o.g .g o.w o.op o.addr o.c.val with
  | .error tr => .error tr
  | .ok rs => match rs.filter fun r => !r.2.2.isPeer with
    | [] => .ok rs
    | r :: rest => .error (Trap.lanesOf cFabricTarget r.2.1 (r.1 :: rest.map fun q => q.1))
/-- XATOM with a result. -/
def execXatom (o : XatomOps) (s : State) : Host.Outcome State Fault Refusal :=
  finish (match s.xatomCheck o with
  | .error tr => .trap s tr
  | .ok rs => s.issueAtom o.w o.signed o.op o.ord .pod .g o.d.val o.c.val o.rlx rs)
/-- XATOM.nr. -/
def execXatomNr (o : XatomOps) (s : State) : Host.Outcome State Fault Refusal :=
  finish (match s.xatomCheck o with
  | .error tr => .trap s tr
  | .ok rs => s.issueRed o.w o.signed o.op o.ord .pod o.c.val o.rlx rs)

/-- XSIG (R370). -/
def execXsig (o : XsigOps) (s : State) : Host.Outcome State Fault Refusal :=
  finish (s.teamOp o.g [(2, o.a.val), (3, o.b.val)] fun s =>
    let a := (s.cur.sval o.a).toNat
    let x := s.cur.sval o.b
    if a % (if o.op = .cnt then 16 else 8) ≠ 0 then .trap s (Trap.of cMisaligned a)
    else match s.locate .g needRW a 8 with
      | .error f => .trap s { xTrap f 3 a [] with addr := a }
      | .ok l => match l.place with
        | .peer r _ =>
          if o.op = .cnt ∧ 2 ^ 32 ≤ x.toNat then .trap s (Trap.of cBarCount a)
          else
            let carried := if o.ordf then some ((List.range 16).map fun i => s.pathSeq.get 0 (pathKey r i)) else none
            let q := s.newPost .w64 false (if o.rel then some .pod else none)
              [{ place := l.place, va := a, data := leBytes 8 x.toNat, red := none, done := false }]
            s.issuePost { q with sig := some (o.op, carried), relaxed := o.rlx } (some 19)
        | _ => .trap s (Trap.of cFabricTarget a))

/-! ### XSEND (R367) -/

/-- A range of an XSEND by runs, checked from its first page on: a source must be local, a destination must be a window of one peer. -/
def State.sendRuns (s : State) (src : Bool) (peer : Option Nat) (a : Nat) : Nat → Nat → Except Trap (List (Place × Nat))
  | 0, _ => .ok []
  | fuel + 1, n =>
    if n = 0 then .ok []
    else
      let step := min n (65536 - a % 65536)
      match s.locate .g (if src then needR else needW) a step with
      | .error f =>
        .error (if src && f.cause == cFabricTarget then Trap.of cFabricArgument a
          else { xTrap f (if src then 5 else 6) a [] with addr := a })
      | .ok x =>
        let bad : Option Nat := match x.place, peer with
          | .peer r _, some q => if !src && r == q then none else some (if src then cFabricArgument else cFabricTarget)
          | .peer _ _, none => if src then some cFabricArgument else none
          | _, _ => if src then none else some cFabricTarget
        match bad with
        | some c => .error (Trap.of c a)
        | none =>
          let next := match x.place with
            | .peer r _ => some r
            | _ => none
          match s.sendRuns src next (a + step) fuel (n - step) with
          | .error e => .error e
          | .ok l => .ok ((x.place, step) :: l)
/-- The barrier of an XSEND lies in the die scratchpad of its peer (check 5). -/
def State.sendBar (s : State) (o : XsendOps) (p : Nat) : Except Trap (Option ObjLoc × Nat) :=
  if !o.bar then .ok (none, 0)
  else
    let va := (s.cur.sval o.c).toNat
    let bad : Except Trap (Option ObjLoc × Nat) := .error (Trap.of cBarState va)
    if va % 16 ≠ 0 then bad
    else match s.locate .g needRW va 16 with
      | .ok { place := .peer r a, .. } => if r = p ∧ inDieScratch a = true then .ok (some (.peer r a), va) else bad
      | _ => bad
/-- Check 6 of an XSEND: its relay. -/
def State.viaOk (s : State) (o : SendPath) (p : Nat) : Bool :=
  match o with
  | .via r => s.relayOk r.val p
  | _ => true
/-- XSEND. A byte count that fails its check leaves the destination address in $faddr (R363; DESIGN CHOICE, log 66). -/
def execXsend (o : XsendOps) (s : State) : Host.Outcome State Fault Refusal :=
  let srcs := [(1, o.d.val), (2, o.a.val), (3, o.b.val)] ++ (if o.bar then [(4, o.c.val)] else [])
  finish (s.teamOp o.g srcs fun s =>
    let d := (s.cur.sval o.d).toNat
    let a := (s.cur.sval o.a).toNat
    let n := (s.cur.sval o.b).toNat
    if a % 8 ≠ 0 ∨ d % 8 ≠ 0 then .trap s (Trap.of cMisaligned (if a % 8 ≠ 0 then a else d))
    else if 16777216 < n ∨ n % 8 ≠ 0 then .trap s (Trap.of cFabricArgument d)
    else if n = 0 then s.acceptEng (s.newEng .xsend 0)
    else match s.sendRuns true none a (pagesIn n) n with
      | .error tr => .trap s tr
      | .ok src => match s.sendRuns false none d (pagesIn n) n with
        | .error tr => .trap s tr
        | .ok dst =>
          let p := match dst with
            | (.peer r _, _) :: _ => r
            | _ => 0
          match s.sendBar o p with
          | .error tr => .trap s tr
          | .ok (bar, barVa) =>
            if !s.viaOk o.path p then .trap s (Trap.of cFabricTarget d)
            else s.acceptEng { s.newEng .xsend n with
              src, dst, bar, barVa, rel := if o.rel then some .pod else none, relaxed := o.rlx, tgt := p, by_ := o.path, va := d })

/-! ### What comes back to a source (R292, R358, R360, R367) -/

/-- An operation whose writes are all done leaves: its number and its count go with it. -/
def State.endPost (s : State) (q : Post) : State :=
  let s1 : State := { s with posts := s.posts.filter fun p => p.key != q.key }
  let s2 := match q.num with
    | some (e, n) => s1.tlFinish q.team.gid e n
    | none => s1
  if q.counted then s2.outDown q.core q.kid else s2
/-- The runs of a step that are in flight, as packets of 4 KiB. -/
def PlanStep.packets (t : PlanStep) : Nat :=
  ((List.range t.sent).filter fun i => t.flying (t.first + i)).length * ((t.size / max 1 t.runs + 4095) / 4096)
/-- Packets of a path that lie before operation `key` and are outstanding: a write each, 4 KiB each of an XSEND, and those of re-shard runs (R357, R359, R377). -/
def State.pathAhead (s : State) (key tgt path : Nat) : Nat :=
  sumOf (s.posts.map fun q => if q.key < key ∧ q.accepted = true ∧ s.pathOf q tgt = path ∧ q.sig = none then
      (q.writes.filter fun w => !w.done && match w.place with
        | .peer r _ => r == tgt
        | _ => false).length else 0)
  + sumOf (s.engs.map fun e => if e.kind = .xsend ∧ e.key < key ∧ e.accepted = true ∧ e.tgt = tgt ∧ e.path = path then
      (e.total - sumOf (e.acked.map fun r => r.2 - r.1) + 4095) / 4096 else 0)
  + (if path = s.rowTo tgt then sumOf (s.plans.map fun p => sumOf (p.steps.map fun t => if t.pkg = tgt then t.packets else 0)) else 0)
/-- Write `i` of a post to a peer is among the 256 packets that its path may have outstanding (R359). -/
def State.pathRoom (s : State) (q : Post) (i tgt : Nat) : Bool :=
  let mine := ((q.writes.take i).filter fun w => !w.done && match w.place with
    | .peer r _ => r == tgt
    | _ => false).length
  q.sig.isSome || decide (s.pathAhead q.key tgt (s.pathOf q tgt) + mine < 256)
/-- An earlier XSIG of a team to a peer is not yet acknowledged (R365). -/
def State.sigDue (s : State) (id : TeamId) (seq tgt : Nat) : Bool :=
  s.posts.any fun q => q.team == id && decide (q.seq < seq) && q.sig.isSome && q.peers.contains tgt
/-- A write of a posted access may have been performed at its peer: its packet may have gone, and what it follows there has been performed (R238, R254, R255, R365). -/
def State.writeSent (s : State) (q : Post) (w : PostWrite) : Bool :=
  match w.place with
  | .peer r _ => s.postOpen q && s.sendOk q.key r && s.pathClear q.team q.seq r (s.pathOf q r) q.relaxed
      && (s.ownWrites q.team q.seq w.place w.data.length).isEmpty && !s.earlierRead q.team q.seq w.place w.data.length
      && !(q.sig.isSome && s.sigDue q.team q.seq r)
  | _ => s.postOpen q
/-- Every write of a posted access that is still due may have been performed at its peer. -/
def State.postSent (s : State) (q : Post) : Bool := s.postOpen q && q.writes.all fun w => w.done || s.writeSent q w
/-- A posted access performed at its homes, or acknowledged by its targets, is counted off (R292). -/
def State.ackPost (s : State) (k : Nat) : State :=
  if s.isSavePost k then s
  else
    let s1 := s.performPost k
    match s1.post? k with
    | none => s1
    | some q =>
      if (q.writes.all fun w => w.done || w.place.isPeer) && s1.postSent q then
        (q.writes.foldl (fun s w => if w.done then s else s.request q.core w.place) s1).endPost q
      else s1

/-- Kind 0x07: posted bytes that were not performed (R364). -/
def State.report7 (s : State) (h : ReqHdr) (ctx cause va : Nat) : State := s.post (Report.from_ h ctx 0x07 cause va)
/-- The writes of a post with the offset of their first byte. -/
def offsets : Nat → List PostWrite → List (Nat × PostWrite)
  | _, [] => []
  | o, w :: ws => (o, w) :: offsets (o + w.data.length) ws
def cutRange (lo hi : Nat) (rs : List (Nat × Nat)) : List (Nat × Nat) :=
  (rs.flatMap fun r => [(r.1, min r.2 lo), (max r.1 hi, r.2)]).filter fun r => decide (r.1 < r.2)
def meets (lo hi : Nat) (rs : List (Nat × Nat)) : Bool := rs.any fun r => decide (max lo r.1 < min hi r.2)
def rangeSum (rs : List (Nat × Nat)) : Nat := sumOf (rs.map fun r => r.2 - r.1)
/-- An engine operation that is over. -/
def State.endEng (s : State) (e : EngOp) : State :=
  let s1 : State := { s with engs := s.engs.filter fun x => x.key != e.key }
  (s1.tlFinish e.team.gid (engNumber e.kind) e.num).outDown e.core e.kid
/-- The source bytes of a range have been read as R248 states, and may have been sent (R254, R367). -/
def State.rangeSent (s : State) (e : EngOp) (lo hi : Nat) : Bool :=
  let mine := (lo - rangeSum (e.acked.filter fun r => decide (r.1 < lo)) + 4095) / 4096
  e.accepted && s.sendOk e.key e.tgt && s.pathClear e.team e.seq e.tgt e.path e.relaxed
    && decide (s.pathAhead e.key e.tgt e.path + mine < 256) && relDone s e.team e.seq e.rel
    && (List.range ((hi - lo + 7) / 8)).all fun i => s.engReadOk e (runPlace e.src (lo + 8 * i)) 8
/-- Bytes that were dropped travel again under a grant alone (R358). -/
def State.grantOpen (s : State) (e : EngOp) (lo hi : Nat) : Bool :=
  !meets lo hi e.dropped || match e.grant with
    | some (start, budget) => decide (start ≤ s.clk) && decide (hi - lo ≤ budget)
    | none => false
/-- The source bytes of a range are fetched from their homes, and leave for the peer (R14, R17, R167). -/
def State.sendTrip (s : State) (e : EngOp) (lo hi : Nat) : State :=
  ((List.range ((hi - lo + 255) / 256)).foldl (fun s i => s.engFetch e (runPlace e.src (lo + 256 * i)) (min 256 (hi - lo - 256 * i))) s).request
    e.core (runPlace e.dst lo)
/-- FABRIC_ACK: a target acknowledges bytes of a posted operation, performed or denied (R360, R367, R370). -/
def execFabricAck (k lo bytes : Nat) (denied : Bool) (s : State) : Host.Outcome State Fault Refusal :=
  let hi := lo + bytes
  .next (match s.eng? k with
  | some e =>
    if e.kind ≠ .xsend ∨ bytes = 0 ∨ e.total < hi ∨ meets lo hi e.acked = true ∨ s.rangeSent e lo hi = false
      ∨ s.grantOpen e lo hi = false then s
    else
      let s0 := s.sendTrip e lo hi
      let s1 := if denied then s0.report7 e.hdr e.ctx cFabricDenied (e.va + lo) else s0
      let again := meets lo hi e.dropped
      let e1 : EngOp := { e with
        acked := (lo, hi) :: e.acked, dropped := cutRange lo hi e.dropped, fetched := e.fetched + bytes,
        landed := e.landed + bytes, grant := if again then e.grant.map fun g => (g.1, g.2 - bytes) else e.grant }
      if rangeSum e1.acked = e.total then s1.endEng e else s1.modEng k fun _ => e1
  | none => match s.post? k with
    | none => s
    | some q =>
      let ws := offsets 0 q.writes
      let sent := fun (p : Nat × PostWrite) => match ws.findIdx? fun x => x.1 == p.1, p.2.place with
        | some i, .peer r _ => s.pathRoom q i r && s.writeSent q p.2
            && (q.writes.take i).all fun v => v.done || !v.place.overlaps v.data.length p.2.place p.2.data.length
        | _, _ => false
      let hit := fun (p : Nat × PostWrite) => !p.2.done && decide (lo ≤ p.1) && decide (p.1 + p.2.data.length ≤ hi) && sent p
      match ws.find? hit with
      | none => s
      | some w =>
        let s0 := s.request q.core w.2.place
        let s1 := if denied then s0.report7 q.hdr q.ctx cFabricDenied w.2.va else s0
        let writes := ws.map fun p => if hit p then { p.2 with done := true } else p.2
        let q1 : Post := { q with writes }
        let s2 := s1.modPost k fun _ => q1
        if q1.writes.all PostWrite.done then s2.endPost q1 else s2)

/-- DROP_NOTICE: a read is sent again at once; bytes of an XSEND wait for a reservation (R358). -/
def execDropNotice (k lo bytes : Nat) (s : State) : Host.Outcome State Fault Refusal :=
  let hi := lo + bytes
  .next (match s.eng? k with
  | none => s
  | some e =>
    if e.kind ≠ .xsend ∨ bytes = 0 ∨ e.total < hi ∨ meets lo hi e.acked = true ∨ meets lo hi e.dropped = true
      ∨ s.rangeSent e lo hi = false then s
    else s.modEng k fun e => { e with dropped := (lo, hi) :: e.dropped })
/-- RESERVATION_GRANT: `start` units of 16 cycles from now, `budget` bytes at most (R358). -/
def execReservationGrant (k start budget : Nat) (s : State) : Host.Outcome State Fault Refusal :=
  .next (match s.eng? k with
  | none => s
  | some e =>
    if e.kind ≠ .xsend ∨ e.dropped = [] ∨ e.grant ≠ none ∨ rangeSum e.dropped < budget then s
    else s.modEng k fun e => { e with grant := some (s.clk + 16 * start, budget) })
/-- GRANT_WINDOW_EXPIRY: what is unsent after 8,192 cycles needs a new request (R358). -/
def execGrantWindowExpiry (k : Nat) (s : State) : Host.Outcome State Fault Refusal :=
  .next (match s.eng? k with
  | none => s
  | some e => match e.grant with
    | some (start, _) => if start + 8192 ≤ s.clk then s.modEng k fun e => { e with grant := none } else s
    | none => s)

/-! ### A package as target (R359, R360, R365, R370) -/

/-- The entry that decides a byte: the lowest-numbered one of its source that covers it. -/
def State.aperture (s : State) (src a : Nat) : Option Aperture :=
  (List.range 64).findSome? fun i => match s.apertures.get none i with
    | some e => if e.rank = src ∧ e.lo ≤ a ∧ a < e.hi then some e else none
    | none => none
/-- An access is allowed as a whole or denied as a whole. -/
def State.allowed (s : State) (src a n : Nat) (w : Bool) : Bool :=
  (List.range n).all fun i => match s.aperture src (a + i) with
    | some e => !w || e.write
    | none => false
/-- Each byte belongs to the context of its own entry: the access as runs of one context. -/
def State.ctxRuns (s : State) (src a : Nat) : List Byte → List (Nat × Nat × List Byte)
  | [] => []
  | b :: bs =>
    let c := ((s.aperture src a).map Aperture.ctx).getD 64
    match s.ctxRuns src (a + 1) bs with
    | (a', c', l) :: rest => if c' = c then (a, c, b :: l) :: rest else (a, c, [b]) :: (a', c', l) :: rest
    | [] => [(a, c, [b])]
def State.remoteWrite (s : State) (src a : Nat) (bs : List Byte) : State :=
  (s.ctxRuns src a bs).foldl (fun s r => s.homeWrite false ReqHdr.nobody r.2.1 r.1 (.phys r.1) r.2.2) s
def State.apCtx (s : State) (src a : Nat) : Nat := ((s.aperture src a).map Aperture.ctx).getD 64

/-- The context that an atomic operation of a peer is reported to: that of the first byte which is rejected, else of the first poisoned one, else of the first. -/
def State.apBlame (s : State) (src a n : Nat) : Nat :=
  let at_ := fun (bad : Nat → Bool) => ((List.range n).map (a + ·)).find? bad
  s.apCtx src (((at_ fun b => s.rejects (.phys b) 1).orElse fun _ => at_ fun b => s.poisoned b 1).getD a)

/-- A landed prefix swallows the ranges that touch it. -/
def growPrefix : Nat → Nat → Nat → List LandedRange → Nat × List LandedRange
  | 0, _, n, rs => (n, rs)
  | fuel + 1, key, n, rs => match rs.find? fun r => r.key == key && decide (r.lo ≤ n) with
    | none => (n, rs)
    | some r => growPrefix fuel key (max n r.hi) (rs.filter fun x => x != r)
/-- The bytes at positions `lo` to `lo + n - 1` of a path have been disposed of (R359). -/
def State.dispose (s : State) (key lo n : Nat) : State :=
  if n = 0 then s
  else
    let rs := { key, lo, hi := lo + n } :: s.landedMore
    let r := growPrefix (rs.length + 1) key (s.landed.get 0 key) rs
    { s with landed := s.landed.set 0 key r.1, landedMore := r.2 }
/-- The effect of a signal at its home (R370). -/
def State.signal (s : State) (h : HeldSignal) : State :=
  match h.op with
  | .st => s.remoteWrite h.src h.addr (leBytes 8 h.x.toNat)
  | .max => s.reduce false ReqHdr.nobody (s.apBlame h.src h.addr 8) h.addr (.phys h.addr) .max false 8 h.x.toNat 0
  | .add => s.reduce false ReqHdr.nobody (s.apBlame h.src h.addr 8) h.addr (.phys h.addr) .add false 8 h.x.toNat 0
  | .cnt => (s.barOp (.phys h.addr) ReqHdr.nobody h.ctx h.addr (.count false h.x.toNat)).1
def State.signalDue (s : State) (h : HeldSignal) : Bool :=
  (List.range 16).all fun i => decide (h.carried[i]?.getD 0 ≤ s.landed.get 0 (pathKey h.src i))
/-- The held signals that may be performed: those whose prefixes have arrived, none of a team before an earlier one of the same team (R365). -/
def State.dueSignals (s : State) : List HeldSignal → List (Nat × TeamId) → List HeldSignal
  | [], _ => []
  | h :: l, stuck =>
    if s.signalDue h && !stuck.contains (h.src, h.team) then h :: s.dueSignals l stuck
    else s.dueSignals l ((h.src, h.team) :: stuck)
/-- Held signals whose prefixes have arrived are performed. -/
def State.signalsDue (s : State) : State :=
  let due := s.dueSignals s.heldSignals []
  due.foldl State.signal { s with heldSignals := s.heldSignals.filter fun h => !due.contains h }
/-- An earlier signal of a peer's team is held here: its later signal packets wait (R365). -/
def State.signalHeld (s : State) (src : Nat) (team : TeamId) : Bool := s.heldSignals.any fun h => h.src == src && h.team == team

/-- A binding asked for by a peer, for an object here (R213, R365). -/
def State.remoteBind (s : State) (src ctx addr : Nat) (kind : BindKind) (here : Option (Nat × Nat)) : State :=
  let cond := match here with
    | some (a, x) => if kind = .watch then BindCond.watch a x else .memTl a x
    | none => .peer src 0
  match s.bindRoom (.phys addr) cond with
  | none => s
  | some bid =>
    let b : Binding :=
      { key := s.nextKey, obj := .phys addr, va := addr, kind, cond, bid, satisfied := s.condHolds cond, fired := false, ctx, owner := src }
    let s1 : State := { s.bump with binds := s.binds ++ [b] }
    (s1.barOp (.phys addr) ReqHdr.nobody ctx addr (.bind b.key)).1
/-- A barrier operation of a peer's team, on an object or a compared word here (R365). -/
def State.remoteBarrier (s : State) (src addr : Nat) (team : TeamId) (m : BarrierMsg) : State :=
  let ctx := s.apCtx src addr
  let run := fun (op : BarOp) => s.barOp (.phys addr) ReqHdr.nobody ctx addr op
  match m with
  | .init n => (run (.init n)).1
  | .inv => (run .inv).1
  | .arrive => (run .arrive).1
  | .expect out n => (run (.expect out n)).1
  | .count n => (run (.count false n)).1
  | .test p => (run (.test p)).1
  | .wait p =>
    let x := run (.wait p)
    (match x.2 with
    | .block => { x.1 with remoteWaits := x.1.remoteWaits ++ [{ rank := src, team, obj := addr }] }
    | _ => x.1)
  | .bind kind here => s.remoteBind src ctx addr kind here
  | .arm kind obj x =>
    let cond : BindCond := if kind = .watch then .watch addr x else .memTl addr x
    (match s.bindRoom (.peer src obj) cond with
    | none => s
    | some bid =>
      let b : Binding :=
        { key := s.nextKey, obj := .peer src obj, va := obj, kind, cond, bid, satisfied := false, fired := s.condHolds cond, ctx, owner := src }
      { s.bump with binds := s.binds ++ [b] })
  | .fired => s
  | .freed obj => { s with binds := s.binds.filter fun b => b.obj != .peer src obj }
/-- The notice of a comparison at a peer, for an object here: of its own team, or of another's (R213). -/
def State.remoteFired (s : State) (src addr : Nat) : State :=
  let mine := fun b : Binding => (match b.cond with
    | .peer r _ => r == src
    | _ => false) && match b.obj with
      | .phys a => a == addr
      | .scratch _ _ _ => b.va == addr
      | .peer _ _ => false
  match s.binds.find? mine with
  | some b => s.satisfy b.key b.obj
  | none => s
/-- What a home on a peer answers reaches its team (R225, R365). -/
def State.answered (s : State) (src : Nat) (id : TeamId) (a : BarrierAnswer) : State :=
  match s.sent.find? fun b => b.team == id && b.rank == src && b.answer.isNone with
  | some b =>
    if !s.sendOk b.key src || s.sigDue id b.seq src then s else
    let s1 : State := { s with sent := s.sent.map fun b =>
      if b.team = id then { b with answer := some a, counted := false } else b }
    if b.counted then s1.outDown b.core b.kid else s1
  | none => match a with
    | .wake f =>
      let wake := fun t : Team => match t.wait with
        | some w => (match w.obj with
          | .peer r _ => if r = src ∧ w.answer = none ∧ t.state = .blocked then { t with wait := some { w with answer := some f } } else t
          | _ => t)
        | none => t
      let s1 := s.modTeam id wake
      s1.modGroup id.gid fun g => if (g.state = .parked ∨ g.state = .saving) ∧ (g.wakes.any fun w => match w with
        | .object (.peer r _) _ => r == src
        | _ => false) = true then { g with awake := true } else g
    | _ => s

/-- A packet's incarnations are this package's and the sender's as known here (R362). -/
def State.fresh (s : State) (p : Packet) : Bool :=
  decide (s.peerInc.get none p.src = some p.srcInc) && p.tgtInc == s.incarnation
def sat (bits x : Nat) : Nat := min x (2 ^ bits - 1)
def State.stale (s : State) (port : Nat) : State := s.modPort port fun p => { p with stale := sat 8 (p.stale + 1) }
/-- The part of a posted or bulk packet in its path sequence. -/
def pathBytes : PacketBody → Option Nat
  | .posted _ d | .bulk _ d _ _ => some d.length
  | .postedAtom _ w _ _ _ => some w.bytes
  | _ => none
/-- The port at which a packet arrives: one cabled to its last hop, the source or the relay that its path names, a usable one first (R353, R362; DESIGN CHOICE, log 67). -/
def State.arrivalPort (s : State) (p : Packet) : Option Nat := s.portTo (if p.path = s.rank then p.src else p.path)
/-- The access of a packet travels from its port's link die to the home of its bytes, which recalls leases (R14, R17, R167). -/
def State.fromPort (s : State) (p : Packet) : State :=
  let port := linkUnit (linkDie ((s.arrivalPort p).getD 0))
  let access := fun (a n : Nat) (w : Bool) => if s.allowed p.src a n w then s.goesTo port 64 a .g (.phys a) n else s
  let signal := fun (a : Nat) => if s.allowed p.src a 8 false then (s.signalTo port (.phys a)).recallFor port (.phys a) 16 else s
  match p.body with
  | .read a n => access a n false
  | .atom a w _ _ _ _ | .postedAtom a w _ _ _ => access a w.bytes true
  | .posted a d | .bulk a d _ _ => access a d.length true
  | .signal _ _ a _ _ | .barrier a _ _ => signal a
  | .answer _ _ => s
/-- The effect of a packet whose access is inside the aperture table (R360). -/
def State.perform (s : State) (p : Packet) : State :=
  match p.body with
  | .read _ _ => s
  | .atom a w op sg x c =>
    if s.allowed p.src a w.bytes true && !s.placePoisoned (.phys a) w.bytes then
      s.reduce false ReqHdr.nobody (s.apBlame p.src a w.bytes) a (.phys a) op sg w.bytes x.toNat c.toNat
    else s
  | .posted a d => if s.allowed p.src a d.length true then s.remoteWrite p.src a d else s
  | .postedAtom a w op sg x =>
    if s.allowed p.src a w.bytes true then s.reduce false ReqHdr.nobody (s.apBlame p.src a w.bytes) a (.phys a) op sg w.bytes x.toNat 0 else s
  | .bulk a d bad obj =>
    if s.allowed p.src a d.length true then
      let s0 := s.remoteWrite p.src a d
      let s1 := if bad then (List.range d.length).foldl (fun u i =>
        if s.rejects (.phys (a + i)) 1 then u else u.placePoison (.phys (a + i)) 1) s0 else s0
      match obj with
      | some o => if s.allowed p.src o 16 true then (s1.barOp (.phys o) ReqHdr.nobody (s.apCtx p.src o) o (.count false d.length)).1 else s1
      | none => s1
    else s
  | .signal team op a x carried =>
    if s.allowed p.src a (if op = .cnt then 16 else 8) true then
      let h : HeldSignal := { src := p.src, team, ctx := s.apCtx p.src a, op, addr := a, x, carried := carried.getD [] }
      if s.signalDue h && !s.signalHeld p.src team then s.signal h else { s with heldSignals := s.heldSignals ++ [h] }
    else s
  | .barrier a _ .fired => s.remoteFired p.src a
  | .barrier a team (.freed o) => s.remoteBarrier p.src a team (.freed o)
  | .barrier a team m => if s.allowed p.src a (match m with
      | .arm _ _ _ => 8
      | _ => 16) (match m with
      | .arm _ _ _ => false
      | _ => true) then s.remoteBarrier p.src a team m else s
  | .answer team a => s.answered p.src team a
/-- The bytes of a range of a path have been disposed of (R359). -/
def State.disposed (s : State) (key : Nat) (r : Nat × Nat) : Bool :=
  decide (r.2 ≤ s.landed.get 0 key) || s.landedMore.any fun x => x.key == key && decide (x.lo ≤ r.1) && decide (r.2 ≤ x.hi)
/-- The target takes a packet: one without the relaxed bit after its team's earlier posted bytes on its path, 256 outstanding ones of a path, 32 held signals of a source, and no signal packet of a team before an earlier one that is held (R255, R359, R365, R370). -/
def State.packetRoom (s : State) (p : Packet) : Bool :=
  (p.relaxed || p.after.all (s.disposed (pathKey p.src p.path))) && match p.body with
  | .signal team _ _ _ none | .barrier _ team (.init _) | .barrier _ team .inv | .barrier _ team .arrive
    | .barrier _ team (.expect _ _) | .barrier _ team (.bind _ _) | .barrier _ team (.wait _) | .barrier _ team (.test _) =>
    !s.signalHeld p.src team
  | .signal _ _ _ _ (some _) => decide ((s.heldSignals.filter fun h => h.src == p.src).length < 32)
  | _ => (pathBytes p.body).isNone || decide ((s.landedMore.filter fun r => r.key == pathKey p.src p.path).length < 256)
/-- FABRIC_PACKET_ARRIVAL: from stage 6 on a packet for this package is checked and performed, or denied; one with stale incarnations is discarded (R359, R360, R362, R386). -/
def execFabricPacketArrival (p : Packet) (s : State) : Host.Outcome State Fault Refusal :=
  .next (if s.stage < 6 ∨ p.tgt ≠ s.rank ∨ p.src = s.rank ∨ s.podSize ≤ p.src then s
  else if !s.fresh p then
    match s.arrivalPort p with
    | some i => s.stale i
    | none => s
  else if !s.packetRoom p then s
  else
    let s1 := (s.fromPort p).perform p
    match pathBytes p.body with
    | some n => (s1.dispose (pathKey p.src p.path) p.offset n).signalsDue
    | none => s1)
/-- STALE_PACKET_DROP (R362). -/
def execStalePacketDrop (port : Nat) (p : Packet) (s : State) : Host.Outcome State Fault Refusal :=
  .next (if port < 16 ∧ s.fresh p = false then s.stale port else s)
/-- APERTURE_TABLE_WRITE (R360). -/
def execApertureTableWrite (i : Nat) (e : Option Aperture) (s : State) : Host.Outcome State Fault Refusal :=
  .next (if i < 64 then { s with apertures := s.apertures.set none i e } else s)

/-! ### Incarnations and lost peers (R361, R362) -/

/-- The outstanding reads toward a lost peer fail. -/
def State.loseReads (s : State) (p : Nat) : State :=
  let due := s.loads.flatMap fun ld => (ld.lanes.filter fun l => l.due && match l.place with
    | .peer r _ => r == p
    | _ => false).map fun l => (ld.key, l.lane)
  due.foldl (fun s d => match s.load? d.1 with
    | none => s
    | some ld => match ld.lane? d.2 with
      | none => s
      | some l =>
        let m := { l with performed := true, bad := some cPeerLost }
        match l.st with
        | .waiting => s.exactIn ld m
        | .expired | .abandoned => s.lateIn ld m
        | _ => s) s
/-- A report for each context, with the first address lost (R362). -/
def State.loseReports (s : State) (ls : List (ReqHdr × Nat × Nat)) : State :=
  let firsts := (ls.map fun l => l.2.1).eraseDups.filterMap fun c => ls.find? fun l => l.2.1 == c
  firsts.foldl (fun s l => s.report7 l.1 l.2.1 cPeerLost l.2.2) s
/-- The first position that no range covers. -/
def firstGap (rs : List (Nat × Nat)) : Nat :=
  rs.foldl (fun n _ => rs.foldl (fun n r => if r.1 ≤ n then max n r.2 else n) n) 0
/-- The first run of each plan that is in flight toward a peer, as an XSEND's packets are (R364, R377). -/
def State.runsLost (s : State) (p : Nat) : List (ReqHdr × Nat × Nat) :=
  s.plans.filterMap fun x => (x.steps.find? fun t => t.pkg == p && t.firstFlying.isSome).bind fun t =>
    t.firstFlying.map fun k => (x.hdr, x.ctx, (runOf x t k x.t1 x.t2).dst)
/-- Unacknowledged posted writes, bulk packets and signals toward a lost peer, those of barrier objects among them, are counted off and complete. -/
def State.losePosts (s : State) (p : Nat) : State :=
  let goes := fun w : PostWrite => !w.done && match w.place with
    | .peer r _ => r == p
    | _ => false
  let posts := s.posts.filter fun q => q.accepted && q.writes.any goes
  let engs := s.engs.filter fun e => e.kind == .xsend && e.tgt == p && e.accepted
  let barriers := s.sent.filter fun b => b.rank == p && b.answer.isNone
  let counts := s.counts.filter fun c => match c.obj with
    | .peer r _ => r == p
    | _ => false
  let lost := posts.map (fun q => (q.hdr, q.ctx, ((q.writes.find? goes).map PostWrite.va).getD 0))
    ++ engs.map (fun e => (e.hdr, e.ctx, e.va + firstGap e.acked))
    ++ barriers.map (fun b => (b.hdr, b.ctx, b.va)) ++ counts.map (fun c => (c.hdr, c.ctx, c.va)) ++ s.runsLost p
  let s1 := posts.foldl (fun s q =>
    let q1 : Post := { q with writes := q.writes.map fun w => if goes w then { w with done := true } else w }
    let s := s.modPost q.key fun _ => q1
    if q1.writes.all PostWrite.done then s.endPost q1 else s) s
  let s2 := engs.foldl State.endEng s1
  let s3 := barriers.foldl (fun s b => if b.counted then s.outDown b.core b.kid else s) s2
  State.loseReports { s3 with
    counts := s3.counts.filter fun c => !counts.contains c,
    sent := s3.sent.map fun b =>
      if b.rank = p ∧ b.answer = none then { b with answer := some (.fault cPeerLost), counted := false } else b } lost
/-- Waiters on objects of a lost peer wake with failure; its teams' waiters and bindings, and its held signals, leave the homes here, and a phase that such a binding held back completes (R211, R362). -/
def State.loseBarriers (s : State) (p : Nat) : State :=
  let isP := fun o : ObjLoc => match o with
    | .peer r _ => r == p
    | _ => false
  let objs := ((s.teams.filterMap fun t => t.wait.map WaitFor.obj) ++ (s.groups.flatMap fun g => g.wakes.filterMap fun w => match w with
    | .object o _ => some o
    | _ => none)).filter isP
  let s1 := objs.eraseDups.foldl (fun s o => s.wakeObj o (some cPeerLost)) s
  let theirs := s1.binds.filter fun b => b.owner == p && !isP b.obj
  let left := ((s1.remoteWaits.filter fun w => w.rank == p).map fun w => ObjLoc.phys w.obj).eraseDups
  let s2 := State.leaveObjs { s1 with
    binds := (s1.binds.filter fun b => b.owner != p && !isP b.obj),
    remoteWaits := (s1.remoteWaits.filter fun w => w.rank != p),
    heldSignals := s1.heldSignals.filter fun h => h.src != p } left
  theirs.foldl (fun s b => match s.bar? b.obj with
    | some c =>
      let free := { c with bk := 0, bid := 0 }
      if c.fl then s.putBar b.obj free else s.settle b.obj free
    | none => s) s2
/-- Plans with a step toward a lost peer are to stop, unless another event is already to stop them; their runs toward it are counted off (R362, R381). -/
def State.losePlans (s : State) (p : Nat) : State :=
  { s with plans := s.plans.map fun (x : Plan) =>
    if x.state = .computing then x
    else { x with lost := (x.lost || (x.state == .running && !x.changed && x.steps.any fun t => t.pkg == p)),
                  steps := x.steps.map fun t => if t.pkg = p then { t with gone := true } else t } }
/-- A peer is lost (R362): the four steps in their order. -/
def State.losePeer (s : State) (p : Nat) : State :=
  let s1 : State := { s with
    pathSeq := s.pathSeq.filter fun e => e.1 / 16 != p,
    landed := s.landed.filter fun e => e.1 / 16 != p,
    landedMore := s.landedMore.filter fun r => r.key / 16 != p,
    holds := s.holds.filter fun h => h.tgt != p }
  (((s1.loseReads p).losePosts p).loseBarriers p).losePlans p
/-- The first incarnation learned of a rank loses nothing; another one loses the peer as it was. Every port cabled to the rank shows it (R356). -/
def State.learn (s : State) (rank inc : Nat) : State :=
  let old := s.peerInc.get none rank
  let ports := (List.range 16).filter fun i => s.cabled i == some rank
  let s0 := ports.foldl (fun s i => s.modPort i fun p => { p with pinc := inc }) s
  let s1 : State := { s0 with peerInc := s.peerInc.set none rank (some inc) }
  if old.isSome && old != some inc then s1.losePeer rank else s1
/-- Since when a rank has had no usable path: since the first reset, where it has had none since (R362). -/
def State.noPathSince (s : State) (rank : Nat) : Option Nat :=
  match s.pathless.get none rank with
  | some (since, _) => some since
  | none => if s.route.get 16 rank = 16 then some 0 else none
/-- INCARNATION_LEARNED: a new incarnation, or 100 ms without a path, loses a peer (R362). -/
def execIncarnationLearned (rank inc : Nat) (s : State) : Host.Outcome State Fault Refusal :=
  .next (if s.podSize ≤ rank ∨ rank = s.rank then s
  else if s.peerInc.get none rank ≠ some (inc % 256) then s.learn rank (inc % 256)
  else match s.noPathSince rank with
    | some since => if since + 94000000 ≤ s.clk then s.losePeer rank else s
    | none => s)

/-! ### Ports (R355, R356) -/

/-- A port after a change, with the routes; a change of its state raises vector 3 (R391). -/
def State.toPort (s : State) (p : Nat) (f : Port → Port) : State :=
  let s1 := (s.modPort p f).reroute
  if (s1.portAt p).state = (s.portAt p).state then s1 else s1.raiseMsi 3
/-- PORT_ENABLE. -/
def execPortEnable (port : Nat) (on : Bool) (s : State) : Host.Outcome State Fault Refusal :=
  let p := s.portAt port
  .next (if (s.cabled port).isNone ∨ 16 ≤ port then s
  else if !on then s.toPort port fun p => { p with state := .down, lanes := 0 }
  else if p.state = .down ∨ p.state = .failed then
    s.toPort port fun p => { p with state := .training, lanes := 0, tries := 0, since := s.clk }
  else s)
/-- LINK_TRAINING_RESULT: within 100 ms of the attempt's start, and a failure from then on; a link that trains on every lane takes its row back from an override (R353, R355). -/
def execLinkTrainingResult (port lanes peerInc : Nat) (s : State) : Host.Outcome State Fault Refusal :=
  let p := s.portAt port
  .next (if p.state ≠ .training then s
  else if lanes < 8 ∨ p.since + 94000000 ≤ s.clk then
    s.toPort port fun p => { p with state := .detoured, lanes := 0, tries := p.tries + 1, since := s.clk }
  else
    let full := decide (16 ≤ lanes)
    let s0 := match s.cabled port with
      | some r => if full then { s with override := s.override.set none r none } else s
      | none => s
    let s1 := s0.toPort port fun p =>
      { p with state := if full then .trained else .degraded, lanes := if full then 16 else 8, tries := 0, pinc := peerInc % 256 }
    match s.cabled port with
    | some r => s1.learn r (peerInc % 256)
    | none => s1)
/-- LINK_ERROR. -/
def execLinkError (port : Nat) (e : LinkFault) (s : State) : Host.Outcome State Fault Refusal :=
  let p := s.portAt port
  .next (match e with
  | .crc | .eye =>
    if p.usable then s.toPort port fun p => { p with state := .training, lanes := 0, since := s.clk } else s
  | .laneLost left => match p.state with
    | .trained => s.toPort port fun p => { p with state := .degraded, lanes := 8 }
    | .degraded => if left < 8 then s.toPort port fun p => { p with state := .detoured, lanes := 0 } else s
    | _ => s)
/-- A port is reported for harvest (R355, R391, R392). -/
def State.harvestPort (s : State) (port : Nat) : State :=
  if s.harvest.contains (ErrUnit.port port) then s
  else State.raiseMsi { s with harvest := s.harvest ++ [ErrUnit.port port] } 2
/-- DETOUR_RETRY: a second after the last attempt a port trains again; after eight failures it is Failed. -/
def execDetourRetry (port : Nat) (s : State) : Host.Outcome State Fault Refusal :=
  let p := s.portAt port
  .next (if p.state ≠ .detoured then s
  else if 8 ≤ p.tries then (s.toPort port fun p => { p with state := .failed }).harvestPort port
  else if p.since + 940000000 ≤ s.clk then s.toPort port fun p => { p with state := .training, since := s.clk }
  else s)
/-- FLIT_REPLAY (R356). -/
def execFlitReplay (port : Nat) (s : State) : Host.Outcome State Fault Refusal :=
  .next (if (s.portAt port).usable then s.modPort port fun p => { p with replays := sat 32 (p.replays + 1) } else s)
/-- ROUTE_CHANGE: news of the links between other packages, and the firmware's override of a row (R353). -/
def execRouteChange (tgt : Nat) (links : List (Nat × Nat)) (force : Option Nat) (s : State) : Host.Outcome State Fault Refusal :=
  .next (if s.podSize ≤ tgt ∨ tgt = s.rank then s
  else State.reroute { s with peerLinks := links, override := s.override.set none tgt force })

/-- PSTAT of a port (R356). -/
def PortState.code : PortState → Nat
  | .down => 0 | .training => 1 | .trained => 2 | .degraded => 3 | .detoured => 4 | .failed => 5
def State.pstat (s : State) (i : Nat) : Word :=
  let p := s.portAt i
  BitVec.ofNat 64 (p.replays * 2 ^ 32 + p.stale * 2 ^ 24 + p.pinc * 2 ^ 16 + (s.cabled i).getD 0 * 2 ^ 12 + p.lanes * 2 ^ 7 + p.state.code)

end Sys2Proof.Machine
end

