-- ==== Sys2Proof/Machine/Fetch.lean ====
section
/-! DEFINITION. Code: the instruction caches and their pins, the checks of a clause, readiness and arbitration, the start of a clause, and the cache instructions (R45-R53, R63-R66, R263, R264, R286, R322, R344). -/

namespace Sys2Proof.Machine

/-! ### The checks of a clause (R46, R50, R51, R61, R62) -/

/-- The header bit of an opcode's engine; NOP and a reserved opcode have none. -/
def engineBit (op : Nat) : Option Nat :=
  let within := fun (l : List (Nat × Nat)) => l.any fun r => decide (r.1 ≤ op) && decide (op ≤ r.2)
  if within [(0x20, 0x3C), (0x40, 0x43), (0x48, 0x4E), (0x50, 0x5E), (0x60, 0x68), (0x6A, 0x6E), (0x76, 0x76), (0x78, 0x79)] then some 54
  else if within [(0x01, 0x08), (0x0A, 0x0A), (0x10, 0x1F)] then some 53
  else if within [(0x70, 0x75), (0x77, 0x77), (0x7A, 0x7B), (0xA0, 0xA3), (0xA8, 0xAB)] then some 52
  else if within [(0x80, 0x87)] then some 51
  else if within [(0x90, 0x9D)] then some 50
  else if within [(0x09, 0x09), (0xB0, 0xBB)] then some 49
  else none
/-- The control transfers (R50). -/
def isControl (op : Nat) : Bool := (decide (1 ≤ op) && decide (op ≤ 8)) || op == 0xB1 || op == 0xB4 || op == 0xB5
def opOf (w : Word) : Nat := bitsAt w.toNat 56 8
def headerCount (h : Word) : Nat := bitsAt h.toNat 55 5
/-- Checks 2 to 7 of R51: the address of the word that fails. -/
def clauseFault (at_ : Nat) (h : Word) (ws : List Word) : Option Nat :=
  if bitsAt h.toNat 60 4 ≠ 0xC ∨ headerCount h = 0 ∨ 24 < headerCount h ∨ bitsAt h.toNat 0 42 ≠ 0 then some at_
  else
    let bad := fun (p : Word × Nat → Bool) => (ws.zipIdx.find? p).map fun w => at_ + 8 * (w.2 + 1)
    let engine := fun (w : Word × Nat) => match engineBit (opOf w.1) with
      | some b => !h.getLsbD b
      | none => false
    ((bad fun w => opOf w.1 / 16 == 0xC).orElse fun _ => bad engine).orElse fun _ =>
      bad fun w => isControl (opOf w.1) && decide (w.2 + 1 < ws.length)

/-! ### The caches (R63-R66) -/

def CodeLine.is (l : CodeLine) (ctx line : Nat) : Bool := l.ctx == ctx && l.line == line
def State.l0Line (s : State) (p ctx line : Nat) : Option CodeLine := (s.coreAt p).l0.find? fun l => l.is ctx line
def State.l1Line (s : State) (q ctx line : Nat) : Option CodeLine := (s.quadAt q).l1.find? fun l => l.is ctx line
/-- The least recently used of the lines that may leave a set. -/
def oldest (ls : List CodeLine) : Option CodeLine :=
  ls.foldl (fun a l => match a with
    | some b => if l.used < b.used then some l else a
    | none => some l) none
/-- A line's copies leave the L0 of every core of a quad. -/
def State.dropL0 (s : State) (q ctx line : Nat) : State :=
  (List.range 4).foldl (fun s i => s.modCore (4 * q + i) fun c => { c with l0 := c.l0.filter fun l => !l.is ctx line }) s
def State.dropL1 (s : State) (q ctx line : Nat) : State :=
  (s.modQuad q fun u => { u with l1 := u.l1.filter fun l => !l.is ctx line }).dropL0 q ctx line
/-- A line enters a core's L0, in 64 sets of 4. -/
def State.putL0 (s : State) (p : Nat) (n : CodeLine) : State :=
  let used := s.nextKey
  s.bump.modCore p fun c =>
    let set := c.l0.filter fun l => l.line % 64 == n.line % 64 && !l.is n.ctx n.line
    let out := if set.length < 4 then none else oldest set
    let keep := c.l0.filter fun l => !l.is n.ctx n.line && some l != out
    { c with l0 := { n with used, wants := [], pins := 0 } :: keep }
/-- Room for one more line in a set of the L1, of 256 sets of 8 ways: at most 6 are pinned, so an unpinned line can leave a full set. A line still Filling has no way yet (R66). -/
def State.roomL1 (s : State) (q line : Nat) : State :=
  let set := (s.quadAt q).l1.filter fun l => l.line % 256 == line % 256 && !l.filling
  if set.length < 8 then s
  else match oldest (set.filter fun l => l.pins == 0) with
    | some o => s.dropL1 q o.ctx o.line
    | none => s
/-- A line is requested from memory; `by_` names the IPREF or IPIN that asks, at its place in its team's order (R252). -/
def State.requestL1 (s : State) (q ctx line pins : Nat) (wants : List (Nat × Option TeamId)) (by_ : Option (TeamId × Nat)) : State :=
  let n : CodeLine := { ctx, line, bytes := [], filling := true, pins, used := s.nextKey, wants, by_ }
  s.bump.modQuad q fun u => { u with l1 := n :: u.l1 }
def State.modL1 (s : State) (q ctx line : Nat) (f : CodeLine → CodeLine) : State :=
  s.modQuad q fun u => { u with l1 := u.l1.map fun l => if l.is ctx line then f l else l }
/-- A core needs a line: from its L0, from the L1, or requested from memory (R64). -/
def State.needLine (s : State) (p ctx line : Nat) (who : Option TeamId) (by_ : Option (TeamId × Nat)) : State × Option (List Byte) :=
  let q := quadKey p
  match s.l0Line p ctx line with
  | some l => (s.putL0 p l, some l.bytes)
  | none => match s.l1Line q ctx line with
    | some l =>
      if l.filling then
        (s.modL1 q ctx line fun l => if l.wants.contains (p, who) then l else { l with wants := l.wants ++ [(p, who)] }, none)
      else
        let s1 := s.modL1 q ctx line fun l => { l with used := s.nextKey }
        (s1.putL0 p l, some l.bytes)
    | none => (s.requestL1 q ctx line 0 [(p, who)] by_, none)
/-- The bytes of a line as the method cache reads them, and whether they are poisoned. -/
def State.codeRead (s : State) (ctx line : Nat) : Option (List Byte × Bool) :=
  (s.codePlace none ctx line).map fun a => (s.physRead a 256, s.poisoned a 256)
/-- A change of translation, or the end of a context, drops the lines of a range (R65, R66, R344). -/
def State.dropCode (s : State) (ctx lo hi : Nat) : State :=
  let out := fun (l : CodeLine) => l.ctx == ctx && decide (256 * l.line < hi) && decide (lo < 256 * l.line + 256)
  let msu := fun (m : Msu) => { m with cache := m.cache.filter fun e =>
    !(e.1 == ctx && decide (256 * e.2.1 < hi) && decide (lo < 256 * e.2.1 + 256)) }
  { s with
    cores := (s.cores.map fun c => (c.1, { c.2 with l0 := c.2.l0.filter fun l => !out l })),
    quads := (s.quads.map fun q => (q.1, { q.2 with l1 := q.2.l1.filter fun l => !out l })),
    msus := (s.msus.map fun m => (m.1, msu m.2)) }

/-- A team that waits for a line that arrives poisoned takes the poisoned-data fault, and its context is reported; nothing of a team that is leaving is (R66, R89, R311). -/
def State.poisonedFetch (s : State) (ctx line : Nat) (id : TeamId) : State :=
  if s.leaving id then s
  else
    let pc := match s.team? id with
      | some t => t.pc.toNat
      | none => 0
    (s.post { s.reportFor id ctx 0x03 cPoisoned (256 * line) with pc }).modTeam id fun t =>
      { t with deferred := t.deferred ++ [{ trap := Trap.of cPoisoned (256 * line), at_ := .stand }] }
/-- The fill of an IPREF or an IPIN is a plain read at its place in the program order of its team: earlier accesses of the team to the line, and its earlier acquires, come first (R252). -/
def State.fillHeld (s : State) (f : CodeLine) (a : Nat) : Bool :=
  match f.by_ with
  | some (id, seq) => s.earlierHit id seq (.phys a) 256 || s.acqHold id seq
  | none => false
/-- CODE_FILL_ARRIVAL (R66): installed, with the copies and pins that wait for it, or discarded as poisoned. -/
def execCodeFillArrival (q ctx line : Nat) (s : State) : Host.Outcome State Fault Refusal :=
  .next (match s.l1Line q ctx line with
  | none => s
  | some f =>
    if !f.filling then s
    else match s.codePlace (some (4 * q)) ctx line with
      | none => s.dropL1 q ctx line
      | some a =>
        if s.fillHeld f a then s
        else
          let s1 := (s.request (4 * q) (.phys a)).recallFor (linkUnit 0) (.phys a) 256
          if s.poisoned a 256 then (f.wants.filterMap Prod.snd).foldl (fun s id => s.poisonedFetch ctx line id) (s1.dropL1 q ctx line)
          else
            let bs := s.physRead a 256
            let s2 := (s1.roomL1 q line).modL1 q ctx line fun l => { l with filling := false, bytes := bs, wants := [], by_ := none }
            f.wants.foldl (fun s w => s.putL0 w.1 { f with filling := false, bytes := bs, by_ := none }) s2)

/-! ### Pins (R66, R286) -/

/-- A further line of a set may be pinned. -/
def State.pinRoom (s : State) (q line : Nat) : Bool :=
  let l1 := (s.quadAt q).l1.filter fun l => l.pins != 0
  decide ((l1.filter fun l => l.line % 256 == line % 256).length < 6) && decide (l1.length < 1024)
/-- The IPIN event of a line, for the team in focus. -/
def State.pinLine (s : State) (q ctx line : Nat) : State × Bool :=
  match s.l1Line q ctx line with
  | none => if s.pinRoom q line then (s.requestL1 q ctx line 1 [] (some (s.cur.id, s.cur.seq)), true) else (s, false)
  | some l =>
    if decide (l.pins < 15) && (l.pins != 0 || s.pinRoom q line) then
      (s.modL1 q ctx line fun l => { l with pins := l.pins + 1 }, true)
    else (s, false)
/-- The IUNPIN event of a line. The table of R66 has no row for a Filling line: nothing changes there, and its pending pins are no pins that the line holds yet (DESIGN CHOICE, log 70). -/
def State.unpinLine (s : State) (q ctx line : Nat) : State × Bool :=
  match s.l1Line q ctx line with
  | some l => if l.filling || l.pins == 0 then (s, false) else (s.modL1 q ctx line fun l => { l with pins := l.pins - 1 }, true)
  | none => (s, false)
/-- An operation on each line in ascending order, and whether every one succeeded. -/
def onLines (f : State → Nat → State × Bool) (first n : Nat) (s : State) : State × Bool :=
  (List.range n).foldl (fun a i =>
    let r := f a.1 (first + i)
    (r.1, a.2 && r.2)) (s, true)
/-- The trap of a fetch that fails (R322). -/
def fetchTrap (f : XFail) (va : Nat) : Trap :=
  { Trap.of (if f.cause = cPageFault then cFetch else f.cause) va with acc := 4, why := f.why }
/-- The translation of a team's code at an address (R315, R320, R322). -/
def State.codeAt (s : State) (t : Team) (va : Nat) : Except XFail Xlat :=
  match s.ctx? (s.ctxOf t) with
  | none => .error { cause := cPageFault, why := 1 }
  | some c => s.translateAt (some (s.coreOf t.id.gid)) c t.sysMode needX va
/-- The first of a run of lines that does not translate with X for a team. -/
def State.lineFail (s : State) (t : Team) (first n : Nat) : Option Trap :=
  (List.range n).findSome? fun i => match s.codeAt t (256 * (first + i)) with
    | .error f => some (fetchTrap f (256 * (first + i)))
    | .ok x => if x.place.isPeer then some (Trap.of cPermission (256 * (first + i))) else none

/-- IPREF: nothing under a tint; lines that do not translate are skipped. -/
def execIpref (o : IprefOps) (s : State) : Host.Outcome State Fault Refusal :=
  let t := s.cur
  let gc := t.tguard o.g
  let n := (t.sval o.b).toNat
  let tinted := gc.tint || t.ctlMask || (t.sreg o.a.val).tint || (t.sreg o.b.val).tint
  finish (if !gc.val || tinted then .next s
  else if n = 0 ∨ 256 < n then .trap s (Trap.illegal 3 o.b.val)
  else
    let first := (t.sval o.a).toNat / 256
    let core := s.coreOf t.id.gid
    .next (onLines (fun s line => match s.codeAt t (256 * line) with
      | .ok { place := .phys _, .. } =>
        (((s.fillTlb core (s.ctxOf t) (256 * line)).needLine core (s.ctxOf t) line none (some (t.id, t.seq))).1, true)
      | _ => (s, true)) first n s).1)
/-- The frame of IPIN and IUNPIN. -/
def State.pinOp (s : State) (o : IpinOps) (check : Bool) (f : State → Nat → Nat → Nat → State × Bool) : Eff :=
  s.teamOp o.g [(2, o.a.val), (3, o.b.val)] fun s =>
    let t := s.cur
    let n := (t.sval o.b).toNat
    let first := (t.sval o.a).toNat / 256
    if n = 0 ∨ 256 < n then .trap s (Trap.illegal 3 o.b.val)
    else match (if check then s.lineFail t first n else none) with
      | some tr => .trap s tr
      | none =>
        let core := s.coreOf t.id.gid
        let go := fun (s : State) (line : Nat) =>
          f (if check then s.fillTlb core (s.ctxOf t) (256 * line) else s) (quadKey core) (s.ctxOf t) line
        let r := onLines go first n s
        .next (r.1.writeQ o.g o.d.val r.2 false)
def execIpin (o : IpinOps) (s : State) : Host.Outcome State Fault Refusal := finish (s.pinOp o true State.pinLine)
def execIunpin (o : IpinOps) (s : State) : Host.Outcome State Fault Refusal := finish (s.pinOp o false State.unpinLine)

/-! ### Readiness (R48, R263, R264) -/

/-- An operation of the team is in the asynchronous-issue class: its engine has not accepted it (R48, R292, R295, R383). -/
def State.asyncWaits (s : State) (id : TeamId) : Bool :=
  s.inWai id || (s.launches.any fun l => l.team == id) || (s.appends.any fun a => a.team == id && !a.accepted)
    || (s.asks.any fun a => a.team == id && a.cmd.isNone) || s.plans.any fun p => p.team == id && p.cmd.isNone && p.state == .computing
/-- The team has an operation outstanding in a class that a header waits on; a result that a park has redirected is none (R267, R413). -/
def State.waits (s : State) (t : Team) (h : Word) : Bool :=
  let ld := fun (g : Bool) => s.loads.any fun ld => ld.team == t.id && !ld.written && !ld.redirected && ld.kind != .mat && ld.kind != .pref && (ld.sp == .g) == g
  let inMat := fun (k : MatKind) => match k with
    | .mma _ _ _ _ ps => ps.any fun p => p.team == t.id
    | _ => false
  (h.getLsbD 48 && ld true) || (h.getLsbD 47 && ld false)
    || (h.getLsbD 46 && ((s.mats.any fun j => j.team == t.id || inMat j.kind) || match s.group? t.id.gid with
      | some g => (match g.latch with
        | some l => l.arrived.any fun p => p.team == t.id
        | none => false)
      | none => false))
    || (h.getLsbD 45 && s.combs.any fun c => c.team == t.id && !c.redirected)
    || (h.getLsbD 44 && !t.sf.isEmpty)
    || (h.getLsbD 43 && s.asyncWaits t.id)
/-- Any class at all, for a team in Exiting (R89). -/
def State.busy (s : State) (t : Team) : Bool := s.waits t (BitVec.ofNat 64 (2 ^ 49 - 2 ^ 44))
/-- The page of an address is not in the last-level TLB of the die: its translation waits on a page-table walk (R264). -/
def State.walks (s : State) (core slot va : Nat) : Bool :=
  match s.ctx? slot with
  | some c => (tlbFind (s.dieAt (pcoreDie core)).tlb c.id va).isNone
  | none => false
/-- A class that a header waits on is long (R264): a load with a limit of w4 or more, a remote access with a result, or any access of the class whose translation waits on a walk. -/
def State.longWait (s : State) (t : Team) (h : Word) : Bool :=
  let core := s.coreOf t.id.gid
  let walk := s.walks core (s.ctxOf t)
  let walking := fun (ld : Load) => ld.lanes.any fun l => l.due && walk l.addr
  let unposted := fun (q : Post) => q.team == t.id && q.writes.any fun w => !w.done && walk w.va
  (h.getLsbD 48 && s.loads.any fun ld => ld.team == t.id && !ld.written && !ld.redirected && ld.sp == .g && ld.kind != .mat && ld.kind != .pref
    && (decide (4 ≤ ld.limit) || walking ld || ld.lanes.any fun l => l.place.isPeer))
  || (h.getLsbD 46 && ((s.loads.any fun ld => ld.team == t.id && ld.kind == .mat && walking ld)
    || s.posts.any fun q => s.isSavePost q.key && unposted q))
  || (h.getLsbD 45 && s.combPackets.any fun p => p.team == t.id && p.reqs.any fun r => walk r.va)
  || (h.getLsbD 43 && ((s.posts.any fun q => !q.accepted && unposted q) || s.engs.any fun e => e.team == t.id && !e.accepted && walk e.va))
def GState.runs : GState → Bool
  | .resident | .saving | .restoring => true
  | _ => false
def State.groupRuns (s : State) (gid : Nat) : Bool :=
  match s.group? gid with
  | some g => g.state.runs
  | none => false
/-- The team stands at a clause boundary and may run, its wait mask apart; a park or migrate trap that waits leaves it only the rest of a clause that it resumes (R260, R269). -/
def State.atBoundary (s : State) (t : Team) : Bool :=
  t.clause.isNone && s.groupRuns t.id.gid && t.faultPark.isNone && (t.parkDue.isNone || t.start != 0) && !t.restored
    && t.wait.isNone && (t.state == .active || t.state == .pending)
/-- A fault that waits in a team and is taken where it stands at a boundary: a gang that was cancelled in the system handler waits for its end (R195, R418). -/
def Team.dueFault (t : Team) : Option Deferred :=
  t.deferred.find? fun d => !(t.mode == .system && d.trap.cause == cGangCancelled) && match d.at_ with
    | .clause => t.start == 0
    | .stand => true
    | .restored => t.mode != .system

/-- What the fetch of a team's next clause gives: a line to wait for, the trap of check 1, or the header and the words. -/
inductive Fetched where
  | wait (line : Nat)
  | bad (t : Trap)
  | words (header : Word) (ws : List Word)
  deriving DecidableEq, Repr
/-- The words of a run of lines from an address. -/
def wordsAt (bs : List Byte) (off n : Nat) : List Word :=
  (List.range n).map fun i => BitVec.ofNat 64 (fromBytes ((bs.drop (off + 8 * i)).take 8))
/-- The bytes of a line that a team's core has, or its quad. -/
def State.codeBytes (s : State) (t : Team) (line : Nat) : Option (List Byte) :=
  let p := s.coreOf t.id.gid
  let c := s.ctxOf t
  ((s.l0Line p c line).orElse fun _ => (s.l1Line (quadKey p) c line).filter fun l => !l.filling).map CodeLine.bytes
/-- The fetch of a team's next clause, check 1 of R51 with it (R45, R64). -/
def State.fetched (s : State) (t : Team) : Fetched :=
  let h := t.pc.toNat
  match s.lineFail t (h / 256) 1 with
  | some tr => .bad { tr with addr := h }
  | none => match s.codeBytes t (h / 256) with
    | none => .wait (h / 256)
    | some b1 =>
      let header := (wordsAt b1 (h % 256) 1).headD 0
      let n := headerCount header
      let last := h + 8 * n
      if last / 256 = h / 256 then .words header (wordsAt b1 (h % 256 + 8) n)
      else match s.lineFail t (last / 256) 1 with
        | some tr => .bad tr
        | none => match s.codeBytes t (last / 256) with
          | none => .wait (last / 256)
          | some b2 => .words header (wordsAt (b1 ++ b2) (h % 256 + 8) n)
/-- A line that a team fetches is translated, and asked for where its core and quad lack it. -/
def State.fetchLine (s : State) (t : Team) (line : Nat) : State :=
  let p := s.coreOf t.id.gid
  ((s.fillTlb p (s.ctxOf t) (256 * line)).needLine p (s.ctxOf t) line (some t.id) none).1
/-- The team asks for the line that its next clause lacks. -/
def State.fetchFor (s : State) (t : Team) : State :=
  match s.fetched t with
  | .wait line => s.fetchLine t line
  | _ => s
/-- A team's next clause can start, or its trap be taken (R48, R51, R263). -/
def State.ready (s : State) (t : Team) : Bool :=
  s.atBoundary t && (t.dueFault.isSome || match s.fetched t with
    | .wait _ => false
    | .bad _ => true
    | .words h ws => (clauseFault t.pc.toNat h ws).isSome || !s.waits t h)
/-- The team is held at its boundary by a long class. -/
def State.heldLong (s : State) (t : Team) : Bool :=
  s.atBoundary t && t.dueFault.isNone && match s.fetched t with
    | .words h ws => (clauseFault t.pc.toNat h ws).isNone && s.longWait t h
    | _ => false
def State.onCore (s : State) (p : Nat) (t : Team) : Bool :=
  t.id.gid != 0 && (s.group? t.id.gid).isSome && s.coreOf t.id.gid == p
/-- Since when each team of a core is ready, as its issue unit sees it. -/
def State.noteReady (s : State) (p : Nat) : State :=
  s.mapTeams fun t => if s.onCore p t then
      { t with readyAt := if s.ready t then some (t.readyAt.getD s.clk) else none }
    else t
/-- A team comes before another: ready earlier, and in the same cycle the lower group and then the lower team number (DESIGN CHOICE, log 98). -/
def Team.before (t u : Team) : Bool :=
  let x := t.readyAt.getD 0
  let y := u.readyAt.getD 0
  decide (x < y) || (x == y && (decide (t.id.gid < u.id.gid) || (t.id.gid == u.id.gid && decide (t.id.idx < u.id.idx))))
/-- The earliest-ready of a list of teams. -/
def earliest (ts : List Team) : Option Team :=
  ts.foldl (fun a t => match a with
    | some b => if t.before b then some t else a
    | none => some t) none
def topPrio (ts : List Team) : List Team :=
  let p := ts.foldl (fun m t => max m t.prio) 0
  ts.filter fun t => t.prio == p
/-- The yield hint keeps a team out of a round that another team of its priority enters and that has not started a clause since (R52). -/
def Team.yieldsTo (t : Team) (ts : List Team) : Bool :=
  match t.yielding with
  | some l => ts.any fun u => u.id != t.id && !l.contains u.id
  | none => false
/-- The team that the issue unit chooses among the ready active ones of a core (R52, R263). Where the hints of all of them exclude one another, all take part (DEDUCED, log 71: the slot is given to one). -/
def chooseTeam (all rs : List Team) : Option Team :=
  match earliest (rs.filter fun t => decide (64 ≤ t.age)) with
  | some t => some t
  | none =>
    let top := topPrio rs
    let free := top.filter fun t => !t.yieldsTo top
    let free := if free.isEmpty then top else free
    let prio := (free.head?.map Team.prio).getD 0
    let last := (all.filter fun t => t.prio == prio).foldl (fun m t => max m t.issuedAt) 0
    earliest (if 1 < free.length then free.filter fun t => t.issuedAt != last || last == 0 else free)
/-- The entry rule: the earliest-ready pending team of the highest priority (R264); a team that a park trap has made Active outside a full set enters as one (log 73). -/
def State.nextPending (s : State) (p : Nat) : Option Team :=
  let ps := s.teams.filter fun t => s.onCore p t && !t.restored && t.wait.isNone && (t.state == .pending || (t.state == .active && !t.inSet))
  match earliest (topPrio (ps.filter s.ready)) with
  | some t => some t
  | none => earliest (topPrio ps)
def State.enterSet (s : State) (id : TeamId) : State := s.modTeam id fun t => { t with inSet := true, state := .active }
def State.leaveSet (s : State) (id : TeamId) : State := s.modTeam id fun t => { t with inSet := false, state := .pending }
/-- ACTIVE_SET_ENTRY: a free position is filled, or a team held by a long class is exchanged (R264), as is one that waits at the RTE of its restore (R272; DESIGN CHOICE, log 99). -/
def execActiveSetEntry (p : Nat) (s : State) : Host.Outcome State Fault Refusal :=
  let s1 := s.noteReady p
  let set := s1.teams.filter fun t => s1.onCore p t && t.inSet
  .next (match s1.nextPending p with
  | none => s1
  | some n =>
    if set.length < 8 then s1.enterSet n.id
    else if !s1.ready n then s1
    else match set.find? fun t => s1.heldLong t || t.restored with
      | some t => (s1.leaveSet t.id).enterSet n.id
      | none => s1)

/-! ### The start of a clause (R51, R53, R64) -/

/-- A clause of the team in focus starts: its age is 0, it is the core's last issuer, its own hint ends, and the hints of others have seen it (R52, R263). -/
def State.started (s : State) : State :=
  let id := s.cur.id
  let p := s.coreOf id.gid
  let n := (s.coreAt p).issues + 1
  (s.mapTeams fun t =>
    if t.id = id then { t with age := 0, issuedAt := n, yielding := none }
    else { t with yielding := t.yielding.map fun l => id :: l }).modCore p fun c => { c with issues := n }
/-- A clause has waited on WMX: $nstat shows the flags of the matrix instructions before it (R40, R49). -/
def Team.showFlags (t : Team) : Team := { t with sys := { t.sys with nstat := t.sys.nstat ||| t.sys.mflags, mflags := 0 } }
/-- The clause's words are there: checks 2 to 7, the wait mask, and its start; a resume past the last word is the end of the clause, where its yield hint takes effect (R52, R53). -/
def State.openClause (s : State) (header : Word) (ws : List Word) : State :=
  let t := s.cur
  match clauseFault t.pc.toNat header ws with
  | some a => s.trapBoundary (Trap.of cIllegalClause a)
  | none =>
    if s.waits t header then s
    else
    let s := if header.getLsbD 46 then s.modCur Team.showFlags else s
    if ws.length ≤ t.start then s.modCur fun t =>
      { t with pc := t.pc + BitVec.ofNat 64 (8 * (t.start + 1)), start := 0, yielding := if header.getLsbD 42 then some [] else t.yielding }
    else s.started.modCur fun t =>
      { t with clause := some { hdr := t.pc, header, words := ws, idx := t.start }, start := 0 }
/-- A fault that waited is taken where the team stands (R195, R418). -/
def State.takeDeferred (s : State) (d : Deferred) : State :=
  let t := s.cur
  let s1 := s.modCur fun t => { t with deferred := t.deferred.erase d }
  match t.clause with
  | some _ => s1.trap d.trap
  | none => if t.start = 0 then s1.trapBoundary d.trap else s1.trapAt d.trap (t.pc + BitVec.ofNat 64 (8 * (t.start + 1))) t.start
/-- Fetch and checks of the next clause. -/
def State.beginClause (s : State) : State :=
  let t := s.cur
  match s.fetched t with
  | .wait line => s.fetchLine t line
  | .bad tr => s.trapBoundary tr
  | .words h ws => ((s.fetchLine t (t.pc.toNat / 256)).fetchLine t ((t.pc.toNat + 8 * ws.length) / 256)).openClause h ws
/-- The next clause of the team in focus starts, or its lines are asked for, or it traps. -/
def State.startClause (s : State) : State :=
  match s.cur.dueFault with
  | some d => s.takeDeferred d
  | none => s.beginClause

/-- The core's issue slot is taken by a clause in progress. -/
def State.slotBusy (s : State) (p : Nat) : Bool := s.teams.any fun t => s.onCore p t && t.clause.isSome
/-- The teams of a core that stand at a boundary have their next clauses fetched (R64). -/
def State.fetchAll (s : State) (p : Nat) : State :=
  (s.teams.filter fun t => s.onCore p t && s.atBoundary t).foldl State.fetchFor s
/-- The issue unit chooses a ready team, and the other ready ones age (R263). -/
def State.arbitrate (s : State) (p : Nat) : Option (State × TeamId) :=
  let s1 := s.noteReady p
  let all := s1.teams.filter fun t => s1.onCore p t
  let rs := all.filter fun t => t.inSet && s1.ready t
  (chooseTeam all rs).map fun w =>
    (s1.mapTeams fun t => if t.id ≠ w.id ∧ (rs.any fun r => r.id == t.id) = true then { t with age := t.age + 1 } else t, w.id)
/-- The clause start of a core, with the team it starts in focus. -/
def State.coreStart (s : State) (p : Nat) : State :=
  if s.slotBusy p then s
  else
    let s1 := s.fetchAll p
    match s1.arbitrate p with
    | none => s1
    | some (s2, id) => (s2.focus id).startClause
/-- CLAUSE_START (R51, R263). -/
def execClauseStart (p : Nat) (s : State) : Host.Outcome State Fault Refusal := .next (s.coreStart p)

/-! ### Methods (R343, R344) -/

/-- A line of a method's code, through the method cache of its MSU: 64 lines, the least recently used one leaving. -/
def State.methodLine (s : State) (m : MethodCtx) (line : Nat) : State × Option (List Byte × Bool) :=
  match (s.msuAt m.msu).cache.find? fun e => e.1 == m.ctx && e.2.1 == line with
  | some e => (s, some (e.2.2, false))
  | none =>
    let s : State := match s.codePlace none m.ctx line with
      | some a => s.recallFor (linkUnit 0) (.phys a) 256
      | none => s
    match s.codeRead m.ctx line with
    | some (bs, false) => (s.modMsu m.msu fun u => { u with cache := ((m.ctx, line, bs) :: u.cache).take 64 }, some (bs, false))
    | r => (s, r)
/-- The next clause of a method starts, or the method fails. -/
def State.methodStart (s : State) (m : MethodCtx) : State :=
  let t := s.cur
  let h := t.pc.toNat
  let bad := fun (s : State) => s.methodFail 0x4A t.pc 0
  let poison := fun (s : State) (line : Nat) =>
    (s.post { Report.bare m.ctx 0x03 cPoisoned (256 * line) with pc := t.pc.toNat }).methodFail 0x4E t.pc 0
  match s.methodLine m (h / 256) with
  | (s1, none) => bad s1
  | (s1, some (_, true)) => poison s1 (h / 256)
  | (s1, some (b1, false)) =>
    let header := (wordsAt b1 (h % 256) 1).headD 0
    let n := headerCount header
    let last := h + 8 * n
    let go := fun (s : State) (bs : List Byte) =>
      let ws := wordsAt bs (h % 256 + 8) n
      if (clauseFault h header ws).isSome then bad s
      else if header.getLsbD 44 && !t.sf.isEmpty then s
      else s.modCur fun t => { t with clause := some { hdr := t.pc, header, words := ws, idx := t.start }, start := 0 }
    if last / 256 = h / 256 then go s1 b1
    else match s1.methodLine m (last / 256) with
      | (s2, none) => bad s2
      | (s2, some (_, true)) => poison s2 (last / 256)
      | (s2, some (b2, false)) => go s2 (b1 ++ b2)

end Sys2Proof.Machine
end

