-- ==== Sys2Proof/Machine/Convert.lean ====
section
/-! DEFINITION. Conversions: CVT, PACK, UNPK, QUANT and DEQ (R128-R132, R33, R35-R37, R44). -/

namespace Sys2Proof

/-- The value of an integer pattern of a format. -/
def Fmt.intVal (f : Fmt) (x : Nat) : Int := if f.signed then toSigned f.bits x else (x % 2 ^ f.bits : Nat)
/-- An integer clamped to a format, with SAT on a clamp (R40). -/
def Fmt.clamp (f : Fmt) (v : Int) : Nat × NFlags :=
  let lo : Int := if f.signed then -(2 ^ (f.bits - 1) : Int) else 0
  let hi : Int := if f.signed then 2 ^ (f.bits - 1) - 1 else 2 ^ f.bits - 1
  if v < lo then (wrapTo f.bits lo, NFlags.sat)
  else if hi < v then (wrapTo f.bits hi, NFlags.sat)
  else (wrapTo f.bits v, 0)

/-- A number into a floating format: R32 for F, R33 for E. -/
def Fmt.fromNum (f : Fmt) (rm : Rm) (sat ftz : Bool) (x : Num) : Nat × NFlags :=
  match f.ff? with
  | none => (0, 0)
  | some ff => if f.isE then ff.roundE rm sat x else ff.round rm ftz x
/-- A number into an integer format: rounded, then clamped; an infinity clamps and a NaN gives 0 (R128). -/
def Fmt.fromNumInt (f : Fmt) (rm : Rm) (x : Num) : Nat × NFlags :=
  match x with
  | .nan => (0, NFlags.nv)
  | .inf s => f.clamp (if s then -(2 ^ 64) else 2 ^ 64)
  | .fin s m e =>
    let n := roundInt rm s m e
    f.clamp (if s then -(n : Int) else n)

/-- One element converted: the pattern of the destination's own width, with its flags (R128). -/
def cvtOne (dt st : Fmt) (rm : Rm) (sat ftz : Bool) (x : Nat) : Nat × NFlags :=
  if st.isInt then
    let v := st.intVal x
    if dt.isInt then (if sat then dt.clamp v else (wrapTo dt.bits v, 0))
    else dt.fromNum rm sat false (.ofInt false v 0)
  else match st.ff? with
    | none => (0, 0)
    | some ff =>
      let z := ftz && st.isF && dt.isF
      let n := ff.read z (x % 2 ^ ff.bits)
      if dt.isInt then dt.fromNumInt rm n else dt.fromNum rm sat z n

/-- A narrow result in its lane: integers extended as R28 states, others with zeros above (R128). -/
def laneForm (dt : Fmt) (x : Nat) : Nat := if dt.signed && decide (dt.bits < 32) then wrapTo 32 (toSigned dt.bits x) else x

/-- The scale code and the exponent of a block of QUANT; none for a block with an infinity or a NaN (R44). -/
def blockScale (emax : Nat) (xs : List Num) : Option (Nat × Int) :=
  if xs.any fun x => x.isNan || x.isInf then none
  else
    let ls := (xs.filter fun x => !x.isZero).map Num.floorLog2
    match ls with
    | [] => some (0, 0)
    | l :: ls =>
      let top := ls.foldl (fun a b => if a < b then b else a) l
      let e := top - emax
      let e := if e < -127 then -127 else e
      some ((e + 127).toNat, e)
/-- The largest element exponent of an MX element format (R44). -/
def mxEmax : Fmt → Nat
  | .mxe4m3 => 8 | .mxe5m2 => 15 | _ => 2
/-- An element of a block: zero where the block has no finite scale or only zeros. -/
def blockElem (dt : Fmt) (rm : Rm) (sc : Option (Nat × Int)) (x : Num) : Nat × NFlags :=
  match sc, dt.ff? with
  | some (_, e), some ff => ff.roundE rm true (x.scale (-e))
  | _, _ => (0, NFlags.nv)
def scaleByte (sc : Option (Nat × Int)) : Nat :=
  match sc with
  | some (c, _) => c
  | none => 255

/-- The value of a q4 element: σ × (q − z) (R37). -/
def q4Value (sigma q z : Nat) : Num := (FF.bf16.dec sigma).mul (.ofInt false (toSigned 4 q - toSigned 4 z) 0)
/-- DEQ of one lane (R132). -/
def deqOne (dt st : Fmt) (rm : Rm) (x : Nat) : Nat × NFlags :=
  match st with
  | .q4 =>
    let s := FF.bf16.dec (bitsAt x 16 16)
    let d : Num := .ofInt false (toSigned 4 (bitsAt x 0 4) - toSigned 4 (bitsAt x 4 4)) 0
    let r := dt.fromNum rm false false (s.mul d)
    (r.1, r.2 ||| nvIf (Num.mulNew s d))
  | _ => match st.ff?, e8m0 (bitsAt x 8 8) with
    | some ff, some e => dt.fromNum rm false false ((ff.dec (bitsAt x 0 ff.bits)).scale e)
    | _, _ => dt.fromNum rm false false .nan

end Sys2Proof

namespace Sys2Proof.Machine

/-- CVT (R128). -/
def execCvt (o : CvtOps) (s : State) : Host.Outcome State Fault Refusal :=
  let t := s.cur
  let r := fun L => cvtOne o.dt o.st o.rm o.sat t.ftz (t.vval (cvtRegs o.st) o.a.val L).1
  finish (.next ((s.writeVal o.g (cvtRegs o.dt) o.d.val fun L =>
    (laneForm o.dt (r L).1, (t.vval (cvtRegs o.st) o.a.val L).2)).addFlags (t.laneFlags o.g fun L => (r L).2)))

/-- PACK (R129). -/
def execPack (o : CvtOps) (s : State) : Host.Outcome State Fault Refusal :=
  let t := s.cur
  let ks := List.range (perLane o.dt)
  let r := fun L => ks.map fun k => cvtOne o.dt o.st o.rm o.sat t.ftz (t.vreg (o.a.val + k) L).val.toNat
  finish (.next (s.fwrite o.g o.d.val
    (fun L => (r L).reverse.foldl (fun a x => (a.1 * 2 ^ o.dt.bits + x.1, a.2 ||| x.2)) (0, 0))
    (fun L => ks.any fun k => (t.vreg (o.a.val + k) L).tint)))

/-- UNPK (R130). -/
def execUnpk (o : CvtOps) (s : State) : Host.Outcome State Fault Refusal :=
  let t := s.cur
  finish (.next ((List.range (perLane o.st)).foldl
    (fun s k => s.writeV o.g (o.d.val + k) fun L =>
      let x := (t.vreg o.a.val L).val.toNat
      { val := BitVec.ofNat 32 (laneForm o.dt (cvtOne o.dt o.st .rn false t.ftz (bitsAt x (k * o.st.bits) o.st.bits)).1),
        tint := (t.vreg o.a.val L).tint }) s))

/-- QUANT (R44, R131). -/
def execQuant (o : CvtOps) (s : State) : Host.Outcome State Fault Refusal :=
  let t := s.cur
  let row := fun L => (List.range 32).map fun b => 32 * (L / 32) + b
  let x := fun L => if t.active o.g L then FF.f32.dec (t.vreg o.a.val L).val.toNat else Num.zero
  let sc := fun L => blockScale (mxEmax o.dt) ((row L).map x)
  finish (.next (s.fwrite o.g o.d.val
    (fun L =>
      let e := blockElem o.dt o.rm (sc L) (x L)
      (256 * scaleByte (sc L) + e.1, e.2))
    (fun L => (row L).any fun M => t.active o.g M && (t.contrib o.g 1 o.a.val M).2)))

/-- DEQ (R132). -/
def execDeq (o : CvtOps) (s : State) : Host.Outcome State Fault Refusal :=
  let t := s.cur
  finish (.next (s.fwrite o.g o.d.val
    (fun L => deqOne o.dt o.st o.rm (t.vreg o.a.val L).val.toNat) (fun L => (t.vreg o.a.val L).tint)))

end Sys2Proof.Machine
end

