-- ==== Sys2Proof/Machine/Matrix.lean ====
section
/-! DEFINITION. The matrix engine: tiles, weight images, MMA, MMAG, MTRN, MLDW, MRDA, MWRA, MGANG and the engine's events (R39-R43, R179-R204). -/

namespace Sys2Proof.Machine

/-! ### Tiles and the weight region (R179, R183) -/

/-- The 4,096 elements of a tile. -/
def Group.tile (g : Group) (j : Nat) : List Nat :=
  SMap.dense 0 4096 (4096 * j) (g.tiles.slice (4096 * j) (4096 * j + 4096))
def Group.setTile (g : Group) (j : Nat) (xs : List Nat) : Group := { g with tiles := g.tiles.splice 0 (4096 * j) xs }
def Group.ia (g : Group) (j : Nat) : Bool := g.tileIa.get false j
def Group.setIa (g : Group) (j : Nat) (b : Bool) : Group := { g with tileIa := g.tileIa.set false j b }
def Group.setTint (g : Group) (j : Nat) (b : Bool) : Group := { g with tileTint := g.tileTint.set false j b }
def Group.tint (g : Group) (j : Nat) : Bool := g.tileTint.get false j
/-- A byte of the weight region; one that nothing has written is undefined (log 7). -/
def Group.wbyte (g : Group) (off : Nat) : Byte := (g.wbuf.get none off).getD (Config.weightByte g.placement off)
def Group.wread (g : Group) (off n : Nat) : List Byte := (List.range n).map fun i => g.wbyte (off + i)
def Group.wwrite (g : Group) (off : Nat) (bs : List Byte) : Group :=
  { g with wbuf := g.wbuf.splice none off (bs.map some) }
/-- The format that a tile has once the instructions issued so far are done (R180, R182). -/
def State.tileIa (s : State) (gid j : Nat) : Bool :=
  let start := match s.group? gid with
    | some g => g.ia j
    | none => false
  s.mats.foldl (fun b m => if m.team.gid = gid then
    match m.kind with
    | .zero d ia _ => if d = j then ia else b
    | .wra d ia _ _ _ => if d = j then ia else b
    | _ => b
  else b) start
def State.wsize (s : State) : Nat := match s.myGroup with
  | none => 0
  | some g => match s.kernel? g.kid with
    | some k => k.lpb.wbuf
    | none => 0
/-- A range of the weight region (R183). -/
def State.wCheck (s : State) (off n : Nat) : Option Trap :=
  if off % 8 ≠ 0 then some (Trap.of cMisaligned 0)
  else if s.wsize < off + n then some (Trap.of cScratchRange 0) else none
def Trap.slot (cause slot reg : Nat) : Trap := { Trap.of cause 0 with opnd := 256 * reg + slot }

/-! ### Weight images (R184-R186) -/

/-- A header that is valid: its length, group size, K and format (R184). -/
structure ImgHdr where
  len : Nat
  g : Nat
  k : Nat
  fmt : Fmt
  deriving DecidableEq, Repr
def imgHdr (w0 w1 : Nat) : Option ImgHdr :=
  let len := bitsAt w0 32 32
  let gc := bitsAt w0 24 8
  let kc := bitsAt w0 8 8
  match tlrFmt (bitsAt w0 0 5) with
  | none => none
  | some f =>
    let fmtOk := match f with
      | .bf16 | .f16 | .e4m3 | .e5m2 | .e2m1 | .mxe4m3 | .mxe5m2 | .mxe2m1 | .q4 | .t2 => true
      | _ => false
    let g := if gc = 1 then 32 else if gc = 2 then 128 else 0
    if fmtOk && w1 == 0 && len % 8 == 0 && decide (16 ≤ len) && bitsAt w0 16 8 == 0 && bitsAt w0 5 3 == 0
        && (kc == 1 || kc == 2 || kc == 4)
        && (if f = .q4 then g != 0 && (64 * kc) % g == 0 else gc == 0) then
      some { len, g, k := 64 * kc, fmt := f }
    else none

/-- A column of a decoded image: its elements, and its block scales. -/
structure Column where
  els : List Num
  scales : List Nat
  bad : Bool
  deriving DecidableEq, Repr

/-- A stored pattern as an element; a clear bitmap bit is none (R186, R37, R38). -/
def imgElem (f : Fmt) (pre : List Nat) (g k : Nat) (x : Option Nat) : Num :=
  match f with
  | .q4 =>
    let e := nth 0 pre (k / g)
    let z := bitsAt e 16 4
    FF.bf16.dec (FF.bf16.round .rn false (q4Value (bitsAt e 0 16) (x.getD z) z)).1
  | .t2 => match x with
    | some 1 => .fin false 1 0
    | some 3 => .fin true 1 0
    | _ => Num.zero
  | f => match f.ff? with
    | some ff => ff.dec (x.getD 0)
    | none => Num.zero
/-- The patterns of one block of 64, from the bitmap and the packed data (R185). -/
def blockEls (bw bitmap data : Nat) : List (Option Nat) :=
  (List.range 64).map fun i =>
    if bitmap.testBit i then some (bitsAt data (bw * (bitList i bitmap).length) bw) else none
/-- The blocks of a column, and the position after them. -/
def imgBlocks (rd : Nat → Nat → Nat) (bw : Nat) : Nat → Nat → List (Option Nat) × Nat
  | 0, pos => ([], pos)
  | n + 1, pos =>
    let bm := rd pos 8
    let bits := bw * (bitList 64 bm).length
    let r := imgBlocks rd bw n (pos + 8 + 8 * ceilDiv bits 64)
    (blockEls bw bm (rd (pos + 8) (8 * ceilDiv bits 64)) ++ r.1, r.2)
/-- One column record (R185). -/
def imgColumn (rd : Nat → Nat → Nat) (h : ImgHdr) (pos : Nat) : Column × Nat :=
  let n := if h.fmt = .q4 then h.k / h.g else if h.fmt.isMx then h.k / 32 else 0
  let size := if h.fmt = .q4 then 4 else 1
  let pre := (List.range n).map fun i => rd (pos + size * i) size
  let r := imgBlocks rd h.fmt.bits (h.k / 64) (pos + 8 * ceilDiv (size * n) 8)
  ({ els := r.1.zipIdx.map fun p => imgElem h.fmt pre h.g p.2 p.1
     scales := if h.fmt.isMx then pre else []
     bad := h.fmt == .t2 && r.1.any (· == some 2) }, r.2)
def imgColumns (rd : Nat → Nat → Nat) (h : ImgHdr) : Nat → Nat → List Column
  | 0, _ => []
  | n + 1, pos =>
    let r := imgColumn rd h pos
    r.1 :: imgColumns rd h n r.2
/-- The image at an offset of a group's region, where its header is valid (R184, R185). -/
def Group.image (g : Group) (size off : Nat) : Option (ImgHdr × List Column) :=
  match imgHdr (fromBytes (g.wread off 8)) (fromBytes (g.wread (off + 8) 8)) with
  | none => none
  | some h =>
    let last := min (off + h.len) size
    let rd := fun pos n => fromBytes ((List.range n).map fun i =>
      if off + pos + i < last then g.wbyte (off + pos + i) else 0)
    some (h, imgColumns rd h 64 16)

/-! ### Sums (R41, R42) -/

/-- The list in pieces of `n`. -/
def pieces {α : Type} (n : Nat) : Nat → List α → List (List α)
  | 0, _ => []
  | k + 1, l => l.take n :: pieces n k (l.drop n)

/-- One chunk of 16 products with the scales of its block: its sum and NV (R41). -/
def chunkSum (a b : List Num) (sa sb : Option Nat) : Num × NFlags :=
  if sa == some 255 || sb == some 255 || a.any Num.isNan || b.any Num.isNan then (.nan, 0)
  else
    let x := Num.sum false (Num.zero :: List.zipWith Num.mul a b)
    let e : Option Nat → Int := fun c => match c with
      | some v => (v : Int) - 127
      | none => 0
    (x.scale (e sa + e sb), if x.isNan then NFlags.nv else 0)
/-- A chunk added into an fa48 element with one rounding. -/
def fa48Add (acc : Nat) (x : Num) : Nat × NFlags :=
  let l := [FF.fa48.dec acc, x]
  let r := FF.fa48.round .rn false (Num.sum false l)
  (r.1, r.2 ||| (if Num.sumNew l then NFlags.nv else 0))
def scaleAt (l : List Nat) (c : Nat) : Option Nat := if l.isEmpty then none else some (nth 255 l (c / 2))
/-- One output element of MMA. -/
def macElem (acc : Nat) (a b : List (List Num)) (sa sb : List Nat) : Nat × NFlags :=
  (List.zip a b).zipIdx.foldl (fun r p =>
    let c := chunkSum p.1.1 p.1.2 (scaleAt sa p.2) (scaleAt sb p.2)
    let x := fa48Add r.1 c.1
    (x.1, r.2 ||| c.2 ||| x.2)) (acc, 0)
/-- A row of A: its elements and its block scales. -/
structure ARow where
  els : List Num
  scales : List Nat
  deriving DecidableEq, Repr
/-- MMA over a whole tile. -/
def macTile (k : Nat) (tile : List Nat) (rows : List ARow) (cols : List Column) : List Nat × NFlags :=
  let n := k / 16
  let cs := cols.map fun c => (pieces 16 n c.els, c.scales)
  let rs := (List.zip rows (pieces 64 64 tile)).flatMap fun p =>
    let a := pieces 16 n p.1.els
    List.zipWith (fun acc c => macElem acc a c.1 p.1.scales c.2) p.2 cs
  (rs.map (·.1), rs.foldl (fun f r => f ||| r.2) 0)

/-- The sum of a chunk of signed values selected by t2 elements. -/
def trnSum (a : List Int) (b : List Num) : Int :=
  (List.zip a b).foldl (fun s p => match p.2 with
    | .fin neg 1 _ => if neg then s - p.1 else s + p.1
    | _ => s) 0
/-- An addition into an ia48 element, saturating (R39). -/
def ia48Add (acc : Nat) (x : Int) : Nat × NFlags :=
  let v := toSigned 48 acc + x
  if v < -(2 ^ 47) then (2 ^ 47, NFlags.as)
  else if 2 ^ 47 - 1 < v then (2 ^ 47 - 1, NFlags.as)
  else (wrapTo 48 v, 0)
def trnElem (acc : Nat) (a : List (List Int)) (b : List (List Num)) : Nat × NFlags :=
  (List.zip a b).foldl (fun r p =>
    let x := ia48Add r.1 (trnSum p.1 p.2)
    (x.1, r.2 ||| x.2)) (acc, 0)
/-- MTRN over a tile; a row given as none is skipped (R196, R197). -/
def trnTile (k : Nat) (tile : List Nat) (rows : List (Option (List Int))) (cols : List Column) : List Nat × NFlags :=
  let n := k / 16
  let cs := cols.map fun c => pieces 16 n c.els
  let rs := (List.zip rows (pieces 64 64 tile)).flatMap fun p => match p.1 with
    | none => p.2.map fun acc => (acc, (0 : NFlags))
    | some r => List.zipWith (fun acc c => trnElem acc (pieces 16 n r) c) p.2 cs
  (rs.map (·.1), rs.foldl (fun f r => f ||| r.2) 0)

/-! ### A operands (R188, R189) -/

/-- The elements of a register fragment by rows, and whether a lane of it is tinted (R188, R181). -/
def Team.frag (t : Team) (f : Fmt) (k v : Nat) : List Nat × Bool :=
  let w := f.bits
  let n := t.lanes
  let nreg := 2 * k * w / n
  let word := fun x => (t.vreg (v + x / n) (x % n)).val.toNat
  ((List.range (64 * k)).map fun e => bitsAt (word (e * w / 32)) (e * w % 32) w,
   (List.range nreg).any fun r => t.laneList.any fun L => (t.vreg (v + r) L).tint)

/-- One byte of a window as a lane of its load: its place and the position of its bits, or a value fixed outside the extents. -/
inductive WinByte where
  | fixed (x : Nat)
  | at_ (va pos : Nat)
  deriving DecidableEq, Repr
/-- The bytes of a window in row order, the scales of an MX format after the elements (R176, R189). -/
def winBytes (t : Tlr) (m : Nat) (f : Fmt) (k c0 c1 : Nat) : List WinByte :=
  let nb := ceilDiv f.bits 8
  let base := t.baseOf m
  let elem := fun i j =>
    if c0 + j < t.lext 0 ∧ c1 + i < t.lext 1 then
      let a := t.addr f.bits base [c0 + j, c1 + i]
      (List.range nb).map fun b => .at_ (a.1 + b) a.2
    else (List.range nb).map fun _ => .fixed 0
  let scale := fun i b =>
    if c0 + 32 * b < t.lext 0 ∧ c1 + i < t.lext 1 then .at_ (t.scaleAddr ((c0 + 32 * b) / 32) (c1 + i)) 0
    else .fixed 0x7F
  ((List.range 64).flatMap fun i => (List.range k).flatMap fun j => elem i j)
    ++ (if f.isMx then (List.range 64).flatMap fun i => (List.range (k / 32)).map fun b => scale i b else [])
/-- The load of a window: every byte inside the extents is translated with read permission (R189). -/
def State.winLanes (s : State) : List WinByte → Nat → Except Trap (List LoadLane)
  | [], _ => .ok []
  | w :: ws, n =>
    match w with
    | .fixed x => match s.winLanes ws (n + 1) with
      | .error e => .error e
      | .ok l => .ok ({ LoadLane.issue n 0 .nowhere false false with st := .exact, performed := true, value := x } :: l)
    | .at_ va pos => match s.locate .g needR va 1 with
      | .error f => .error (xTrap f 1 va [])
      | .ok x => match s.winLanes ws (n + 1) with
        | .error e => .error e
        | .ok l => .ok ({ LoadLane.issue n va x.place false false with x := pos } :: l)
/-- The rows of A from the bytes of a window. -/
def winRows (f : Fmt) (k : Nat) (ls : List LoadLane) : List ARow :=
  let nb := ceilDiv f.bits 8
  let ff := f.ff?.getD .f32
  let v := ls.map fun l => l.value / 2 ^ l.x
  let el := (pieces nb (64 * k) v).map fun bs =>
    ff.dec ((bs.zipIdx.foldl (fun a p => a + p.1 * 2 ^ (8 * p.2)) 0) % 2 ^ f.bits)
  let sc := v.drop (nb * 64 * k)
  (List.range 64).map fun i =>
    { els := (el.drop (k * i)).take k, scales := if f.isMx then (sc.drop (k / 32 * i)).take (k / 32) else [] }
def fragRows (f : Fmt) (k : Nat) (xs : List Nat) : List ARow :=
  let ff := f.ff?.getD .f32
  (pieces k 64 xs).map fun r => { els := r.map ff.dec, scales := [] }

/-! ### Issue -/

/-- A matrix instruction enters its core's queue and WMX; it takes the next number of the matrix engine unless it makes its mark alone (R180, R181, R215). -/
def State.queueMat (s : State) (kind : MatKind) (num : Option Nat) : State :=
  let j : MatJob :=
    { key := s.nextKey, team := s.cur.id, seq := s.cur.seq, pc := s.cur.instrAddr,
      core := s.coreOf s.cur.id.gid, num, fences := s.cur.fences, kind, started := none }
  { s.bump with mats := s.mats ++ [j] }
def State.issueMat (s : State) (kind : MatKind) : State :=
  (s.queueMat kind (some (s.tlNext s.cur.id.gid 17))).tlTake s.cur.id.gid 17
/-- A tinted operand that every team-guarded matrix instruction has: its guard, or control tint in the mask (R181). -/
def Team.matTint (t : Team) (g : TeamGuard) : Bool := (t.tguard g).tint || t.ctlMask
/-- The frame of MZERO, MMA, MMAG, MTRN and MWRA: a false tinted guard makes its mark alone (R181). -/
def State.matOp (s : State) (g : TeamGuard) (d : Nat) (k : State → Eff) : Eff :=
  let gc := s.cur.tguard g
  if gc.val then k s
  else if gc.tint then .next (s.queueMat (.mark d) none) else .next s

/-- MZERO (R191). -/
def execMzero (o : MzeroOps) (s : State) : Host.Outcome State Fault Refusal :=
  finish (s.matOp o.g o.d.val fun s => .next (s.issueMat (.zero o.d.val o.ia (s.cur.matTint o.g))))

/-- A window's load, and the state in which it is in flight (R189). -/
def State.issueWindow (s : State) (t : Tlr) (f : Fmt) (k c0 c1 : Nat) : Except Trap (State × Nat) :=
  match t.meshRank s.rank with
  | none => .error (Trap.of cTensorRecord (0 : Nat))
  | some m => match s.winLanes (winBytes t m f k c0 c1) 0 with
    | .error e => .error e
    | .ok lanes =>
      let ld : Load := s.newLoad .mat .g .w8 false 0 0 lanes
      .ok ({ s.bump with loads := (s.loads ++ [ld]) }, ld.key)

/-- The checks of MMA at issue and its part of the operation (R181, R192): a tinted scalar goes unchecked. -/
def State.mmaPart (s : State) (o : MmaOps) : Except Trap (State × MatPart) :=
  let t := s.cur
  let k := o.shape.k
  let sb := t.sreg o.b.val
  let part := fun (frag : List Nat) (win : Option Nat) (tint skip : Bool) =>
    MatPart.mk t.id t.seq t.instrAddr (s.tlNext t.id.gid 17) o.d.val frag win (t.matTint o.g || tint) skip sb.tint
  match (if sb.tint then none else s.wCheck sb.val.toNat 16) with
  | some tr => .error tr
  | none =>
    if s.tileIa t.id.gid o.d.val then .error (Trap.slot cTileFormat 1 o.d.val)
    else match o.a with
      | .frag v =>
        let f := t.frag o.fa k v.val
        .ok (s, part f.1 none (f.2 || sb.tint) sb.tint)
      | .handle a c =>
        let ha := t.sreg a.val
        let hc := t.sreg c.val
        let h := bitsAt ha.val.toNat 0 16
        let tint := sb.tint || ha.tint || hc.tint
        if ha.tint then .ok (s, part [] none true true)
        else match s.tlr h with
          | .error tr => .error tr
          | .ok r =>
            let c0 := bitsAt hc.val.toNat 0 32
            if r.fmt ≠ some o.fa ∨ r.rank < 2 ∨ (r.meshRank s.rank).isNone then .error (Trap.of cTensorRecord h)
            else if hc.tint then .ok (s.cacheHandle h, part [] none true true)
            else if o.fa.isMx ∧ c0 % 32 ≠ 0 then .error (Trap.of cTensorRecord h)
            else match (s.cacheHandle h).issueWindow r o.fa k c0 (bitsAt hc.val.toNat 32 32) with
              | .error tr => .error tr
              | .ok (s', w) => .ok (s', part [] (some w) tint sb.tint)
/-- MMA (R192). -/
def execMma (o : MmaOps) (s : State) : Host.Outcome State Fault Refusal :=
  finish (s.matOp o.g o.d.val fun s => match s.mmaPart o with
  | .error tr => .trap s tr
  | .ok (s', p) => .next (s'.issueMat (.mma o.fa o.fb o.shape.k (s.cur.sval o.b).toNat [p])))

/-! ### The rendezvous (R193-R195) -/

/-- A part of a failed rendezvous: its MMAG leaves WMX without effect, and with `trap` its team takes the trap at its next clause start (R195). -/
def State.failMember (s : State) (cause : Nat) (p : MatPart) (trap : Bool) : State :=
  let s1 := (s.tlFinish p.team.gid 17 p.num).modTeam p.team fun t =>
    if !trap ∨ t.state = .exiting ∨ t.state = .retired then t
    else { t with deferred := t.deferred ++ [{ trap := Trap.of cause p.pc.toNat, at_ := .clause }] }
  match p.win with
  | some k => { s1 with loads := s1.loads.filter fun ld => ld.key != k }
  | none => s1
/-- A rendezvous fails: every part of it, each member taking one trap, for the earlier of two arrivals (R194, R195). -/
def State.failGang (s : State) (gid cause : Nat) (more : List MatPart) : State :=
  let ps := match s.group? gid with
    | some g => (match g.latch with
      | some l => l.arrived
      | none => [])
    | none => []
  let all := ps.map (fun p => (p, true)) ++ more.map fun p => (p, ps.all fun q => q.team != p.team)
  all.foldl (fun s p => s.failMember cause p.1 p.2) (s.modGroup gid fun g => { g with latch := none })
/-- Parts in ascending team order. -/
def insertPart (p : MatPart) : List MatPart → List MatPart
  | [] => [p]
  | q :: l => if p.team.idx < q.team.idx then p :: q :: l else q :: insertPart p l
/-- An arrival matches the open rendezvous (R194). -/
def Latch.fits (l : Latch) (mask : BitVec 16) (o : MmaOps) (handle : Bool) (sb : SCell) (idx : Nat) : Bool :=
  l.mask == mask && l.fa == o.fa && l.fb == o.fb && l.shape == o.shape && l.handle == handle
    && (match l.sb with
      | some x => sb.tint || x == sb.val
      | none => true) && (l.arrived.all fun q => q.team.idx != idx)
/-- An MMAG arrives at the rendezvous (R194). -/
def State.arrive (s : State) (o : MmaOps) (p : MatPart) : State :=
  let t := s.cur
  let gid := t.id.gid
  let handle := match o.a with
    | .handle _ _ => true
    | .frag _ => false
  let sb := t.sreg o.b.val
  let s1 := s.tlTake gid 17
  let put := fun (l : Latch) =>
    let arrived := insertPart p l.arrived
    let l : Latch := { l with arrived, sb := l.sb.orElse fun _ => if sb.tint then none else some sb.val }
    if (bitList 16 l.mask.toNat).all fun i => arrived.any fun q => q.team.idx == i then
      (s1.modGroup gid fun g => { g with latch := none }).queueMat
        (.mma l.fa l.fb l.shape.k ((l.sb.map BitVec.toNat).getD 0) arrived) none
    else s1.modGroup gid fun g => { g with latch := some l }
  match (s.group? gid).bind Group.latch with
  | none => put { mask := t.gang, fa := o.fa, fb := o.fb, shape := o.shape, handle, sb := none, since := s.clk, arrived := [] }
  | some l => if l.fits t.gang o handle sb t.id.idx then put l else s1.failGang gid cGangMismatch [p]
/-- MMAG (R193, R195): an empty gang register traps at the MMAG. -/
def execMmag (o : MmaOps) (s : State) : Host.Outcome State Fault Refusal :=
  finish (s.matOp o.g o.d.val fun s =>
    if s.cur.gang = 0 then .trap s (Trap.of cGangMismatch s.cur.instrAddr.toNat)
    else match s.mmaPart o with
      | .error tr => .trap s tr
      | .ok (s', p) => .next (s'.arrive o p))

/-- MTRN and MTRN.dlt (R196, R197). -/
def State.mtrn (s : State) (shape : Shape) (d a b : Nat) (g : TeamGuard) (dlt : Option (Nat × Nat)) : Eff :=
  let t := s.cur
  let k := shape.k
  let sb := t.sreg b
  let sc := (dlt.map fun x => t.sreg x.2).getD SCell.zero
  let f := t.frag .i8 k a
  match (if sb.tint then none else s.wCheck sb.val.toNat 16) with
  | some tr => .trap s tr
  | none =>
    if !s.tileIa t.id.gid d then .trap s (Trap.slot cTileFormat 1 d)
    else
      let c := sc.val.toNat
      let lim := match s.myGroup with
        | some g => s.spaceSize g .k
        | none => 0
      if dlt.isSome ∧ !sc.tint ∧ c % 8 ≠ 0 then .trap s (Trap.of cMisaligned 0)
      else if dlt.isSome ∧ !sc.tint ∧ lim < c + 64 * k then .trap s (Trap.of cScratchRange 0)
      else
        let p : MatPart :=
          { team := t.id, seq := t.seq, pc := t.instrAddr, num := s.tlNext t.id.gid 17, d,
            frag := f.1, win := none, tint := t.matTint g || f.2 || sb.tint || sc.tint, skip := sb.tint || sc.tint, blind := sb.tint }
        .next (s.issueMat (.trn k sb.val.toNat p (dlt.map fun x => (x.1, c))))
def execMtrn (o : MtrnOps) (s : State) : Host.Outcome State Fault Refusal :=
  finish (s.matOp o.g o.d.val fun s => s.mtrn o.shape o.d.val o.a.val o.b.val o.g none)
def execMtrnDlt (o : MtrnDltOps) (s : State) : Host.Outcome State Fault Refusal :=
  finish (s.matOp o.g o.d.val fun s => s.mtrn o.shape o.d.val o.a.val o.b.val o.g (some (o.th.toNat, o.c.val)))

/-! ### MLDW (R198, R199) -/

/-- The region and translation checks of the copied bytes, then the queue (R198, R199). -/
def State.mldwCopy (s : State) (save : Bool) (a off n : Nat) : Eff :=
  match s.wCheck off n with
  | some tr => .trap s tr
  | none => match s.locateRange .g (if save then needW else needR) a (pagesIn n) n with
    | .error (f, va) => .trap s (xTrap f (if save then 2 else 1) va [])
    | .ok runs =>
      if save then .next ((s.noteSave (s.ctxOf s.cur) a n).issueMat (.save off n a runs none))
      else
        let r := s.matLoad runs a n
        .next (r.1.issueMat (.ldw off n (some r.2)))
/-- The header read at issue: a plain w0 load that the instruction waits for (R198). -/
def State.mldwHeader (s : State) (a : Nat) : Except Trap (State × Option (List Byte)) :=
  match s.readFirst needR a 16 with
  | .error tr => .error tr
  | .ok (s1, none) => .ok (s1, none)
  | .ok (s1, some ld) => match ld.lanes.find? fun l => l.bad.isSome with
    | some l => .error (Trap.of (l.bad.getD cPoisoned) l.addr)
    | none => .ok (s1, some (matBytes ld))
/-- The header is valid, and the copy follows (R198). -/
def State.mldwImage (s : State) (a off : Nat) (bs : List Byte) : Eff :=
  match imgHdr (fromBytes (bs.take 8)) (fromBytes (bs.drop 8)) with
  | none => .trap s (Trap.of cWeightImage 0)
  | some h => s.mldwCopy false a off h.len
def State.mldw (s : State) (a off : Nat) : Eff :=
  if a % 8 ≠ 0 ∨ off % 8 ≠ 0 then .trap s (Trap.of cMisaligned 0)
  else match s.mldwHeader a with
    | .error tr => s.readTrap tr
    | .ok (s1, none) => .hold s1
    | .ok (s1, some bs) => s1.mldwImage a off bs
def execMldw (o : MldwOps) (s : State) : Host.Outcome State Fault Refusal :=
  finish (s.teamOp o.g [(2, o.a.val), (3, o.b.val)] fun s => s.mldw (s.cur.sval o.a).toNat (s.cur.sval o.b).toNat)
/-- MLDW.save and MLDW.raw (R199); sA is a multiple of 8 as that of MLDW is (DESIGN CHOICE, log 90). -/
def State.mldwRegion (s : State) (save : Bool) (a off n : Nat) : Eff :=
  if a % 8 ≠ 0 ∨ off % 8 ≠ 0 ∨ n % 8 ≠ 0 then .trap s (Trap.of cMisaligned 0) else s.mldwCopy save a off n
def execMldwSave (o : MldwRegionOps) (s : State) : Host.Outcome State Fault Refusal :=
  finish (s.teamOp o.g [(2, o.a.val), (3, o.b.val), (4, o.c.val)] fun s =>
    s.mldwRegion true (s.cur.sval o.a).toNat (s.cur.sval o.b).toNat (s.cur.sval o.c).toNat)
def execMldwRaw (o : MldwRegionOps) (s : State) : Host.Outcome State Fault Refusal :=
  finish (s.teamOp o.g [(2, o.a.val), (3, o.b.val), (4, o.c.val)] fun s =>
    s.mldwRegion false (s.cur.sval o.a).toNat (s.cur.sval o.b).toNat (s.cur.sval o.c).toNat)

/-! ### Reading and writing tiles (R200-R203) -/

/-- The active lanes of a team-guarded instruction, each with the tint that its guard and control tint give (R57, R94). -/
def Team.matLanes (t : Team) (g : TeamGuard) : List (Nat × Bool) :=
  (t.laneList.filter fun L => t.mask.getLsbD L).map fun L => (L, (t.tguard g).tint || t.ctl.getLsbD L)
/-- The result formats that apply the tensor scale (R201). -/
def tauFmt (f : Fmt) : Bool :=
  match f with
  | .f32 | .f16 | .bf16 | .e4m3 | .e5m2 => true
  | _ => false
/-- A false tinted guard tints every register lane that would have been written (R181). -/
def State.tintRegs (s : State) (g : TeamGuard) (d n : Nat) : State :=
  let ls := (s.cur.matLanes g).map (·.1)
  s.modCur fun t => (List.range n).foldl (fun t r => ls.foldl (fun t L =>
    t.setV (d + r) L { t.vreg (d + r) L with tint := true }) t) t
/-- The register count of a window; under span 0 a lane count that does not divide 4,096 leaves the last elements out (R200; DESIGN CHOICE, log 89). -/
def spanRegs (t : Team) (span : Byte) : Nat := if span = 0 then 4096 / t.lanes else span.toNat
/-- MRDA (R201). -/
def execMrda (o : MrdaOps) (s : State) : Host.Outcome State Fault Refusal :=
  let t := s.cur
  let gc := t.tguard o.g
  let nreg := spanRegs t o.span
  finish (if !gc.val then
      (if gc.tint then .next (s.tintRegs o.g o.d.val (nreg * rawRegs o.fmt)) else .next s)
    else
      let ia := s.tileIa t.id.gid o.a.val
      let sb := t.sreg o.b.val
      if !sb.tint && ((ia && o.fmt == .fa48) || (!ia && (o.fmt == .i32 || o.fmt == .ia48))) then .trap s (Trap.slot cTileFormat 2 o.a.val)
      else
        let h := bitsAt sb.val.toNat 0 16
        let go := fun (s : State) (tau : Option Lane) =>
          Eff.next (s.issueMat (.rda o.fmt o.rm o.sat tau o.d.val o.a.val (bitsAt sb.val.toNat 16 12) nreg
            ((t.matLanes o.g).map fun p => (p.1, p.2 || sb.tint))))
        if o.noscale || !tauFmt o.fmt then go s none
        else match s.tlr h with
          | .ok r => go (s.cacheHandle h) (some r.tscale)
          | .error tr => if sb.tint then go s none else .trap s tr)
/-- The status form of MRDA (R202). -/
def execMrdaStatus (o : MrdaStatusOps) (s : State) : Host.Outcome State Fault Refusal :=
  let gc := s.cur.tguard o.g
  finish (.next (if gc.val then s.issueMat (.status o.d.val (s.cur.matLanes o.g))
    else if gc.tint then s.tintRegs o.g o.d.val 1 else s))
/-- A value on its way into a tile (R203). -/
def intoTile (f : Fmt) (x : Nat) : Nat :=
  match f with
  | .fa48 => if (FF.fa48.dec (x % 2 ^ 48)).isNan then FF.fa48.nanCode else x % 2 ^ 48
  | .ia48 => x % 2 ^ 48
  | .f32 => (FF.fa48.round .rn false (FF.f32.dec x)).1
  | _ => wrapTo 48 (toSigned 32 x)
/-- MWRA (R203). -/
def execMwra (o : MwraOps) (s : State) : Host.Outcome State Fault Refusal :=
  let t := s.cur
  let nreg := spanRegs t o.span
  finish (s.matOp o.g o.d.val fun s =>
    let ls := (t.matLanes o.g).map (·.1)
    let ia := o.fmt == .ia48 || o.fmt == .i32
    let whole := nreg * t.lanes == 4096 && ls.length == t.lanes
    if s.tileIa t.id.gid o.d.val != ia && !whole then .trap s (Trap.slot cTileFormat 1 o.d.val)
    else
      let sb := t.sreg o.b.val
      let e0 := bitsAt sb.val.toNat 16 12
      let n := rawRegs o.fmt
      let cells := (List.range nreg).flatMap fun r => ls.map fun L =>
        let v := t.vval n (o.a.val + n * r) L
        (((e0 + r * t.lanes + L) % 4096, intoTile o.fmt v.1), v.2)
      let tint := t.matTint o.g || sb.tint || cells.any (·.2)
      .next (s.issueMat (.wra o.d.val ia (cells.map (·.1)) tint (whole && !tint))))
/-- MGANG (R204): the check of the mask is an encoding check (R60). -/
def execMgang (o : MgangOps) (s : State) : Host.Outcome State Fault Refusal :=
  finish (s.teamOp o.g [] fun s => .next ((s.modCur fun t => { t with gang := o.mask }).issueMat .gang))

/-! ### The engine (R180, R187) -/

/-- The cycles for which an instruction occupies the engine (R187, R191). -/
def MatKind.occupancy : MatKind → Nat
  | .zero .. => 8
  | .mma fa _ k _ ps => k * fa.bits / 8 * ps.length
  | .trn k .. => k / 4
  | _ => 0
/-- The first instruction of a core's queue. -/
def State.matHead (s : State) (core : Nat) : Option MatJob := s.mats.find? fun j => j.core == core
def State.modMat (s : State) (k : Nat) (f : MatJob → MatJob) : State :=
  { s with mats := s.mats.map fun j => if j.key = k then f j else j }
/-- The image that MMA or MTRN names is valid for it (R192, R196). -/
def State.imgOk (s : State) (gid off k : Nat) (f : Fmt) : Bool :=
  match s.group? gid with
  | none => false
  | some g => match imgHdr (fromBytes (g.wread off 8)) (fromBytes (g.wread (off + 8) 8)) with
    | some h => h.fmt == f && h.k == k
    | none => false
/-- The reads that an instruction's start waits for. -/
def MatKind.loads : MatKind → List Nat
  | .mma _ _ _ _ ps => ps.filterMap MatPart.win
  | .ldw _ _ l => l.toList
  | _ => []
/-- The bytes of MLDW.save as a posted access. -/
def State.savePost (s : State) (j : MatJob) (off n va : Nat) (runs : List (Place × Nat)) : State :=
  let bs := match s.group? j.team.gid with
    | some g => g.wread off n
    | none => []
  let ws := (List.range (n / 8)).map fun i =>
    PostWrite.mk (runPlace runs (8 * i)) (va + 8 * i) ((bs.drop (8 * i)).take 8) none false
  let q : Post :=
    { key := s.nextKey, team := j.team, seq := j.seq, pc := j.pc, w := .w64, signed := false, rel := none,
      fences := j.fences, writes := ws, core := j.core, kid := 0, counted := false,
      ctx := ((s.group? j.team.gid).map Group.ctx).getD 64, num := none, sig := none, relaxed := false, eng := none,
      accepted := false, entered := false, paths := [], hdr := s.hdrOf j.team }
  let r := s.takePost q
  { r.1.bump with posts := r.1.posts ++ [r.2] }
/-- MATRIX_ENGINE_START: the engine starts the next instruction once the one before is finished: its reads are performed, and an invalid image kills the group, which a tinted sB alone leaves unchecked; the record names the lowest-numbered member of a joint operation (R180, R181, R189, R192, R275). -/
def execMatrixEngineStart (core : Nat) (s : State) : Host.Outcome State Fault Refusal :=
  .next (match s.matHead core with
  | none => s
  | some j =>
    if j.started.isSome then s
    else
      let s1 := j.kind.loads.foldl (fun s k => s.feedMat k) s
      if (j.kind.loads.all fun k => (s1.matReady k).isSome) then
        let go := fun (s : State) => s.modMat j.key fun j => { j with started := some s.clk }
        match j.kind with
        | .mma _ fb k off ps =>
          match ps with
          | p :: _ => if ps.all MatPart.blind || s1.imgOk j.team.gid off k fb then go s1 else s1.killAt p.team cWeightImage p.pc
          | [] => go s1
        | .trn k off p _ =>
          if p.blind || s1.imgOk j.team.gid off k .t2 then go s1 else s1.killAt p.team cWeightImage p.pc
        | .save off n va runs _ =>
          let k := s1.nextKey
          (s1.savePost j off n va runs).modMat j.key fun j => { j with started := some s1.clk, kind := .save off n va runs (some k) }
        | _ => go s1
      else s1)

/-! ### What an instruction does when it is finished -/

def State.flagTeam (s : State) (id : TeamId) (f : NFlags) : State :=
  s.modTeam id fun t => { t with sys := { t.sys with nstat := t.sys.nstat ||| f } }
/-- Flags of MMA, MMAG and MTRN, which wait for a clause that waits on WMX (R40). -/
def State.flagMatrix (s : State) (id : TeamId) (f : NFlags) : State :=
  s.modTeam id fun t => { t with sys := { t.sys with mflags := t.sys.mflags ||| f } }
/-- Poison that an engine read met is reported (R189, R198, R331); a byte that a peer denied, or that was lost with it, is taken as poison (DESIGN CHOICE, log 91). -/
def State.reportPoison (s : State) (id : TeamId) (pc : Word) (ls : List LoadLane) : State :=
  match ls.find? fun l => l.bad.isSome with
  | none => s
  | some l => s.post { s.reportFor id (((s.group? id.gid).map Group.ctx).getD 64) 0x03 cPoisoned l.addr with pc := pc.toNat }
def State.tintTile (s : State) (gid d : Nat) : State := s.modGroup gid fun g => g.setTint d true
/-- One member's accumulation (R192, R193). -/
def State.mmaDone (s : State) (fa : Fmt) (k off : Nat) (p : MatPart) : State :=
  let gid := p.team.gid
  let s1 := if p.tint then s.tintTile gid p.d else s
  if p.skip then s1
  else match s1.group? gid with
    | none => s1
    | some g =>
      let size := match s1.kernel? g.kid with
        | some k => k.lpb.wbuf
        | none => 0
      let cols := match g.image size off with
        | some (_, cs) => cs
        | none => []
      let lanes := match p.win with
        | some w => (match s1.load? w with
          | some ld => ld.lanes
          | none => [])
        | none => []
      if lanes.any fun l => l.bad.isSome then s1.reportPoison p.team p.pc lanes
      else
        let rows := match p.win with
          | some _ => winRows fa k lanes
          | none => fragRows fa k p.frag
        let r := macTile k (g.tile p.d) rows cols
        (s1.modGroup gid fun g => g.setTile p.d r.1).flagMatrix p.team r.2
/-- The rows of activations that MTRN.dlt writes back into core scratchpad (R197); a sector that they fill is poisoned no more (R331). -/
def State.writePrev (s : State) (gid c k : Nat) (rows : List (Option (List Int))) : State :=
  let ctx := ((s.group? gid).map Group.ctx).getD 64
  let s1 := rows.zipIdx.foldl (fun s r => match r.1 with
    | some xs => s.homeWrite false ReqHdr.nobody ctx (c + k * r.2) (.scratch gid .k (c + k * r.2)) (xs.map fun x => BitVec.ofInt 8 x)
    | none => s) s
  s1.heal (.scratch gid .k c) (64 * k) fun p => match p with
    | .scratch _ _ off => decide (c ≤ off) && (rows.getD ((off - c) / k) none).isSome
    | _ => false
/-- MTRN's accumulation, and the activations written back (R196, R197). A column of the image that holds the reserved t2 code sets TR even where every row is skipped, and poisoned bytes of prev are read as plain data without a report (DESIGN CHOICE, log 85). -/
def State.trnDone (s : State) (k off : Nat) (p : MatPart) (dlt : Option (Nat × Nat)) : State :=
  let gid := p.team.gid
  let s1 := if p.tint then s.tintTile gid p.d else s
  if p.skip then s1
  else match s1.group? gid with
    | none => s1
    | some g =>
      let size := match s1.kernel? g.kid with
        | some k => k.lpb.wbuf
        | none => 0
      let cols := match g.image size off with
        | some (_, cs) => cs
        | none => []
      let a := pieces k 64 (p.frag.map (toSigned 8))
      let rows := a.zipIdx.map fun r => match dlt with
        | none => (some r.1, false)
        | some (th, c) =>
          let prev := (readMap g.k.mem (c + k * r.2) k).map fun b : Byte => toSigned 8 b.toNat
          let d := List.zipWith (fun x y : Int => x - y) r.1 prev
          if d.all fun x => decide (x.natAbs ≤ th) then (none, false) else (some d, true)
      let r := trnTile k (g.tile p.d) (rows.map (·.1)) cols
      let tr := if cols.any Column.bad then NFlags.tr else 0
      let s2 := (s1.modGroup gid fun g => g.setTile p.d r.1).flagMatrix p.team (r.2 ||| tr)
      match dlt with
      | none => s2
      | some (_, c) => if p.tint then s2 else s2.writePrev gid c k ((List.zip a rows).map fun q => if q.2.2 then some q.1 else none)
/-- One element as MRDA delivers it (R43, R201): under .sat the first rounding into an 8-bit format marks no overflow (R33). The flush-to-zero flag flushes the result alone: a subnormal tensor scale keeps its value (R34, R201; DESIGN CHOICE, log 83). -/
def rdaElem (fmt : Fmt) (rm : Rm) (sat ftz : Bool) (tau : Option Lane) (ia : Bool) (acc : Nat) : Nat × NFlags :=
  match fmt with
  | .fa48 => (acc, 0)
  | .ia48 => (wrapTo 64 (toSigned 48 acc), 0)
  | .i32 => if ia then Fmt.i32.clamp (toSigned 48 acc) else ((Config.illegalTileRead acc).toNat, 0)
  | f =>
    let x := if ia then Num.ofInt false (toSigned 48 acc) 0 else FF.fa48.dec acc
    let t := match tau with
      | some b => FF.f32.dec b.toNat
      | none => .fin false 1 0
    let y := x.mul t
    let nv := if Num.mulNew x t then NFlags.nv else 0
    if f.isE then
      let r := FF.f32.round .rn false y
      let e := f.fromNum rm sat false (FF.f32.dec r.1)
      (laneForm f e.1, nv ||| (if sat then 0 else r.2) ||| e.2)
    else
      let r := f.fromNum rm sat ftz y
      (laneForm f r.1, nv ||| r.2)
/-- A register of a team written in lanes from a list (R201). -/
def State.matWrite (s : State) (id : TeamId) (r : Nat) (cells : List (Nat × VCell)) : State :=
  (s.abandonOf id r (cells.map (·.1))).modTeam id fun t => cells.foldl (fun t p => t.setV r p.1 p.2) t
def State.rdaDone (s : State) (id : TeamId) (fmt : Fmt) (rm : Rm) (sat : Bool) (tau : Option Lane) (d a e0 nreg : Nat)
    (lanes : List (Nat × Bool)) : State :=
  match s.group? id.gid, s.team? id with
  | some g, some t =>
    let els := (g.tile a).toArray
    let tint := g.tint a
    let n := rawRegs fmt
    (List.range nreg).foldl (fun s r =>
      let xs := lanes.map fun p => (p, rdaElem fmt rm sat t.ftz tau (g.ia a) (els.getD ((e0 + r * t.lanes + p.1) % 4096) 0))
      let s1 := (List.range n).foldl (fun s h => s.matWrite id (d + n * r + h) (xs.map fun x =>
        (x.1.1, { val := BitVec.ofNat 32 (x.2.1 / 2 ^ (32 * h)), tint := x.1.2 || tint }))) s
      s1.flagTeam id (xs.foldl (fun f x => f ||| x.2.2) 0)) s
  | _, _ => s
/-- The word of the status form (R202). -/
def Group.statusWord (g : Group) : Nat :=
  (List.range 8).foldl (fun w j => w + b2n (g.ia j) * 2 ^ j + b2n (g.tint j) * 2 ^ (8 + j)) 0
/-- The effect of a finished instruction. -/
def State.matEffect (s : State) (j : MatJob) : State :=
  let gid := j.team.gid
  match j.kind with
  | .mark d => s.tintTile gid d
  | .zero d ia tint => s.modGroup gid fun g => ((g.setTile d (List.replicate 4096 0)).setIa d ia).setTint d tint
  | .mma fa _ k off ps =>
    let s1 := ps.foldl (fun s p => s.mmaDone fa k off p) s
    ps.foldl (fun s p => match p.win with
      | some w => s.dropLoad w
      | none => s) s1
  | .trn k off p dlt => s.trnDone k off p dlt
  | .ldw off _ (some l) => match s.load? l with
    | some ld => ((s.reportPoison j.team j.pc ld.lanes).modGroup gid fun g => g.wwrite off (matBytes ld)).dropLoad l
    | none => s
  | .ldw _ _ none | .save .. | .gang => s
  | .rda fmt rm sat tau d a e0 nreg lanes => s.rdaDone j.team fmt rm sat tau d a e0 nreg lanes
  | .status d lanes => match s.group? gid with
    | some g => s.matWrite j.team d (lanes.map fun p => (p.1, { val := BitVec.ofNat 32 g.statusWord, tint := p.2 }))
    | none => s
  | .wra d ia els tint clear =>
    s.modGroup gid fun g =>
      let g := { g with tiles := els.foldl (fun m (p : Nat × Nat) => SMap.set 0 m (4096 * d + p.1) p.2) g.tiles }
      let g := g.setIa d ia
      if tint then g.setTint d true else if clear then g.setTint d false else g
/-- The numbers that an instruction completes on the matrix timeline (R215). -/
def MatJob.nums (j : MatJob) : List Nat :=
  match j.kind with
  | .mma _ _ _ _ ps => ps.map MatPart.num
  | _ => j.num.toList
/-- The writes of MLDW.save are performed before it leaves WMX (R199). -/
def State.saveReady (s : State) (j : MatJob) : State × Bool :=
  match j.kind with
  | .save _ _ _ _ (some p) =>
    let s1 := s.performPost p
    match s1.post? p with
    | none => (s1, true)
    | some q => if q.writes.all PostWrite.done then ({ s1 with posts := s1.posts.filter fun q => q.key != p }, true)
      else (s1, false)
  | _ => (s, true)
/-- MATRIX_INSTRUCTION_DONE: the occupancy has ended, and the instruction leaves WMX with its effect, its flags and its tile-tint bit (R48, R180, R187). -/
def execMatrixInstructionDone (core : Nat) (s : State) : Host.Outcome State Fault Refusal :=
  .next (match s.matHead core with
  | none => s
  | some j => match j.started with
    | none => s
    | some c =>
      if s.clk < c + j.kind.occupancy then s
      else
        let r := s.saveReady j
        if !r.2 then r.1
        else
          let s1 := r.1.matEffect j
          j.nums.foldl (fun s n => s.tlFinish j.team.gid 17 n) { s1 with mats := s1.mats.filter fun i => i.key != j.key })
/-- GANG_TIMEOUT: the last cycle of the bound of 65,536 has ended (R194). -/
def execGangTimeout (gid : Nat) (s : State) : Host.Outcome State Fault Refusal :=
  .next (match (s.group? gid).bind Group.latch with
  | none => s
  | some l => if l.since + 65536 < s.clk then s.failGang gid cGangTimeout [] else s)

end Sys2Proof.Machine
end

