-- ==== Sys2Proof/Machine/Group.lean ====
section
/-! DEFINITION. Groups: placement, parking, migration, restore, kills and retirement (R88, R89, R205, R259-R276). -/

namespace Sys2Proof.Machine

/-! ### What a group takes (R19, R261) -/

def kKib : Nat := 1024
/-- The groups of a kernel: GX × GY × GZ. -/
def Kernel.total (k : Kernel) : Nat := k.lpb.gx * k.lpb.gy * k.lpb.gz
/-- A group holds a core's resources. -/
def GState.holds : GState → Bool
  | .resident | .saving | .restoring | .halted _ => true
  | _ => false
/-- The groups on a set of physical cores, with their kernels' needs. -/
def State.needsOn (s : State) (on : Nat → Bool) : List Lpb :=
  (s.groups.filter fun g => g.state.holds && on (s.pcore g.lcore)).filterMap fun g => (s.kernel? g.kid).map Kernel.lpb
/-- A group's teams hold slots and register blocks again from its placement on, though they stay Saved until their restore handlers start (R89, R260). -/
def State.restoring (s : State) (gid : Nat) : Bool :=
  match s.group? gid with
  | some g => g.state == .restoring
  | none => false
/-- The teams that hold a slot and register blocks of a core: a Saved one has freed them (R19, R89). -/
def State.teamsOn (s : State) (p : Nat) : List Team :=
  s.teams.filter fun t => s.onCore p t && t.state != .retired && (t.state != .saved || s.restoring t.id.gid)
def Lpb.blocks (l : Lpb) : Nat := l.lanes / 32 * (l.regs / 8)
/-- A group of the kernel fits a physical core (R261). -/
def State.fits (s : State) (l : Lpb) (p : Nat) : Bool :=
  let ts := s.teamsOn p
  let core := s.needsOn (· == p)
  let quad := s.needsOn fun x => quadKey x == quadKey p
  let die := s.needsOn fun x => pcoreDie x == pcoreDie p
  decide (ts.length + l.teams ≤ 32)
    && decide (sumOf (ts.map fun t => t.lanes / 32 * (t.regs / 8)) + l.teams * l.blocks ≤ 512)
    && decide (sumOf (core.map Lpb.accs) + l.accs ≤ 8) && decide (sumOf (core.map Lpb.wbuf) + l.wbuf ≤ 256 * kKib)
    && decide (sumOf (core.map Lpb.k) + l.k ≤ 512 * kKib) && decide (sumOf (quad.map Lpb.q) + l.q ≤ 2048 * kKib)
    && decide (sumOf (die.map Lpb.d) + l.d ≤ s.split (pcoreDie p))
/-- The same with every resource of the core free (R288). -/
def State.fitsEmpty (s : State) (l : Lpb) (p : Nat) : Bool :=
  decide (l.teams ≤ 32) && decide (l.teams * l.blocks ≤ 512) && decide (l.accs ≤ 8) && decide (l.wbuf ≤ 256 * kKib)
    && decide (l.k ≤ 512 * kKib) && decide (l.q ≤ 2048 * kKib) && decide (l.d ≤ s.split (pcoreDie p))
/-- The cores that a unit takes with it. -/
def unitCores : ErrUnit → List Nat
  | .core n | .microTlb n => [n]
  | .quad q | .quadScratch q | .quadL1 q | .quadTlb q => (List.range 4).map fun i => 4 * q + i
  | _ => []
/-- A self-test of the core or its quad waits for its groups to go (R392). -/
def State.suspect (s : State) (p : Nat) : Bool := s.suspects.any fun u => (unitCores u).contains p
/-- A logical core on which the placer may place: in service, no migration's source or target, no self-test due, and below 95 °C (R21, R261, R269, R392, R394). -/
def State.placeable (s : State) (l : Nat) : Bool :=
  !s.outOfService.get false l && !s.suspect (s.pcore l) && (s.reserved.all fun r => r.1 != l && r.2 != s.pcore l) && decide ((s.coreAt (s.pcore l)).celsius < 95)
def State.inService (s : State) (l : Nat) : Bool := !s.outOfService.get false l
/-- The fitting core with the fewest resident teams, the lowest number first. -/
def State.bestCore (s : State) (l : Lpb) : Option Nat :=
  let cs := (List.range 1152).filter fun c => s.placeable c && s.fits l (s.pcore c)
  (cs.foldl (fun a c => match a with
    | some (b, n) => if (s.teamsOn (s.pcore c)).length < n then some (c, (s.teamsOn (s.pcore c)).length) else some (b, n)
    | none => some (c, (s.teamsOn (s.pcore c)).length)) none).map Prod.fst

/-! ### Pools (R262, R290) -/

def clashes (us : List (Nat × Nat)) (a n : Nat) : Bool := us.any fun u => decide (a < u.1 + u.2) && decide (u.1 < a + n)
/-- A place of `n` bytes in a pool: the one hinted at if it is free, else the lowest free one at a multiple of 256. -/
def poolPlace (base size : Nat) (us : List (Nat × Nat)) (n hint : Nat) : Option Nat :=
  let ok := fun a => a % 256 == 0 && decide (base ≤ a) && decide (a + n ≤ base + size) && !clashes us a n
  if ok hint then some hint else minOf ((base :: us.map fun u => alignUp 256 (u.1 + u.2)).filter ok)
def Lpb.saveSize (l : Lpb) : Nat := (saveAreaAt 0 l.teams l.lanes l.regs l.d).size l.k l.q l.accs l.wbuf
def Lpb.constSize (l : Lpb) : Nat := 64 + 8 * l.argq
/-- The areas that the groups of a context hold. -/
def State.areas (s : State) (slot : Nat) (f : Group → Option Nat) (n : Lpb → Nat) : List (Nat × Nat) :=
  s.groups.filterMap fun g => match f g, s.kernel? g.kid with
    | some a, some k => if g.ctx = slot then some (a, n k.lpb) else none
    | _, _ => none

/-- The device's own access to bytes of a context: the physical address of one byte, its permissions apart (R270, R290). -/
def State.devPlace (s : State) (slot va : Nat) (need : Need) : Except XFail Nat :=
  match s.ctx? slot with
  | none => .error { cause := cPageFault, why := 1 }
  | some c => match s.translate c true need va with
    | .error f => .error f
    | .ok x => match x.place with
      | .phys a => .ok a
      | _ => .error { cause := cPermission, why := 0 }
def needNone : Need := { r := false, w := false, x := false }
/-- An access of the device reaches the homes of its bytes from a core, or from a unit of a link die (R14, R17, R167). -/
def State.devGoes (s : State) (core a n : Nat) : State := (s.requestAll core (.phys a) n).recallFor core (.phys a) n
/-- Bytes written by the device from a link die, page by page. -/
def State.devWrite (s : State) (slot va : Nat) (bs : List Byte) : State :=
  (unitsOf 65536 va bs.length).foldl (fun s u =>
    let lo := max va (65536 * u)
    let hi := min (va + bs.length) (65536 * u + 65536)
    match s.devPlace slot lo needNone with
    | .ok a => ((s.devGoes (linkUnit 0) a (hi - lo)).physWrite a ((bs.drop (lo - va)).take (hi - lo))).fireIf (condAt a (hi - lo))
    | .error _ => s) s
/-- Bytes written into a save area by the device at a core, page by page, each as one run. -/
def State.saveWrite (s : State) (core slot va : Nat) (bs : List Byte) : State :=
  (unitsOf 65536 va bs.length).foldl (fun s u =>
    let lo := max va (65536 * u)
    let hi := min (va + bs.length) (65536 * u + 65536)
    match s.devPlace slot lo needNone with
    | .ok a =>
      let s1 := s.devGoes core a (hi - lo)
      { s1 with mem := s1.mem.splice 0 a ((bs.drop (lo - va)).take (hi - lo)), poison := clearPoison s1.poison a (hi - lo) }
    | .error _ => s) s
def State.devRead (s : State) (slot va n : Nat) : List Byte :=
  (unitsOf 65536 va n).flatMap fun u =>
    let lo := max va (65536 * u)
    let hi := min (va + n) (65536 * u + 65536)
    match s.devPlace slot lo needNone with
    | .ok a => s.physRead a (hi - lo)
    | .error _ => List.replicate (hi - lo) 0
/-- The launch record and arguments of a group (R290). -/
def constBytes (k : Kernel) (index retry : Nat) : List Byte :=
  let l := k.lpb
  let w := fun (x : Nat) => leBytes 4 x
  w (index % l.gx) ++ w (index / l.gx % l.gy) ++ w (index / (l.gx * l.gy)) ++ w l.gx ++ w l.gy ++ w l.gz ++ w retry ++ w 0
    ++ leBytes 8 k.id ++ List.replicate 24 0 ++ k.args

/-! ### Placement (R88, R261, R262) -/

/-- A group as its kernel queues it. -/
def Group.queued (gid kid ctx index retry : Nat) : Group :=
  { gid, kid, ctx, index, state := .queued, lcore := 0, retry, k := Scratch.zero, q := Scratch.zero, d := Scratch.zero,
    held := [], tl := [], tiles := [], tileIa := [], tileTint := [], wbuf := [], placement := 0, latch := none,
    saveAddr := none, constAddr := none, residentSince := 0, blockedSince := none, cause := .none, parkAsked := none, migrateAsked := false,
    wakes := [], awake := false, images := [], savedGuards := [], savedBinds := [], imageLost := false, hasImage := false,
    dBase := 0, killCause := none }
/-- The allocations of a placement: zero and unguarded, tiles fa48 +0, the weight region undefined (R179, R183, R262). -/
def Group.fresh (g : Group) (n : Nat) : Group :=
  { g with k := Scratch.zero, q := Scratch.zero, d := Scratch.zero, tiles := [], tileIa := [], tileTint := [], wbuf := [],
           placement := n }
/-- The next group of a kernel: the queued one of the lowest index, or the first that has not been made. -/
def State.nextGroup (s : State) (k : Kernel) : Option (Sum Group Nat) :=
  let qs := s.groups.filter fun g => g.kid == k.kid && g.state == .queued
  let low := qs.foldl (fun a g => match a with
    | some b => if g.index < b.index then some g else a
    | none => some g) (none : Option Group)
  match low with
  | some g => some (.inl g)
  | none => if k.made < k.total then some (.inr k.made) else none
/-- The kernels in the placer's order: by priority, then by launch. -/
def insertKernel (k : Kernel) : List Kernel → List Kernel
  | [] => [k]
  | x :: l => if x.prio < k.prio ∨ (x.prio = k.prio ∧ k.kid < x.kid) then k :: x :: l else x :: insertKernel k l
def State.placeOrder (s : State) : List Kernel := (s.kernels.filter fun k => k.state == .running).foldr insertKernel []
/-- The lowest free place of a .d allocation on a die. -/
def State.dPlace (s : State) (p n : Nat) : Nat :=
  let us := s.groups.filterMap fun g => match s.kernel? g.kid with
    | some k => if g.state.holds && pcoreDie (s.pcore g.lcore) == pcoreDie p && k.lpb.d != 0 then some (g.dBase, k.lpb.d) else none
    | none => none
  (poolPlace 0 (s.split (pcoreDie p)) us n 0).getD 0
/-- A group placed on a logical core: its areas, its allocations, and its teams as R88 creates them, or the Restoring state. -/
def State.placeOn (s : State) (k : Kernel) (g : Group) (l save const : Nat) : State :=
  let g1 : Group := { g.fresh s.nextKey with
    lcore := l, saveAddr := some save, constAddr := some const, residentSince := s.clk, blockedSince := none,
    parkAsked := none, migrateAsked := false, cause := .none,
    wakes := [], awake := false, dBase := s.dPlace (s.pcore l) k.lpb.d,
    state := if g.hasImage then .restoring else .resident }
  let s1 := s.bump.modGroup g.gid fun _ => g1
  if g.hasImage then s1
  else
    let s2 := s1.devWrite g.ctx const (constBytes k g.index g.retry)
    let ts := (List.range k.lpb.teams).map fun i =>
      let t := Team.create { gid := g.gid, idx := i } k.lpb.lanes k.lpb.regs k.lpb.accs k.lpb.teams k.lpb.ftz k.prio
        (BitVec.ofNat 64 k.lpb.code) (BitVec.ofNat 64 const)
      { t with state := .pending }
    { s2 with others := s2.others ++ ts }
/-- One kernel's next group is placed where it fits, if its areas can be had. -/
def State.placeNext (s : State) (c : Choice) (k : Kernel) : Option State :=
  match s.nextGroup k, s.bestCore k.lpb, s.ctx? k.ctx with
  | some n, some l, some x =>
    let g := match n with
      | .inl g => g
      | .inr i => Group.queued s.nextKey k.kid k.ctx i 0
    let save := match g.saveAddr with
      | some a => some a
      | none => poolPlace x.save x.saveSize (s.areas k.ctx Group.saveAddr Lpb.saveSize) k.lpb.saveSize c.save
    let const := match g.constAddr with
      | some a => some a
      | none => poolPlace x.const x.constSize (s.areas k.ctx Group.constAddr Lpb.constSize) k.lpb.constSize c.const
    match save, const with
    | some a, some b =>
      let s1 : State := match n with
        | .inl _ => s
        | .inr _ => { s.bump.modKernel k.kid fun k => { k with made := k.made + 1 } with groups := s.groups ++ [g] }
      some (s1.placeOn k g l a b)
    | _, _ => none
  | _, _, _ => none
/-- GROUP_PLACEMENT (R261): the first kernel in order whose next group fits. -/
def execGroupPlacement (c : Choice) (s : State) : Host.Outcome State Fault Refusal :=
  .next (if s.stage < 7 then s else (s.placeOrder.findSome? fun k => s.placeNext c k).getD s)

/-! ### Entering Saving (R260, R266-R269) -/

def Team.live (t : Team) : Bool := t.state != .retired
/-- The wake conditions that the teams of a group give at a park: the phases that Blocked teams wait for, or with none Blocked the redirected values (R268). -/
def State.wakesOf (s : State) (gid : Nat) : List Wake :=
  let ts := s.teamsOf gid
  let objs := ts.filterMap fun t => match t.wait with
    | some w => if t.state = .blocked then some (Wake.object w.obj w.phase) else none
    | none => none
  if objs.isEmpty && ts.any s.heldLong then [.values] else objs
/-- The trap of a park or a migration is raised in a team: it waits for a clause boundary, and a BWAIT is abandoned at once (R89, R260). -/
def Team.raisePark (t : Team) (trap : Nat) : Team :=
  if t.live = true ∧ t.state ≠ .exiting ∧ t.faultPark = none then
    { t with parkDue := some trap,
             state := if t.state = .blocked then .active else t.state, inSet := t.inSet && t.state != .blocked }
  else t
/-- A request that an abandoned BWAIT left at the home of a Plain object. -/
def HeldReq.isWait (r : HeldReq) : Bool := r.team.isSome && match r.op with
  | .wait _ => true
  | _ => false
/-- A group enters Saving: its rendezvous is cancelled, the trap is raised in every live team that is not in Exiting, and the objects that no team or group waits on any more have no waiter (R194, R206, R260). -/
def State.startSaving (s : State) (gid : Nat) (c : SaveCause) (trap : Nat) (wakes : List Wake) : State :=
  let s1 := s.failGang gid cGangCancelled []
  ((s1.modGroup gid fun g =>
    { g with state := .saving, cause := c, wakes, awake := false, parkAsked := none, migrateAsked := false,
             blockedSince := none, held := g.held.filter fun r => !r.isWait }).mapTeams fun t =>
    if t.id.gid = gid then t.raisePark trap else t).leaveObjs (s.waitedOn gid)
/-- A group is at a blocking point (R266). -/
def State.blockingPoint (s : State) (gid : Nat) : Bool :=
  let ts := (s.teamsOf gid).filter Team.live
  let held := fun t : Team => t.state == .blocked || s.heldLong t
  (ts.all fun t => held t || t.state == .exiting) && ts.any held
/-- Since when each resident group has stood at a blocking point, as each cycle ends (R266). -/
def State.noteBlocking (s : State) : State :=
  { s with groups := s.groups.map fun g =>
      if g.state = .resident then
        { g with blockedSince := if s.blockingPoint g.gid then some (g.blockedSince.getD s.clk) else none }
      else g }
/-- Parking a group would let a queued group of equal or higher priority be placed that fits no core now, or its core is to be tested (R266, R392). -/
def State.placerWants (s : State) (g : Group) : Bool :=
  s.suspect (s.pcore g.lcore) ||
  let prio := ((s.kernel? g.kid).map Kernel.prio).getD 0
  let less := (s.modGroup g.gid fun g => { g with state := .parked }).mapTeams fun t =>
    if t.id.gid = g.gid then { t with state := .saved } else t
  s.placeOrder.any fun k => decide (prio ≤ k.prio) && (s.nextGroup k).isSome && (s.bestCore k.lpb).isNone && (less.bestCore k.lpb).isSome
/-- The placer may park a group: no other that would serve has been at a blocking point longer (R266). -/
def State.placerPicks (s : State) (g : Group) : Bool :=
  s.placerWants g && s.groups.all fun h => h.state != .resident || !s.blockingPoint h.gid || !s.placerWants h
    || decide (g.blockedSince.getD s.clk ≤ h.blockedSince.getD s.clk)
/-- PARK_REQUEST: honoured at a blocking point (R266). -/
def execParkRequest (gid : Nat) (src : ParkSource) (s : State) : Host.Outcome State Fault Refusal :=
  .next (match s.group? gid with
  | none => s
  | some g =>
    if g.state ≠ .resident then s
    else
      let stands := match src with
        | .debugger => true
        | .slice => g.parkAsked == some .slice
        | .placer => s.placerPicks g
      if !stands then s
      else if !s.blockingPoint gid then (match src with
        | .placer => s
        | src => s.modGroup gid fun g => { g with parkAsked := some src })
      else
        let ws := s.wakesOf gid
        s.startSaving gid (if src = .slice then .slice else .park) cPark (if ws.isEmpty then [.now] else ws))
/-- The slice of a priority: 1 ms unless the firmware has set another (R266). -/
def State.slice (s : State) (prio : Nat) : Nat := s.slices.get 940000 prio
/-- TIME_SLICE_EXPIRY (R266). -/
def execTimeSliceExpiry (gid : Nat) (s : State) : Host.Outcome State Fault Refusal :=
  .next (match s.group? gid with
  | none => s
  | some g =>
    let prio := ((s.kernel? g.kid).map Kernel.prio).getD 0
    if g.state = .resident ∧ g.residentSince + s.slice prio ≤ s.clk then
      s.modGroup gid fun g => { g with parkAsked := some (g.parkAsked.getD .slice) }
    else s)

/-! ### Fault notices (R323, R324) -/

/-- A fault without a translation is handed to the fault service: one notice for a region, further faults add waiters; one that a completed MAP has overtaken is resolved already. -/
def State.postFault (s : State) (id : TeamId) (f : PageFault) : State :=
  match s.group? id.gid with
  | none => s
  | some g => match s.ctx? g.ctx with
    | none => s
    | some c =>
      let region := f.va / 65536
      let done := c.maps != f.maps
      let s1 := if done then s.modGroup g.gid fun g => { g with awake := true } else s
      if (s1.notices.any fun n => n.ctx == g.ctx && n.region == region && !n.resolved) && !done then
        { s1 with notices := s1.notices.map fun n =>
            if n.ctx = g.ctx ∧ n.region = region ∧ n.resolved = false then { n with waiters := n.waiters ++ [g.gid] } else n }
      else
        let n : Notice :=
          { key := s1.nextKey, nseq := none, ctx := g.ctx, id := c.id, region, acc := f.acc, why := f.why, va := f.va,
            kernel := ((s1.kernel? g.kid).map Kernel.id).getD 0, group := g.index, lcore := g.lcore, resolved := done,
            waiters := if done then [] else [g.gid] }
        { s1.bump with notices := s1.notices ++ [n] }
/-- Notices of a context are resolved: their waiters wake, and one that has been sent leaves its place (R324). -/
def State.resolve (s : State) (p : Notice → Bool) : State :=
  let hit := s.notices.filter fun n => p n && !n.resolved
  let ws := hit.flatMap Notice.waiters
  { s with
    groups := (s.groups.map fun g =>
      if ws.contains g.gid ∧ (g.state = .parked ∨ g.state = .saving ∨ g.state = .halted 1) then { g with awake := true } else g),
    notices := (s.notices.filter fun n => !(p n && n.nseq.isSome)).map fun n => if p n then { n with resolved := true } else n }
/-- PAGE_FAULT_PARK: the group of a team with a fault without translation enters Saving, and the fault is posted (R260, R322, R323). -/
def execPageFaultPark (gid : Nat) (s : State) : Host.Outcome State Fault Refusal :=
  .next (match s.group? gid, (s.teamsOf gid).find? fun t => match t.faultPark with
      | some f => !f.posted
      | none => false with
  | some g, some t => match t.faultPark with
    | none => s
    | some f =>
      let wake := Wake.page g.ctx (f.va / 65536)
      let mark := fun s : State => s.modTeam t.id fun t => { t with faultPark := some { f with posted := true }, parkDue := none }
      if g.state = .resident then
        ((mark (s.startSaving gid .page cPark [wake])).postFault t.id f)
      else if g.state = .saving then
        ((mark s).modGroup gid fun g => { g with wakes := g.wakes ++ [wake] }).postFault t.id f
      else s
  | _, _ => s)

/-! ### The park trap (R205, R267) -/

/-- Copies of a group into its own allocations are still to complete. -/
def State.enginesDue (s : State) (gid : Nat) : Bool :=
  let own := fun (p : Place) => match p with
    | .scratch g _ _ => g == gid
    | _ => false
  s.engs.any fun e => e.team.gid == gid && e.kind != .xsend && ((e.dst.any fun r => own r.1) || e.units.any fun u => own u.dst)
/-- A load with a limit expires at once, as R141 states: one that no lane holds back writes its destination or leaves its fault. -/
def State.expireNow (s : State) (k : Nat) : State :=
  let s1 := s.expire k
  match s1.load? k with
  | none => s1
  | some ld =>
    if !ld.ready then s1
    else match ld.badTrap with
      | none => s1.writeLoad ld
      | some tr => if tr.cause = cPoisoned then s1.poisonFault ld tr .restored else s1.deferFault ld tr .restored
/-- Step 2 of R267 for a team: limited loads expire, every record is released, though the late answers still train (R141, R142, R146), and the results that are still due are redirected, those of lanes that had no record free among them. -/
def State.parkLoads (s : State) (id : TeamId) : State :=
  let limited := fun ld : Load => ld.team == id && !ld.written && ld.kind == .load && ld.limit != 0
  let s1 := ((s.loads.filter limited).map Load.key).foldl State.expireNow s
  let f := fun ld : Load =>
    if ld.team ≠ id ∨ ld.kind = .mat ∨ ld.kind = .pref then ld
    else if ld.written then ld.drop
    else { ld with redirected := true, limit := 0, lanes := ld.lanes.map fun l => l.free ld.regs }
  State.pruneLoads { s1 with
    loads := s1.loads.map f
    combs := s1.combs.map fun c => if c.team = id then { c with redirected := true } else c }
/-- The slot image of a team, with the point at which it resumes (R270, R282). -/
def Team.image (t : Team) : SlotImage :=
  let at_ := match t.wait, t.faultPark with
    | some w, _ => (w.hdr, w.idx)
    | none, some _ => resumePoint t.fr
    | none, none => (t.pc, t.start)
  { s := t.s, p := t.p, q := t.q, mask := t.mask, ctl := t.ctl, stack := t.stack, gang := t.gang, sys := t.sys, fr := t.fr,
    shadow := if t.mode = .user ∧ t.faultPark = none then t.fr else t.shadow, mode := t.mode, pc := at_.1, start := at_.2 }
/-- The team in its system handler, as step 3 and step 4 of R267 leave it. A Blocked team becomes Active (R89), with a position in the set if one is free, else as soon as one is (DESIGN CHOICE, log 73). -/
def Team.parked (t : Team) (save handler : Nat) (room : Bool) : Team :=
  let i := t.image
  let idx := match t.wait with
    | some w => w.idx
    | none => if t.start = 0 then 31 else t.start
  let pc := match t.wait with
    | some w => w.hdr + BitVec.ofNat 64 (8 * (w.idx + 1))
    | none => if t.start = 0 then t.pc else t.pc + BitVec.ofNat 64 (8 * (t.start + 1))
  let fr := match t.faultPark with
    | some _ => { t.fr with addr := BitVec.ofNat 64 save }
    | none => t.fr.write (Trap.of (t.parkDue.getD cPark) save) t.mode.hm idx pc
  let woken := t.wait.isSome
  { t with
    s := untintS t.s, p := untintP t.p, q := untintP t.q, stack := [], ctl := 0,
    mask := BitVec.ofNat 1024 (2 ^ t.lanes - 1), shadow := i.shadow, fr, mode := .system, pc := BitVec.ofNat 64 handler,
    start := 0, clause := none, parkDue := none, faultPark := none, wait := none,
    state := if woken then .active else t.state, inSet := if woken then room else t.inSet }
/-- The trap is due and can be taken: at a clause boundary, or at once in a team that was Blocked. -/
def Team.trapDue (t : Team) : Bool :=
  (t.parkDue.isSome && ((t.clause.isNone && t.start == 0 && (t.state == .active || t.state == .pending)) || t.wait.isSome))
    || match t.faultPark with
      | some f => f.posted
      | none => false
/-- A matrix instruction of the team that sets flags of $nstat is still queued: its flags belong to the image (R40; DEDUCED, log 101). -/
def State.matFlags (s : State) (id : TeamId) : Bool :=
  s.mats.any fun j => match j.kind with
    | .rda .. | .trn .. => j.team == id
    | .mma _ _ _ _ ps => ps.any fun p => p.team == id
    | _ => false
/-- Bytes filled up to a length. -/
def padTo (n : Nat) (bs : List Byte) : List Byte := bs ++ List.replicate (n - bs.length) 0
/-- The bits of a register file, by key from `lo` on, as a number. -/
def cellBits {α : Type} (f : α → Bool) (lo : Nat) (m : SMap α) : Nat :=
  m.foldl (fun a p => if f p.2 && decide (lo ≤ p.1) then a ||| 2 ^ (p.1 - lo) else a) 0
/-- The bytes of a slot image in the regions of R270; their layout within a region is the model's own (DESIGN CHOICE, log 100). -/
def SlotImage.bytes (i : SlotImage) : List Byte :=
  let w := fun (x : Word) => leBytes 8 x.toNat
  let regs := fun (r : FaultRegs) => w r.cause ++ w r.fpc ++ w r.addr ++ w r.lanes ++ w r.opnd ++ w r.gorigin
  let entry := fun (e : StackEntry) => padTo 128 (w e.target ++ leBytes 4 e.summary.toNat) ++ leBytes 128 e.mask.toNat ++ leBytes 128 e.ctl.toNat
  ((List.range 64).flatMap fun r => w (i.s.get SCell.zero r).val)
    ++ padTo 0x10 (leBytes 8 (cellBits SCell.tint 0 i.s) ++ leBytes 1 (cellBits PCell.val 0 i.q) ++ leBytes 1 (cellBits PCell.tint 0 i.q))
    ++ padTo 0x1F0 (leBytes 8 i.gang.toNat ++ leBytes 8 i.sys.nstat.toNat ++ leBytes 8 i.sys.mflags.toNat ++ leBytes 8 i.sys.gdrop.toNat
      ++ leBytes 8 (b2n i.sys.gdrill) ++ w i.sys.tvec ++ regs i.fr ++ regs i.shadow ++ leBytes 8 i.mode.hm ++ w i.pc ++ leBytes 8 i.start)
    ++ padTo 0x100 (leBytes 128 i.mask.toNat ++ leBytes 4 (summaryOf i.mask).toNat)
    ++ leBytes 896 (cellBits PCell.val 1024 i.p) ++ leBytes 896 (cellBits PCell.tint 1024 i.p)
    ++ padTo 0x400 (leBytes 128 i.ctl.toNat) ++ padTo 0x3000 (i.stack.flatMap entry)
/-- A team's slot image is written into the save area (R267, R270). -/
def State.putImage (s : State) (g : Group) (idx : Nat) (i : SlotImage) : State :=
  let s1 := s.modGroup g.gid fun g => { g with images := (idx, i) :: g.images.filter fun x => x.1 != idx }
  match g.saveAddr with
  | some a => s1.saveWrite (s1.pcore g.lcore) g.ctx (a + 0x8000 + 0x4000 * idx) i.bytes
  | none => s1
/-- A team takes its trap: an open rendezvous is cancelled, its loads are settled, its image is written and its handler entered (R194, R267). -/
def State.parkTeam (s : State) (g : Group) (id : TeamId) (save handler : Nat) : State :=
  let s1 := (s.failGang g.gid cGangCancelled []).parkLoads id
  match s1.team? id with
  | none => s1
  | some t =>
    let room := decide ((s1.teams.filter fun u => s1.onCore (s1.pcore g.lcore) u && u.inSet).length < 8)
    (s1.putImage g id.idx t.image).modTeam id fun t => t.parked save handler room
/-- The first page of the device's own parts of a group's save area that fails an access of the device, or that a read meets poisoned (R270, R275). -/
def State.saveFail (s : State) (g : Group) (need : Need) : Option (XFail × Nat) :=
  (s.saveArea g).bind fun a =>
    let parts := (a.base, a.region - a.base) :: (if a.d = 0 then [] else [(a.dmap, a.rest - a.dmap)])
    parts.findSome? fun r => (unitsOf 65536 r.1 r.2).findSome? fun u =>
      let lo := max r.1 (65536 * u)
      let hi := min (r.1 + r.2) (65536 * u + 65536)
      match s.devPlace g.ctx lo need with
      | .error f => some (f, lo)
      | .ok p => if need.r && s.poisoned p (hi - lo) then some ({ cause := cPoisoned, why := 0 }, lo) else none
/-! ### The end of Saving, and what wakes a group (R260, R267, R268) -/

def spNum : Space → Nat
  | .k => 0 | .q => 1 | .d => 2 | .g => 3
/-- The guard marks of a group's objects, by space and unit. -/
def Group.guardList (g : Group) : List (Nat × Nat) :=
  let of := fun (i : Nat) (x : Scratch) => x.guard.map fun p => (i, p.1)
  of 0 g.k ++ of 1 g.q ++ of 2 g.d
def ownObj (gid : Nat) (o : ObjLoc) : Bool := match o with
  | .scratch g _ _ => g == gid
  | _ => false
/-- A binding of an object of a group, as the device records it in 32 bytes (R270). -/
def Binding.bytes (b : Binding) : List Byte :=
  let off := match b.obj with
    | .scratch _ sp off => 4 * off + spNum sp
    | _ => 0
  let c := match b.cond with
    | .engine _ e v => (0, e, v)
    | .memTl a v => (1, a, v)
    | .chunk _ m f l => (2, m, 128 * l + f)
    | .watch a x => (3, a, x)
    | .peer r a => (4, a, r)
  leBytes 8 off ++ leBytes 2 b.bid ++ leBytes 1 (b2n b.satisfied) ++ leBytes 5 c.1 ++ leBytes 8 c.2.1 ++ leBytes 8 c.2.2
/-- The bindings of a group's objects in a list of spaces, in ascending object offset. -/
def insertBind (b : Binding) : List Binding → List Binding
  | [] => [b]
  | x :: l => (match b.obj, x.obj with
    | .scratch _ sp o, .scratch _ sq q => if spNum sp < spNum sq ∨ (sp = sq ∧ o < q) then b :: x :: l else x :: insertBind b l
    | _, _ => x :: insertBind b l)
def State.bindsIn (s : State) (gid : Nat) (d : Bool) : List Binding :=
  (s.binds.filter fun b => match b.obj with
    | .scratch g sp _ => g == gid && (sp == .d) == d
    | _ => false).foldr insertBind []
/-- A guard bitmap: bit u mod 8 of byte u div 8 (R270). -/
def guardBytes (n : Nat) (m : SMap Bool) : List Byte := leBytes n (cellBits id 0 m)
/-- The bytes of a group record; their layout within its first two parts is the model's own (DESIGN CHOICE, log 100). -/
def State.recordBytes (s : State) (g : Group) : List Byte :=
  let wake := match g.cause with
    | .none => 0 | .park => 1 | .slice => 2 | .migrate => 3 | .page => 4
  padTo 0x200 (leBytes 8 (((s.kernel? g.kid).map Kernel.id).getD 0) ++ leBytes 8 g.index ++ leBytes 8 g.retry ++ leBytes 8 wake
      ++ (List.range 22).flatMap fun e => leBytes 8 (g.tline e).value)
    ++ padTo 0xE00 (((s.bindsIn g.gid false).take 96).flatMap Binding.bytes)
    ++ guardBytes 0x1000 g.k.guard ++ padTo 0x6000 (guardBytes 0x4000 g.q.guard)
/-- The device writes the group record, and the guard bitmap and binding records of .d (R267, R270). -/
def State.putGroupRecord (s : State) (g : Group) (a : SaveArea) : State :=
  let core := s.pcore g.lcore
  let s1 := s.saveWrite core g.ctx a.base (s.recordBytes g)
  if a.d = 0 then s1
  else s1.saveWrite core g.ctx a.dmap
    (padTo (a.rest - a.dmap) (padTo (alignUp 256 (a.d / 128)) (guardBytes (a.d / 128) g.d.guard) ++ (s.bindsIn g.gid true).flatMap Binding.bytes))
/-- A store of the group's teams into its save area is still to be performed: the area does not hold it yet (R410; DEDUCED, log 100). -/
def State.savesDue (s : State) (g : Group) (a : SaveArea) : Bool :=
  let k := (s.kernel? g.kid).map Kernel.lpb
  let n := (k.map Lpb.saveSize).getD 0
  s.posts.any fun q => q.team.gid == g.gid && q.writes.any fun w => !w.done && decide (w.va < a.base + n) && decide (a.base < w.va + w.data.length)
/-- Every live team has executed PARK, which is so of none, every redirected value is written and every store into the save area performed: the group record is written, and the group is Parked, or Moving after a migrate trap. -/
def State.trySaved (s : State) (gid : Nat) : State :=
  match s.group? gid with
  | none => s
  | some g =>
    let ts := s.teamsOf gid
    let due := (s.loads.any fun ld => ld.team.gid == gid && ld.redirected) || s.combs.any fun c => c.team.gid == gid && c.redirected
    let area := s.saveArea g
    let storing := (area.map (s.savesDue g)).getD false
    if g.state = .saving ∧ (ts.all fun t => t.state == .saved || t.state == .retired) = true ∧ due = false ∧ storing = false then
      match s.saveFail g needW with
      | some (f, va) => s.killSave gid f va
      | none =>
        let binds := (s.binds.filter fun b => ownObj gid b.obj).map Binding.key
        ((area.map (s.putGroupRecord g)).getD s).modGroup gid fun g =>
          { (g.fresh g.placement) with
            state := if g.cause = .migrate then .moving else .parked, hasImage := true, savedGuards := g.guardList,
            savedBinds := binds, migrateAsked := false, cause := if g.cause = .migrate then .migrate else .none }
    else s
/-- PARK_TRAP: every team whose trap is due takes it, once its queued matrix instructions have set their flags (R267, log 101); and a group whose teams have all saved leaves Saving as soon as its stores are performed. -/
def execParkTrap (gid : Nat) (s : State) : Host.Outcome State Fault Refusal :=
  .next (match s.group? gid with
  | none => s
  | some g =>
    if g.state ≠ .saving then s
    else if g.cause ≠ .migrate ∧ s.enginesDue gid = true then s
    else match g.saveAddr, s.ctx? g.ctx with
      | some a, some c =>
        let due := (s.teamsOf gid).filter fun t => t.trapDue && !s.matFlags t.id
        (match s.saveFail g needW with
        | some (f, va) => if due.isEmpty then s.trySaved gid else s.killSave gid f va
        | none => (due.foldl (fun s t => s.parkTeam g t.id a c.handler) s).trySaved gid)
      | _, _ => s)

/-- A wake condition holds now (R268). -/
def State.wakeHolds (s : State) (gid : Nat) (w : Wake) : Bool :=
  match w with
  | .object (.phys a) p => match s.bar? (.phys a) with
    | none => true
    | some b => b.fl || b.gen != p
  | .object (.scratch g sp off) _ => match s.bindOf (.scratch g sp off) with
    | some b => b.satisfied
    | none => false
  | .values => !(s.loads.any fun ld => ld.team.gid == gid && ld.redirected) && !s.combs.any fun c => c.team.gid == gid && c.redirected
  | .object (.peer _ _) _ => false
  | .page _ _ => false
  | .now => true
/-- WAKE_CONDITION (R260, R268). -/
def execWakeCondition (gid : Nat) (s : State) : Host.Outcome State Fault Refusal :=
  .next (match s.group? gid with
  | none => s
  | some g =>
    if g.state = .parked ∧ (g.awake || g.wakes.any fun w => s.wakeHolds gid w) = true then
      (s.modGroup gid fun g => { g with state := .queued, wakes := [], awake := false }).leaveObjs (s.waitedOn gid)
    else s)
/-- The slots of a register in the register region of a save area (R270). -/
def State.saveSlot (s : State) (g : Group) (t : Team) (r L : Nat) : Option (Nat × Nat) :=
  (s.saveArea g).map fun a =>
    let w := t.id.idx * t.lanes * t.regs + r * t.lanes + L
    (a.region + 4 * w, a.map + w / 8 + 2 ^ 60 * (w % 8))
/-- The byte of the tint map that the device reads and writes for a redirected value. -/
def State.mapByte (s : State) (ctx va : Nat) : Except XFail Byte :=
  match s.devPlace ctx va needRW with
  | .error f => .error f
  | .ok a => if s.poisoned a 1 then .error { cause := cPoisoned, why := 0 } else .ok (s.byte a)
/-- A redirected value written, untinted, at its register's slot of a group that is still saving; a failure kills the group (R267, R275). -/
def State.putSaved (s : State) (g : Group) (t : Team) (r L x : Nat) : State :=
  if ((s.group? g.gid).map Group.state) != some .saving then s
  else match s.saveSlot g t r L with
  | none => s
  | some (va, mb) =>
    let m := mb % 2 ^ 60
    let b := mb / 2 ^ 60
    match s.devPlace g.ctx va needW, s.mapByte g.ctx m with
    | .error f, _ => s.killSave g.gid f va
    | _, .error f => s.killSave g.gid f m
    | .ok _, .ok old => (s.devWrite g.ctx va (leBytes 4 x)).devWrite g.ctx m [old &&& BitVec.ofNat 8 (255 - 2 ^ b)]
/-- Where a team restored from its image takes a fault that waited. -/
def SlotImage.standAddr (i : SlotImage) : Word := if i.start = 0 then i.pc else i.pc + BitVec.ofNat 64 (8 * (i.start + 1))
/-- A lane's registers of a redirected load: the exact value or the guess of its expiry, or what a GDEM has resolved (R141, R169, R267). -/
def LoadLane.saves (l : LoadLane) (regs : Nat) : List (Nat × Nat) :=
  match l.gd with
  | some g => g.got
  | none =>
    let x := if l.st = .exact then l.value else l.guess
    (List.range regs).map fun i => (i, regOf x i)
/-- REDIRECTED_VALUE_WRITE: a load's or a COMB's values go to the save area after PARK, while the group is still saving (R260, R267). -/
def execRedirectedValueWrite (k : Nat) (s : State) : Host.Outcome State Fault Refusal :=
  let go := fun (id : TeamId) (f : Group → Team → State) => match s.group? id.gid, s.team? id with
    | some g, some t => if t.state = .saved ∧ g.state = .saving then (f g t).trySaved id.gid else s
    | _, _ => s
  .next (match s.load? k, s.combs.find? fun c => c.key == k with
  | some ld, _ =>
    if !ld.redirected || ld.lanes.any fun l => l.st == .waiting then s
    else go ld.team fun g t =>
      let s1 := ((ld.lanes.map (s.settled ld)).filter fun l => l.st != .exact || l.bad.isNone).foldl (fun s l =>
        (l.saves ld.regs).foldl (fun s r => s.putSaved g t (ld.d + r.1) l.lane r.2) s) s
      let s2 := match ld.badTrap with
        | none => s1
        | some tr =>
          let d : Deferred := { trap := tr, at_ := .restored }
          let pc := ((g.images.find? fun (i : Nat × SlotImage) => i.1 == t.id.idx).map fun (i : Nat × SlotImage) => (pcBits i.2.standAddr).toNat).getD 0
          let s2 := s1.modTeam t.id fun t => { t with deferred := t.deferred ++ [d] }
          if tr.cause = cPoisoned then s2.post { Report.from_ ld.hdr ld.ctx 0x03 cPoisoned tr.addr with
            pc, lanes := tr.lanes, opnd := tr.opnd } else s2
      State.pruneLoads (s2.modLoad k fun ld => { ld.drop with redirected := false })
  | none, some c =>
    if !c.redirected || !(c.lanes.all fun L => c.replies.any fun p => p.1 == L) then s
    else go c.team fun g t =>
      let s1 := c.lanes.foldl (fun s L =>
        let r := c.replies.get (0, false) L
        (s.putSaved g t c.d L (r.1.toNat % 2 ^ 32)).putSaved g t (c.d + 1) L (r.1.toNat / 2 ^ 32)) s
      let set := fun (i : SlotImage) => if c.status = 0 then i else { i with p := c.lanes.foldl (fun p L =>
        SMap.set PCell.zero p (1024 * c.status + L) { val := (c.replies.get (0, false) L).2, tint := false }) i.p }
      let s2 := (g.images.filter fun i => i.1 == t.id.idx).foldl (fun s i => s.putImage g t.id.idx (set i.2)) s1
      ({ s2 with combs := s2.combs.filter fun x => x.key != k }).tlFinish t.id.gid 20 c.num
  | none, none => s)

/-! ### Migration (R269) -/

def State.groupsOf (s : State) (l : Nat) : List Group :=
  s.groups.filter fun g => g.lcore == l && (g.state.holds || g.state == .moving)
/-- The logical core that a physical core carries. -/
def State.lcoreAt (s : State) (p : Nat) : Option Nat := (List.range 1152).find? fun l => s.pcore l == p
/-- A physical core is idle, in service and not reserved. -/
def State.idleCore (s : State) (p : Nat) : Bool :=
  match s.lcoreAt p with
  | some l => s.inService l && (s.groupsOf l).isEmpty && s.reserved.all fun r => r.2 != p && r.1 != l
  | none => false
/-- A migration of a logical core to a physical one: refused as a whole, or begun (R269). A group that is restored, or halted while Resident, takes its trap when it is Resident again (R277). -/
def State.migrateTo (s : State) (l target : Nat) : Option State :=
  let gs := s.groupsOf l
  let mig := fun g : Group => match s.kernel? g.kid with
    | some k => k.lpb.mig
    | none => false
  if !gs.all mig || !s.idleCore target || s.reserved.any fun r => r.1 == l then none
  else
    let s1 : State := { s with reserved := s.reserved ++ [(l, target)] }
    some (gs.foldl (fun s g => if g.state = .resident then s.startSaving g.gid .migrate cMigrate []
      else if g.state = .restoring ∨ g.state = .halted 0 then s.modGroup g.gid fun g => { g with migrateAsked := true }
      else s) s1)
/-- A migration is requested: a refusal is reported to the management processor (R269). -/
def State.requestMigration (s : State) (l target : Nat) : State :=
  let refused : State := { s with refusals := s.refusals ++ [(l, target)] }
  (s.migrateTo l target).getD refused
/-- MIGRATION_REQUEST (R269). -/
def execMigrationRequest (l target : Nat) (s : State) : Host.Outcome State Fault Refusal := .next (s.requestMigration l target)
/-- CORE_MAP_REWRITE: every group of the core is Moving; the physical cores of two logical numbers change places, and the groups are placed (R269). -/
def execCoreMapRewrite (l : Nat) (s : State) : Host.Outcome State Fault Refusal :=
  .next (match s.reserved.find? fun r => r.1 == l with
  | none => s
  | some r => match s.lcoreAt r.2 with
    | none => s
    | some m =>
      let gs := s.groupsOf l
      if !(gs.all fun g => g.state == .moving) then s
      else
        let p := s.pcore l
        let here := fun g : Group => g.lcore == l && g.state == .moving
        let map := (s.coreMap.set none l (if r.2 = l then none else some r.2)).set none m (if p = m then none else some p)
        let s1 : State := { s with coreMap := map, reserved := s.reserved.filter fun x => x.1 != l }
        let put := fun (s : State) (g : Group) => s.modGroup g.gid fun g =>
          { g.fresh s1.nextKey with state := .restoring, residentSince := s1.clk, dBase := s.dPlace r.2 (s.spaceSize g .d) }
        { ((gs.filter here).foldl put s1) with
          nextKey := s1.nextKey + 1,
          landing := s1.landing.map fun b => match b.place with
            | .scratch g _ _ => if (gs.any fun x => x.gid == g) = true then { b with core := r.2 } else b
            | _ => b })

/-! ### Restore (R272) -/

/-- Registers of a team whose group is placed again, until its handler loads them. -/
def Team.unknown (t : Team) (n : Nat) : Team :=
  let x := fun (i : Nat) => Config.restoredRegister (n * 2 ^ 20 + i)
  { t with
    v := (List.range t.regs).foldl (fun m r => (List.range t.lanes).foldl (fun m L =>
      SMap.set VCell.zero m (1024 * r + L) { val := (x (1024 * r + L)).setWidth 32, tint := false }) m) [],
    s := (List.range 64).foldl (fun m i => SMap.set SCell.zero m i { val := x (2 ^ 18 + i), tint := false }) [],
    p := (List.range 7).foldl (fun m j => (List.range t.lanes).foldl (fun m L =>
      SMap.set PCell.zero m (1024 * (j + 1) + L) { val := (x (2 ^ 18 + 2 ^ 17 + 1024 * j + L)).getLsbD 0, tint := false }) m) [],
    q := (List.range 4).foldl (fun m i => SMap.set PCell.zero m i { val := (x (2 ^ 18 + 64 + i)).getLsbD 0, tint := false }) [] }
/-- Every live team starts at the system handler with cause restore and every mask word set (R272). -/
def State.restoreStart (s : State) (gid : Nat) : State :=
  match s.group? gid with
  | none => s
  | some g => match g.state, s.ctx? g.ctx, g.saveAddr with
    | .restoring, some c, some a =>
      s.mapTeams fun t =>
        if t.id.gid = gid ∧ t.state = .saved then
          { t.unknown (16 * g.placement + t.id.idx) with
            state := .pending, mode := .system, pc := BitVec.ofNat 64 c.handler, start := 0, clause := none, restored := false,
            issuedAt := 0, mask := BitVec.ofNat 1024 (2 ^ t.lanes - 1), ctl := 0, stack := [], age := 0, readyAt := none,
            fr := t.fr.write (Trap.of cRestore a) 0 31 0 }
        else t
    | _, _, _ => s
/-- A team as its slot image has it; an image of the user handler takes the shadow set back (R272, R282). -/
def Team.reload (t : Team) (i : SlotImage) : Team :=
  { t with
    s := i.s, p := i.p, q := i.q, mask := i.mask, ctl := i.ctl, stack := i.stack, gang := i.gang, sys := i.sys,
    fr := if i.mode = .user then i.shadow else i.fr, shadow := i.shadow, mode := i.mode, pc := i.pc, start := i.start,
    clause := none, restored := false }
/-- The step that ends a restore: images, guards, bindings, held copy bytes and barrier signals, and the teams' points (R269, R272). -/
def State.finishRestore (s : State) (g : Group) : State :=
  let s1 := s.mapTeams fun t => if t.id.gid = g.gid then
      (match g.images.find? fun i => i.1 == t.id.idx with
      | some i => t.reload i.2
      | none => { t with restored := false })
    else t
  let s2 := g.savedGuards.foldl (fun s u =>
    s.setGuard (.scratch g.gid (if u.1 = 0 then .k else if u.1 = 1 then .q else .d) (16 * u.2)) true) s1
  let s3 : State := { s2 with binds := s2.binds.map fun b : Binding =>
                        if g.savedBinds.contains b.key then { b with satisfied := b.satisfied || s2.condHolds b.cond } else b }
  let s4 := s3.modGroup g.gid fun g =>
    { g with state := .resident, residentSince := s3.clk, cause := .none, hasImage := false, images := [], savedGuards := [],
             savedBinds := [] }
  let s5 := (s4.binds.filter fun b => g.savedBinds.contains b.key && b.satisfied).foldl (fun s b => s.satisfy b.key b.obj) s4
  let own := g.savedGuards.map fun u => ObjLoc.scratch g.gid (if u.1 = 0 then .k else if u.1 = 1 then .q else .d) (16 * u.2)
  (g.held.map fun r => (r.sp, r.off)).eraseDups.foldl (fun s o =>
    if (s.bar? (.scratch g.gid o.1 o.2)).isSome then s.applyHeld g.gid o.1 o.2 else s) ((s5.leaveObjs own).deliver g.gid)
/-- Every live team waits at its RTE. -/
def State.allRestored (s : State) (gid : Nat) : Bool := (s.teamsOf gid).all fun t => t.restored || t.state == .retired
/-- A restore ends once every live team waits; a request to migrate that came meanwhile is raised then (R269, R272). -/
def State.tryRestored (s : State) (gid : Nat) : Except Fault State :=
  match s.group? gid with
  | none => .ok s
  | some g =>
    if g.state ≠ .restoring ∨ s.allRestored gid = false then .ok s
    else if g.imageLost then .error .restoreUndefined
    else match s.saveFail g needR with
    | some (f, va) => .ok (s.killSave gid f va)
    | none =>
      let s1 := s.finishRestore g
      .ok (if g.migrateAsked then s1.startSaving gid .migrate cMigrate [] else s1)

/-- RESTORE_START (R272): a group without a live team is restored at once. -/
def execRestoreStart (gid : Nat) (s : State) : Host.Outcome State Fault Refusal :=
  match (s.restoreStart gid).tryRestored gid with
  | .ok s => .next s
  | .error f => .fault f

/-! ### Retirement and kills (R89, R260, R275, R276, R291) -/

/-- A count in a context's error record, which saturates (R309). -/
def State.addDropped (s : State) (slot n : Nat) : State :=
  match s.ctx? slot with
  | none => s
  | some c =>
    if n = 0 ∨ c.state = .destroying then s
    else
      let old := fromBytes (s.devRead slot (c.errAddr + 8) 8)
      s.devWrite slot (c.errAddr + 8) (leBytes 8 (min (old + n) (2 ^ 64 - 1)))
/-- TEAM_RETIRE: an Exiting team with nothing outstanding, each of its operations counted (R89, R147, R292; DEDUCED, log 102). -/
def execTeamRetire (id : TeamId) (s : State) : Host.Outcome State Fault Refusal :=
  match s.team? id, s.group? id.gid with
  | some t, some g =>
    if t.state ≠ .exiting ∨ s.busy t = true ∨ s.uncounted id = true then .next s
    else
      let s1 := State.pruneLoads { s with loads := s.loads.map fun ld =>
        if ld.team = id ∧ ld.kind ≠ .pref ∧ ld.kind ≠ .mat then ld.drop else ld }
      let s2 := (s1.modTeam id fun t => { t with state := .retired, inSet := false, parkDue := none, deferred := [] }).addDropped g.ctx
        t.sys.gdrop.toNat
      match (s2.trySaved id.gid).tryRestored id.gid with
      | .ok s3 => .next s3
      | .error f => .fault f
  | _, _ => .next s
/-- What a group leaves behind: bindings and held requests of its own objects, landed bytes, its latch. -/
def State.freeGroup (s : State) (gid : Nat) : State :=
  { s with
    binds := (s.binds.filter fun b => !ownObj gid b.obj),
    landing := (s.landing.filter fun l => match l.place with
      | .scratch g _ _ => g != gid
      | _ => true),
    notices := (s.notices.map fun n => { n with waiters := n.waiters.filter fun w => w != gid }) }
def State.dropTeams (s : State) (gid : Nat) : State :=
  let s1 : State := { s with others := s.others.filter fun t => t.id.gid != gid }
  if s.cur.id.gid = gid then s1.unfocus else s1
/-- A kernel all of whose groups have retired drains (R291). -/
def State.kernelStep (s : State) (kid : Nat) : State :=
  s.modKernel kid fun k => if k.state = .running ∧ k.total ≤ k.retired then { k with state := .draining } else k
/-- A group leaves the machine. -/
def State.retireGroup (s : State) (gid : Nat) : State :=
  match s.group? gid with
  | none => s
  | some g =>
    let s1 := (s.freeGroup gid).dropTeams gid
    let s2 := State.leaveObjs { s1 with groups := s1.groups.filter fun g => g.gid != gid } (s.waitedOn gid)
    (s2.modKernel g.kid fun k => { k with retired := k.retired + 1 }).kernelStep g.kid
/-- A kernel ends in error: its running groups are killed without records, its waiting ones retire (R291, R308). -/
def State.failKernel (s : State) (kid cause : Nat) : State :=
  let s1 := s.modKernel kid fun k =>
    if k.state = .running then
      { k with state := .erroring, cause, retired := k.retired + (k.total - k.made), made := k.total }
    else k
  let mine := s1.groups.filter fun g => g.kid == kid
  let s2 := (mine.filter fun g => g.state == .queued || g.state == .parked).foldl (fun s g => s.retireGroup g.gid) s1
  (mine.filter fun g => g.state.live && g.state != .parked).foldl (fun s g => s.killGroup g.gid cause) s2
/-- GROUP_RETIRE: every team is Retired, or a waiting group's kernel has ended in error (R260). -/
def execGroupRetire (gid : Nat) (s : State) : Host.Outcome State Fault Refusal :=
  .next (match s.group? gid with
  | none => s
  | some g =>
    let failing := match s.kernel? g.kid with
      | some k => k.state == .erroring
      | none => true
    if (g.state = .resident ∧ ((s.teamsOf gid).all fun t => t.state == .retired) = true)
        ∨ ((g.state = .queued ∨ g.state = .parked) ∧ failing = true) then s.retireGroup gid
    else s)
/-- GROUP_KILL: a group of an ending kernel or a faulted context is killed; a Killed group is relaunched, or retires and ends its kernel (R260, R276, R291, R308). -/
def execGroupKill (gid : Nat) (s : State) : Host.Outcome State Fault Refusal :=
  .next (match s.group? gid with
  | none => s
  | some g => match s.kernel? g.kid, s.ctx? g.ctx with
    | some k, some c =>
      if g.state = .killed then
        if k.lpb.idem ∧ g.retry < k.lpb.retry ∧ k.state = .running ∧ c.state = .active then
          let n := Group.queued s.nextKey g.kid g.ctx g.index (g.retry + 1)
          let s1 := (s.freeGroup gid).dropTeams gid
          let s2 : State := { s1 with groups := s1.groups.map fun x =>
            if x.gid = gid then { n with saveAddr := g.saveAddr, constAddr := g.constAddr } else x }
          s2.bump.modKernel g.kid fun k => { k with retries := k.retries + 1 }
        else (s.failKernel g.kid (g.killCause.getD 0)).retireGroup gid
      else if g.state.live ∧ g.state ≠ .parked ∧ (k.state ≠ .running ∨ c.state ≠ .active) then s.killGroup gid k.cause
      else s
    | _, _ => s)

end Sys2Proof.Machine
end

