-- ==== Sys2Proof/Machine/System.lean ====
section
/-! DEFINITION. The system registers and the system instructions: TRAP, RTE, SRD, SWR, PARK and YIELD (R22, R147, R148, R274, R278-R285). -/

namespace Sys2Proof.Machine

/-! ### System registers (R22, R278) -/

/-- Tint bit `j` of word `w` of $tintmask (R148). -/
def State.tintBitAt (s : State) (w j : Nat) : Bool :=
  let t := s.cur
  if w < 4 then anyV t.v (64 * w + j)
  else if w = 4 then (t.sreg j).tint
  else if j < 7 then anyP t.p (j + 1)
  else if j < 11 then (t.qreg (j - 7)).tint
  else if j < 19 then s.tileTinted (j - 11)
  else j == 19 && t.ctlAny
/-- $clk: package cycles since stage 5 of the start-up sequence (R278). -/
def State.clkReg (s : State) : Nat := if s.stage < 5 then 0 else s.clk - s.clkBase
/-- The value of a system register of the team in focus; $lane and $row are of a lane. -/
def State.sysReg (s : State) (n : Nat) : Word :=
  let t := s.cur
  let g := s.myGroup
  let p := s.coreOf t.id.gid
  let w := fun (x : Nat) => BitVec.ofNat 64 x
  match n with
  | 0x02 => w t.id.idx
  | 0x03 => w ((g.map Group.index).getD 0)
  | 0x04 => w ((g.map Group.lcore).getD 0)
  | 0x05 => w (pcoreQuad p)
  | 0x06 => w (pcoreDie p)
  | 0x07 => w s.rank
  | 0x08 => s.peerReg
  | 0x09 => w s.clkReg
  | 0x10 => t.sys.tvec
  | 0x11 => t.fr.cause
  | 0x12 => t.fr.fpc
  | 0x13 => t.fr.addr
  | 0x14 => t.fr.lanes
  | 0x15 => t.fr.opnd
  | 0x18 => t.fr.gorigin
  | 0x19 => w (b2n t.sys.gdrill)
  | 0x1A => w t.sys.gdrop.toNat
  | 0x1B => w t.sys.nstat.toNat
  | n => if 0x20 ≤ n ∧ n ≤ 0x25 then w (bitsOf 64 (s.tintBitAt (n - 0x20))) else 0
/-- What lane `L` receives of a system register (R283). -/
def State.sysLane (s : State) (n L : Nat) : Lane :=
  if n = 0 then BitVec.ofNat 32 L else if n = 1 then BitVec.ofNat 32 (L / 32) else (s.sysReg n).setWidth 32
/-- A write of a system register under its access (R147, R274, R278): SKIP alone of $fcause, bits 56:3 of the addresses, ones that clear $nstat; $flanes and $fopnd keep their values. -/
def Team.setSys (t : Team) (n : Nat) (x : Word) : Team :=
  match n with
  | 0x10 => { t with sys := { t.sys with tvec := pcBits x } }
  | 0x11 => { t with fr := { t.fr with cause := t.fr.cause &&& ~~~0x2000 ||| x &&& 0x2000 } }
  | 0x12 => { t with fr := { t.fr with fpc := pcBits x, cause := t.fr.cause &&& ~~~0x3F00 ||| 0x1F00 } }
  | 0x13 => { t with fr := { t.fr with addr := x } }
  | 0x19 => { t with sys := { t.sys with gdrill := x.getLsbD 0 } }
  | 0x1A => { t with sys := { t.sys with gdrop := x.setWidth 32 } }
  | 0x1B => { t with sys := { t.sys with nstat := t.sys.nstat &&& ~~~(x.setWidth 5) } }
  | _ => t

/-- A register of every lane of the current mask under a team guard (R57, R94, R279, R283). -/
def State.writeVT (s : State) (g : TeamGuard) (r : Nat) (f : Nat → Lane) : State :=
  let gc := s.cur.tguard g
  let t := s.cur
  let ls := t.laneList.filter fun L => t.mask.getLsbD L
  let put := fun (t : Team) (h : Nat → VCell) =>
    { t with v := ls.foldl (fun m L => SMap.set VCell.zero m (1024 * r + L) (h L)) t.v }
  if gc.val then
    (s.abandon r ls).modCur fun u => put u fun L => { val := f L, tint := gc.tint || t.ctl.getLsbD L }
  else if gc.tint then s.modCur fun u => put u fun L => { u.vreg r L with tint := true }
  else s

/-- An MRDA of the team is still in the matrix queue: the flags that it sets are visible to the next instruction that names $nstat, which waits for them (R40). -/
def State.flagsDue (s : State) (n : Nat) : Bool :=
  n == 0x1B && s.mats.any fun j => j.team == s.cur.id && match j.kind with
    | .rda .. => true
    | _ => false
/-- SRD (R283). -/
def execSrd (o : SrdOps) (s : State) : Host.Outcome State Fault Refusal :=
  let n := o.n.toNat
  finish (if !sysNum n then .trap s (Trap.illegal 2 n)
  else if s.flagsDue n then .hold s
  else match o.d with
    | .s d => if n < 2 then .trap s (Trap.illegal 2 n) else .next (s.writeS o.g d.val (s.sysReg n) false)
    | .v d => .next (s.writeVT o.g d.val (s.sysLane n)))
/-- SWR (R283). -/
def execSwr (o : SwrOps) (s : State) : Host.Outcome State Fault Refusal :=
  let n := o.n.toNat
  finish (if !sysWr n then .trap s (Trap.illegal 1 n)
  else s.teamOp o.g [(2, o.a.val)] fun s =>
    if s.flagsDue n then .hold s else .next (s.modCur fun t => t.setSys n (t.sval o.a)))

/-! ### TRAP, RTE, PARK, YIELD (R280, R281, R284, R285) -/

/-- A team runs a trap handler. -/
def Mode.handler : Mode → Bool
  | .user | .system => true
  | _ => false

/-- TRAP (R280). -/
def execTrap (o : CodeOps) (s : State) : Host.Outcome State Fault Refusal :=
  finish (s.teamOp o.g [] fun s => .trap s { Trap.of cSoftware o.code.toNat with skip := true })
/-- TRAP.kill: the handler kills its group with the cause of the trap it handles (R275, R280). -/
def execTrapKill (o : CodeOps) (s : State) : Host.Outcome State Fault Refusal :=
  finish (if !s.cur.mode.handler then .trap s (Trap.illegal 5 0)
  else s.teamOp o.g [] fun s => .hold (s.killBy (fcCause s.cur.fr.cause) o.code.toNat))

/-- A control transfer of the system engine: guarded off it falls through, a tinted guard or control tint escapes (R50, R279). -/
def State.sysTransfer (s : State) (g : TeamGuard) (k : State → Eff) : Eff :=
  let gc := s.cur.tguard g
  if !gc.val && !gc.tint then .goto s s.cur.nextClause
  else match s.teamEscape g [] with
    | some tr => .trap s tr
    | none => k s
/-- RTE (R272, R281, R282): the return from a trap, or the end of a team's part in a restore. -/
def execRte (g : TeamGuard) (s : State) : Host.Outcome State Fault Refusal :=
  let t := s.cur
  if !t.mode.handler then finish (.trap s (Trap.illegal 7 0))
  else
    let gc := t.tguard g
    if t.mode = .system ∧ fcCause t.fr.cause = cRestore ∧ gc.val = true ∧ (s.teamEscape g []).isNone = true then
      match (s.modCur fun t => { t with restored := true, clause := none, seq := t.seq + 1 }).tryRestored t.id.gid with
      | .ok s1 => .next s1
      | .error f => .fault f
    else finish (s.sysTransfer g fun s => .hold (s.modCur fun t => { (t.goto t.pc).leave with seq := t.seq + 1 }))

/-- The causes under which a handler may park its team (R284). -/
def parkCause (c : Nat) : Bool := c == cPark || c == cMigrate || c == cPageFault || c == cFetch
/-- PARK (R284): the team is Saved, and the last one of its group completes Saving. -/
def execPark (g : TeamGuard) (s : State) : Host.Outcome State Fault Refusal :=
  let t := s.cur
  finish (if t.mode ≠ .system ∨ parkCause (fcCause t.fr.cause) = false then .trap s (Trap.illegal 7 0)
  else
    let gc := t.tguard g
    if !gc.val && !gc.tint then .goto s t.nextClause
    else s.syncOp g fun s =>
      .hold ((s.modCur fun t => { t with state := .saved, inSet := false, clause := none, seq := t.seq + 1 }).trySaved t.id.gid))

/-- The ready pending team with which YIELD exchanges the team in focus (R264, R285). -/
def State.yieldTo (s : State) : Option Team :=
  let p := s.coreOf s.cur.id.gid
  let s1 := s.noteReady p
  earliest (topPrio (s1.teams.filter fun t =>
    s1.onCore p t && t.state == .pending && s1.ready t && decide (s.cur.prio ≤ t.prio)))
/-- YIELD (R285). -/
def execYield (g : TeamGuard) (s : State) : Host.Outcome State Fault Refusal :=
  finish (s.sysTransfer g fun s =>
    let s1 := s.goto s.cur.nextClause
    .hold (match s.yieldTo with
      | some n => (s1.leaveSet s.cur.id).enterSet n.id
      | none => s1.modCur fun t => { t with yielding := some [] }))

end Sys2Proof.Machine
end

