-- ==== Sys2Proof/Machine/Kernel.lean ====
section
/-! DEFINITION. Kernels: the launch parameter block, LAUNCH, acceptance, completion and its signals, and the entries of a context's error record (R287-R295, R307-R312). -/

namespace Sys2Proof.Machine

/-! ### Accesses of the queue engine -/

/-- The physical address of a byte that the queue engine reaches in a context: translated with the permissions, in no remote window (R288, R293, R300). -/
def State.qePlace (s : State) (slot va : Nat) (need : Need) : Option Nat :=
  match s.ctx? slot with
  | none => none
  | some c => match s.translate c false need va with
    | .ok { place := .phys a, .. } => some a
    | _ => none
/-- The bytes of a range, page by page; none where a page fails or a byte is poisoned. -/
def State.qeRead (s : State) (slot va n : Nat) : Option (List Byte) :=
  if n = 0 then some []
  else (unitsOf 65536 va n).foldl (fun acc u =>
    let lo := max va (65536 * u)
    let hi := min (va + n) (65536 * u + 65536)
    match acc, s.qePlace slot lo needR with
    | some bs, some a => if s.poisoned a (hi - lo) then none else some (bs ++ s.physRead a (hi - lo))
    | _, _ => none) (some [])
/-- A word that the engine reads: none where it does not translate or is poisoned. -/
def State.qeWord (s : State) (slot va : Nat) : Option Nat := (s.qeRead slot va 8).map fromBytes
/-- What every access of the engine does on its way, page by page: its request travels from link die 0 and recalls leases (R14, R167), and a walk that meets poison is reported (R320, R331). -/
def State.qeReach (s : State) (slot va n : Nat) (need : Need) : State :=
  (unitsOf 65536 va n).foldl (fun s u =>
    let lo := max va (65536 * u)
    let hi := min (va + n) (65536 * u + 65536)
    match (s.ctx? slot).map fun c => s.translate c false need lo with
    | some (.ok { place := .phys a, .. }) => s.devGoes (linkUnit 0) a (hi - lo)
    | some (.error f) => if f.why = 3 then s.post (Report.bare slot 0x03 cPoisoned lo) else s
    | _ => s) s
/-- A word that the engine writes, at its home; one that does not translate is not written. -/
def State.qePut (s : State) (slot va x : Nat) : State :=
  let s1 := s.qeReach slot va 8 needW
  match s.qePlace slot va needW with
  | some a => s1.homeWrite false ReqHdr.nobody slot va (.phys a) (leBytes 8 x)
  | none => s1
/-- A memory timeline raised by the engine as TLSIG.rel.pod raises it, and whether its address allowed it (R217, R293). -/
def State.qeRaise (s : State) (slot va v : Nat) : State × Bool :=
  let s1 := if multOf 8 va then s.qeReach slot va 8 needW else s
  match (if multOf 8 va then s.qePlace slot va needW else none) with
  | some a => (s1.reduce false ReqHdr.nobody slot va (.phys a) .max false 8 v 0, true)
  | none => (s1.post (Report.bare slot 0x10 0 va), false)

/-! ### The launch parameter block (R287, R288) -/

/-- The 64-bit words of a list of bytes. -/
def wordsOf (bs : List Byte) (n : Nat) : List Nat := (List.range n).map fun i => fromBytes ((bs.drop (8 * i)).take 8)
/-- ARGQ of a header's words. -/
def argqOf (ws : List Nat) : Nat := bitsAt (nth 0 ws 3) 30 10
/-- The fields of a header. -/
def lpbOf (ws : List Nat) : Lpb :=
  let w := fun i => nth 0 ws i
  { code := bitsAt (w 0) 0 57, gx := bitsAt (w 1) 0 32, gy := bitsAt (w 1) 32 32, gz := bitsAt (w 2) 0 32, argq := argqOf ws,
    mig := (w 3).testBit 29, retry := bitsAt (w 3) 25 4, idem := (w 3).testBit 24, prio := bitsAt (w 3) 22 2,
    ftz := (w 3).testBit 21, accs := bitsAt (w 3) 17 4, regs := 8 * (bitsAt (w 3) 12 5 + 1), teams := bitsAt (w 3) 8 4 + 1,
    lanes := 32 * (bitsAt (w 3) 0 5 + 1), d := 256 * bitsAt (w 4) 35 15, q := 256 * bitsAt (w 4) 21 14,
    k := 256 * bitsAt (w 4) 9 12, wbuf := 1024 * bitsAt (w 4) 0 9, tlAddr := bitsAt (w 5) 0 57, tlVal := w 6,
    stAddr := bitsAt (w 7) 0 57 }
/-- The zero fields of a header are zero. -/
def lpbZeros (ws : List Nat) : Bool :=
  let w := fun i => nth 0 ws i
  [0, 5, 7].all (fun i => decide (w i < 2 ^ 57)) && decide (w 2 < 2 ^ 32) && decide (w 3 < 2 ^ 40) && bitsAt (w 3) 5 3 == 0
    && decide (w 4 < 2 ^ 50) && (List.range 8).all fun i => w (8 + i) == 0
/-- Every field lies in its range, and the teams fit a core. -/
def Lpb.ranges (l : Lpb) : Bool :=
  multOf 8 l.code && multOf 8 l.tlAddr && multOf 8 l.stAddr && decide (1 ≤ l.gx) && decide (1 ≤ l.gy) && decide (1 ≤ l.gz)
    && decide (l.gx * l.gy * l.gz ≤ 2 ^ 31) && decide (l.argq ≤ 512) && decide (l.accs ≤ 8) && decide (l.wbuf ≤ 256 * 1024)
    && decide (l.k ≤ 2048 * 256) && decide (l.q ≤ 8192 * 256) && decide (l.d ≤ 24576 * 256) && decide (l.teams * l.blocks ≤ 512)
/-- The LPB of a kernel is valid (R288); one that could not be read is not. -/
def State.lpbValid (s : State) (k : Kernel) : Bool :=
  match k.raw with
  | none => false
  | some bs =>
    lpbZeros (wordsOf bs 16) && k.lpb.ranges && (List.range 1152).any fun l => s.inService l && s.fitsEmpty k.lpb (s.pcore l)
/-- The LPB at an address as the engine reads it, header first (R288, R290). -/
def State.readLpb (s : State) (slot a : Nat) : Option (List Byte) :=
  match s.qeRead slot a 128 with
  | none => none
  | some h => (s.qeRead slot (a + 128) (8 * argqOf (wordsOf h 16))).map fun args => h ++ args

/-! ### Acceptance (R290, R291, R295) -/

def KState.over : KState → Bool
  | .done | .abandoned => true
  | _ => false
/-- The queue engine holds 4,096 live kernels (R295). -/
def State.kernelsFull (s : State) : Bool := decide (4096 ≤ (s.kernels.filter fun k => !k.state.over).length)
/-- A kernel accepted in a context: the LPB at an address in its record, its ID, and its priority under a cap. A header that can be read counts where its argument bytes cannot: STADDR and TLADDR are told of the failure (R288, R293). -/
def State.acceptKernel (s : State) (slot a : Nat) (cap : Nat) (cmd : Option Nat) : State :=
  let raw := s.readLpb slot a
  let hdr := s.qeRead slot a 128
  let lpb := lpbOf (wordsOf (hdr.getD []) 16)
  let s := (s.qeReach slot a 128 needR).qeReach slot (a + 128) (if hdr.isSome then 8 * lpb.argq else 0) needR
  let k : Kernel :=
    { kid := s.nextKey, ctx := slot, id := ((s.ctx? slot).map Ctx.nextKernel).getD 0, state := .accepted, lpb, raw,
      args := (raw.getD []).drop 128, prio := min lpb.prio cap, code := 0, cause := 0, retries := 0, made := 0, retired := 0, cmd }
  { (s.bump.modCtx slot fun c => { c with nextKernel := c.nextKernel + 1 }) with kernels := s.kernels ++ [k] }
/-- The check of one part of an LPB at issue: every page, and no poison (R288, R295). -/
def State.launchCheck (s : State) (a n : Nat) : Option Trap :=
  match s.locateRange .g needR a (pagesIn n) n with
  | .error (f, va) => some (xTrap f 1 va [])
  | .ok runs =>
    if runs.any fun r => r.1.isPeer then some (Trap.of cPermission 0)
    else if runs.any fun r => s.placePoisoned r.1 r.2 then some (Trap.of cPoisoned a)
    else none
/-- A LAUNCH in WAI is accepted once every earlier access of its team is performed at pod scope and the engine has room; its LPB is read then (R290, R294, R295). -/
def State.acceptLaunch (s : State) (l : Launch) : State :=
  if s.kernelsFull || !relDone s l.team l.seq (some .pod) then s
  else { (s.acceptKernel l.ctx l.lpb l.cap none) with launches := s.launches.filter fun x => x.key != l.key }
/-- The header of an LPB that a team reads at issue: its own earlier accesses to those bytes, and its acquires, come first (R238, R242). -/
def State.headerDue (s : State) (a : Nat) : Bool :=
  s.acqHold s.cur.id s.cur.seq || match s.locateRange .g needR a (pagesIn 128) 128 with
    | .ok runs => runs.any fun r => s.earlierHit s.cur.id s.cur.seq r.1 r.2
    | .error _ => false
/-- LAUNCH (R295): its checks under team-disable; then it enters WAI, and its team goes on (R48, R294). -/
def execLaunch (o : LaunchOps) (s : State) : Host.Outcome State Fault Refusal :=
  finish (s.teamOp o.g [(2, o.a.val)] fun s =>
    let t := s.cur
    let a := (t.sval o.a).toNat
    let slot := s.ctxOf t
    if a % 256 ≠ 0 then .trap s (Trap.of cMisaligned 0)
    else match s.launchCheck a 128 with
      | some tr => s.readTrap tr
      | none =>
        if s.headerDue a then .hold s
        else match s.launchCheck (a + 128) (8 * argqOf (wordsOf ((s.qeRead slot a 128).getD []) 16)) with
          | some tr => s.readTrap tr
          | none =>
            let l : Launch :=
              { key := s.nextKey, team := t.id, seq := t.seq, ctx := slot, lpb := a, cap := ((s.kernel? (s.kidOf t)).map Kernel.prio).getD 0 }
            .next (State.acceptLaunch { s.bump with launches := s.launches ++ [l] } l))
/-- KERNEL_ACCEPT (R291). -/
def execKernelAccept (kid : Nat) (s : State) : Host.Outcome State Fault Refusal :=
  .next (match s.kernel? kid with
  | none => s
  | some k => match k.state, s.ctx? k.ctx with
    | .accepted, some c =>
      if c.state = .faulted then s.modKernel kid fun k => { k with state := .signalling, code := 3 }
      else if s.lpbValid k then s.modKernel kid fun k => { k with state := .running }
      else s.modKernel kid fun k => { k with state := .signalling, code := 2 }
    | _, _ => s)

/-! ### Completion (R291-R293) -/

/-- No core holds an outstanding entry for the kernel, and no operation of it waits to be counted (R292). -/
def State.noneOut (s : State) (kid : Nat) : Bool :=
  (s.cores.all fun c => c.2.out.all fun e => e.kid != kid)
    && (s.posts.all fun q => q.kid != kid || !q.counted || q.entered) && (s.engs.all fun e => e.kid != kid || e.entered)
    && (s.appends.all fun a => a.kid != kid || a.accepted)
    && s.asks.all fun a => a.cmd.isSome || a.kid != kid || a.entered || a.checked.isNone
/-- KERNEL_DRAINED (R291). -/
def execKernelDrained (kid : Nat) (s : State) : Host.Outcome State Fault Refusal :=
  .next (match s.kernel? kid with
  | none => s
  | some k =>
    if !s.noneOut kid then s
    else if k.state = .draining then s.modKernel kid fun k => { k with state := .signalling, code := 0 }
    else if k.state = .erroring ∧ k.total ≤ k.retired then s.modKernel kid fun k => { k with state := .signalling, code := 1 }
    else s)
/-- The status word of a kernel (R293). -/
def Kernel.status (k : Kernel) : Nat := min k.retries 0xFFFF * 2 ^ 32 + (if k.code = 1 then k.cause % 256 else 0) * 2 ^ 8 + k.code
/-- The status of a command, once (R301). -/
def State.setStatus (s : State) (key code cause : Nat) : State :=
  { s with cmds := s.cmds.map fun c => if c.key = key ∧ c.status = none then { c with status := some (code, cause) } else c }
/-- KERNEL_SIGNAL: the status word, then the raise; Done (R293, R301). -/
def execKernelSignal (kid : Nat) (s : State) : Host.Outcome State Fault Refusal :=
  .next (match s.kernel? kid with
  | none => s
  | some k =>
    if k.state ≠ .signalling then s
    else
      let s0 := if k.lpb.stAddr = 0 then s else s.qePut k.ctx k.lpb.stAddr k.status
      let s1 := if k.lpb.stAddr = 0 ∨ (s.qePlace k.ctx k.lpb.stAddr needW).isSome = true then s0
        else s0.post (Report.bare k.ctx 0x10 0 k.lpb.stAddr)
      let s2 := if k.lpb.tlAddr = 0 then s1 else (s1.qeRaise k.ctx k.lpb.tlAddr k.lpb.tlVal).1
      let s3 := s2.modKernel kid fun k => { k with state := .done }
      match k.cmd with
      | some c => s3.setStatus c k.code (if k.code = 1 then k.cause else 0)
      | none => s3)

/-! ### The error record (R307-R312) -/

/-- The kinds that fault a context (R311). -/
def fatalKind (k : Nat) : Bool := k == 2 || k == 3 || k == 4
/-- The words of an entry (R310). -/
def Report.words (r : Report) (fatal : Bool) (seq : Nat) : List Nat :=
  [r.kind * 2 ^ 56 + b2n fatal * 2 ^ 55 + r.cause % 256 * 2 ^ 40 + seq, r.pc, r.addr, r.lanes + r.kcode * 2 ^ 16, r.opnd,
   r.team % 16 * 2 ^ 36 + r.lcore * 2 ^ 25 + r.pcore * 2 ^ 14 + pcoreQuad r.pcore * 2 ^ 7 + pcoreDie r.pcore * 2 ^ 5,
   r.kernel, r.group]
/-- A context enters Faulted: its kernels end in error with the cause of the report (R307, R308). -/
def State.faultCtx (s : State) (slot cause : Nat) : State :=
  match s.ctx? slot with
  | none => s
  | some c =>
    let s1 := (s.modCtx slot fun c => { c with state := .faulted }).devWrite slot (c.errAddr + 24) (leBytes 8 2)
    let ks := s1.kernels.filter fun k => k.ctx == slot && k.state == .running
    (ks.foldl (fun s k => s.failKernel k.kid cause) s1).raiseMsi 4
/-- The entry is written, or counted as lost (R312). -/
def State.writeEntry (s : State) (c : Ctx) (r : Report) (fatal : Bool) : State :=
  let seq := fromBytes (s.devRead c.slot c.errAddr 4)
  let lostRead := fromBytes (s.devRead c.slot (c.errAddr + 16) 8)
  if (2 ^ 32 + seq - lostRead % 2 ^ 32) % 2 ^ 32 < 63 then
    (s.devWrite c.slot (c.errAddr + 64 * (1 + seq % 63)) ((r.words fatal seq).flatMap (leBytes 8))).devWrite c.slot c.errAddr
      (leBytes 8 ((seq + 1) % 2 ^ 32))
  else s.devWrite c.slot (c.errAddr + 20) (leBytes 4 (min (lostRead / 2 ^ 32 + 1) (2 ^ 32 - 1)))
/-- ERROR_RECORD_ENTRY: a report reaches the record of its context (R307, R312). -/
def execErrorRecordEntry (key : Nat) (s : State) : Host.Outcome State Fault Refusal :=
  .next (match s.reports.find? fun r => r.key == key with
  | none => s
  | some r =>
    let s1 : State := { s with reports := s.reports.filter fun x => x.key != key }
    match s1.ctx? r.ctx with
    | none => s1
    | some c =>
      if c.state = .destroying then s1
      else
        let fatal := fatalKind r.kind
        let s2 := s1.writeEntry c r (fatal || c.state == .faulted)
        if fatal && c.state == .active then s2.faultCtx c.slot r.cause else s2)

end Sys2Proof.Machine
end

