-- ==== Sys2Proof/Machine/Queue.lean ====
section
/-! DEFINITION. Queues: ENQ and the append, the engine's walk, and the commands NOP, LAUNCH, WAITTL, SIGTL and SETTLR (R292, R296-R304). -/

namespace Sys2Proof.Machine

/-! ### Registrations (R298, R303) -/

def State.modQueue (s : State) (slot desc : Nat) (f : QueueReg → QueueReg) : State :=
  s.modCtx slot fun c => { c with queues := c.queues.map fun q => if q.desc = desc then f q else q }
/-- Queue `i` of a context that lives. -/
def State.queue? (s : State) (slot i : Nat) : Option QueueReg :=
  match s.ctx? slot with
  | some c => if c.state = .destroying then none else c.queues[i]?
  | none => none
def State.cmd? (s : State) (k : Nat) : Option Cmd := s.cmds.find? fun c => c.key == k
def State.modCmd (s : State) (k : Nat) (f : Cmd → Cmd) : State :=
  { s with cmds := s.cmds.map fun c => if c.key = k then f c else c }
/-- A queue stops: ECODE and EADDR, and a report of kind 0x06 with the descriptor (R303, R311). -/
def State.stopQueue (s : State) (slot desc ecode eaddr : Nat) : State :=
  ((s.qePut slot (desc + 24) (ecode * 2 ^ 60 + eaddr % 2 ^ 57)).modQueue slot desc fun q => { q with state := .stopped }).post
    (Report.bare slot 0x06 0 desc)

/-! ### Appending (R296, R302) -/

/-- A queue is registered with a live context (R298). -/
def State.registered (s : State) (slot desc : Nat) : Bool :=
  match s.ctx? slot with
  | some c => c.queues.any fun q => q.desc == desc
  | none => false
/-- A link write that is discarded stops the queue; of a descriptor that is not registered nothing is left to do (R296, R298). -/
def State.linkLost (s : State) (slot desc old : Nat) : State :=
  if s.registered slot desc then s.stopQueue slot desc 2 old else s
/-- Where an address of a context lies for the device. -/
def State.linkPlace (s : State) (slot va : Nat) (need : Need) : Option Place :=
  match s.ctx? slot with
  | none => none
  | some c => match s.translate c true need va with
    | .ok x => some x.place
    | .error _ => none
/-- The link write of an append: into HEAD of an empty list, else into NEXT of the block that the swap returned; one toward a peer is posted, with the counting entry of the append. -/
def State.linkWrite (s : State) (core : Nat) (h : ReqHdr) (slot desc block old : Nat) (count : Option (Nat × Nat)) : State :=
  let at_ := if old = desc then desc + 8 else old
  match (if at_ % 8 = 0 then s.linkPlace slot at_ needW else none) with
  | some (.phys a) => (s.devGoes core a 8).homeWrite false h slot at_ (.phys a) (leBytes 8 block)
  | some (.peer r a) => s.postBy deviceId slot at_ (.peer r a) (leBytes 8 block) none count h
  | _ => s.linkLost slot desc old
/-- The swap of TAIL at its home here for an appender at a core or at link die 0, and what it returned (R302, R310). -/
def State.swapTail (s : State) (core : Nat) (h : ReqHdr) (slot desc block : Nat) : Option (State × Nat) :=
  match s.devPlace slot desc needRW with
  | .ok a =>
    if desc % 256 = 0 then some ((s.devGoes core a 8).homeWrite false h slot desc (.phys a) (leBytes 8 block), (s.physWord a).toNat) else none
  | .error _ => none
/-- The swap of a TAIL that a peer holds: an atomic of the device toward it, whose answer EXACT_ANSWER_ARRIVAL brings. -/
def State.swapAway (s : State) (a : Append) (p : Place) : State :=
  let ld : Load :=
    { key := a.key, team := deviceId, seq := s.nextKey, pc := 0, kind := .atom .xchg, sp := .g, w := .w64, signed := false,
      d := 0, regs := 2, limit := 0, issued := s.clk, acq := none, rel := none, relaxed := false,
      lanes := [{ LoadLane.issue 0 a.desc p false false with x := a.block }], keep := [], fences := [], written := false,
      core := a.core, ctx := a.ctx, redirected := false, hdr := a.hdr }
  if (s.load? a.key).isSome then s else { s.bump with loads := s.loads ++ [ld] }
/-- APPEND_SWAP: the swap of an ENQ that is due, or an append by the host, whose link follows at once (R302). -/
def execAppendSwap (slot : Nat) (d b : Word) (s : State) : Host.Outcome State Fault Refusal :=
  let desc := d.toNat
  let block := b.toNat
  .next (match s.appends.find? fun a => a.ctx == slot && a.desc == desc && a.block == block && a.old.isNone with
  | some a =>
    if !a.accepted || !relDone s a.team a.seq (some .pod) then s
    else match s.linkPlace slot desc needRW with
      | some (.peer r x) => s.swapAway a (.peer r x)
      | _ => match s.swapTail a.core a.hdr slot desc block with
        | none => s
        | some (s1, old) => { s1 with appends := s1.appends.map fun x => if x.key = a.key then { x with old := some old } else x }
  | none => match s.swapTail (linkUnit 0) ReqHdr.nobody slot desc block with
    | none => s
    | some (s1, old) => s1.linkWrite (linkUnit 0) ReqHdr.nobody slot desc block old none)
/-- The link of an append is performed, or on its way to a peer, and the append is counted off. -/
def State.endAppend (s : State) (a : Append) (old : Nat) : State :=
  let s1 := s.linkWrite a.core a.hdr a.ctx a.desc a.block old (some (a.core, a.kid))
  { s1 with appends := s1.appends.filter fun x => x.key != a.key }.outDown a.core a.kid
/-- The answer to a swap at a peer: what TAIL held, or the failure of the append, which is reported as bytes that were not performed (R364). -/
def State.swapBack (s : State) (a : Append) : State :=
  match s.load? a.key with
  | none => s
  | some ld => match ld.lanes with
    | l :: _ =>
      if l.st = .waiting then s
      else
        let s1 := s.dropLoad a.key
        match l.bad with
        | none => s1.endAppend a l.value
        | some c => { (s1.report7 a.hdr a.ctx c a.desc) with appends := s1.appends.filter fun x => x.key != a.key }.outDown a.core a.kid
    | [] => s
/-- OUTSTANDING_ACK: a posted access at its homes, or the link of an append, is performed and counted off (R292, R296). -/
def execOutstandingAck (k : Nat) (s : State) : Host.Outcome State Fault Refusal :=
  .next (match s.appends.find? fun a => a.key == k with
  | none => s.ackPost k
  | some a => match a.old with
    | none => s.swapBack a
    | some old => s.endAppend a old)
/-- An ENQ in WAI is accepted once it has a counting entry (R48, R292). -/
def State.acceptAppend (s : State) (a : Append) : State :=
  if a.accepted || !s.outOk a.core a.kid then s
  else { (s.outUp a.core a.kid) with appends := s.appends.map fun x => if x.key = a.key then { x with accepted := true } else x }
/-- The command code of a block's words. -/
def cmdCode (ws : List Nat) : Nat := nth 0 ws 1 % 256
def cPrivileged := 0x5C
/-- The commands that need a privileged queue (R300). -/
def privilegedCmd (c : Nat) : Bool := c == 4 || c == 5 || c == 6
/-- ENQ (R296): after its checks it enters WAI, and its team goes on (R48, R294). -/
def execEnq (o : TwoOps) (s : State) : Host.Outcome State Fault Refusal :=
  finish (s.teamOp o.g [(2, o.a.val), (3, o.b.val)] fun s =>
    let t := s.cur
    let d := (t.sval o.a).toNat
    let b := (t.sval o.b).toNat
    let core := s.coreOf t.id.gid
    let kid := s.kidOf t
    if d % 256 ≠ 0 ∨ b % 256 ≠ 0 then .trap s (Trap.of cMisaligned 0)
    else match s.readFirst needR b 256 with
      | .error tr => s.readTrap tr
      | .ok (s1, none) => .hold s1
      | .ok (s1, some ld) => match ld.lanes.find? fun l => l.bad.isSome with
        | some l => s1.readTrap (Trap.of (l.bad.getD cPoisoned) l.addr)
        | none =>
          if privilegedCmd (cmdCode (ld.lanes.map LoadLane.value)) then .trap s1 (Trap.of cPrivileged b)
          else match s1.locate .g needRW d 64 with
            | .error f => .trap s1 (xTrap f 1 d [])
            | .ok _ =>
              let a : Append :=
                { key := s1.nextKey, ctx := s1.ctxOf t, desc := d, block := b, team := t.id, seq := t.seq, core, kid,
                  counted := true, accepted := false, old := none, hdr := s1.hdrOf t.id }
              .next (State.acceptAppend { s1.bump with appends := s1.appends ++ [a] } a))

/-! ### The walk (R303) -/

/-- What a read by a unit of a link die gives: it is due, its address fails, its answer fails with a cause, or its words. -/
inductive DevRead where
  | due (s : State)
  | fail (s : State) (f : XFail)
  | bad (s : State) (cause : Nat)
  | words (s : State) (ws : List Nat)
/-- `n` bytes of one page read for a context by a unit of a link die: of this package at once, of a peer with its answers; `tag` tells one such read from the others of the context (R303, R385). -/
def State.devFetch (s : State) (slot unit tag va n : Nat) (need : Need) : DevRead :=
  match s.loads.find? fun ld => ld.team == deviceId && ld.kind == .mat && ld.ctx == slot && ld.d == tag && !ld.written with
  | some ld =>
    if !ld.lanes.all LoadLane.performed then .due s
    else
      let s1 := s.dropLoad ld.key
      match ld.lanes.findSome? LoadLane.bad with
      | some cause => .bad s1 cause
      | none => .words s1 (ld.lanes.map LoadLane.value)
  | none =>
    let s0 := s.qeReach slot va n need
    match (s.ctx? slot).map fun c => s.translate c false need va with
    | none => .fail s { cause := cPageFault, why := 1 }
    | some (.error f) => .fail s0 f
    | some (.ok x) =>
      if x.place.isPeer then
        let ld : Load := { s.newLoad .mat .g .w64 false tag 0 (wordLanes [(x.place, n)] va n) with
          team := deviceId, seq := s.nextKey, pc := 0, fences := [], core := unit, ctx := slot, hdr := ReqHdr.nobody }
        .due { s.bump with loads := s.loads ++ [ld] }
      else match s.qeRead slot va n with
        | none => .bad s0 cPoisoned
        | some bs => .words s0 (wordsOf bs (n / 8))
/-- Reads whose asker has gone: their answers free them. -/
def State.leaveFetch (s : State) (slot : Nat) (tags : Nat → Bool) : State :=
  State.pruneLoads { s with loads := s.loads.map fun ld =>
    if ld.team = deviceId ∧ ld.kind = .mat ∧ ld.ctx = slot ∧ tags ld.d = true then { ld with written := true } else ld }
/-- The tag of a queue's read of blocks, and of a command's read. -/
def queueTag (desc : Nat) : Nat := 2 * desc
def cmdTag (key : Nat) : Nat := 2 * key + 1
/-- QUEUE_HEAD_WATCH: an empty queue takes its HEAD. -/
def execQueueHeadWatch (slot i : Nat) (s : State) : Host.Outcome State Fault Refusal :=
  .next (match s.queue? slot i with
  | none => s
  | some q =>
    if q.state ≠ .empty then s
    else match s.qeWord slot (q.desc + 8) with
      | none => s.qeReach slot (q.desc + 8) 8 needR
      | some h =>
        if h % 2 ^ 57 = 0 then s
        else (s.qePut slot (q.desc + 8) 0).modQueue slot q.desc fun q => { q with state := .fetching, cur := h % 2 ^ 57 })
/-- QUEUE_BLOCK_FETCH: the block is read once, whole, or the queue stops. One on a peer whose read is denied, or fails with the peer, counts as untranslatable (DESIGN CHOICE, log 103). -/
def execQueueBlockFetch (slot i : Nat) (s : State) : Host.Outcome State Fault Refusal :=
  .next (match s.queue? slot i with
  | none => s
  | some q =>
    if q.state ≠ .fetching then s
    else if q.cur % 256 ≠ 0 then s.stopQueue slot q.desc 1 q.cur
    else match s.devFetch slot (linkUnit 0) (queueTag q.desc) q.cur 256 needR with
      | .due s1 => s1
      | .fail s1 _ => s1.stopQueue slot q.desc 2 q.cur
      | .bad s1 cause => s1.stopQueue slot q.desc (if cause = cPoisoned then 3 else 2) q.cur
      | .words s1 ws => s1.modQueue slot q.desc fun q => { q with state := .held, block := ws.map (BitVec.ofNat 64), curCmd := none })
/-- The well-formedness of a command block: its code, its zero fields and the ranges of its operands (R299-R301). Word 4 is not examined: R299 has the engine write its zero field and CODE, and R302 has the appender leave it (DESIGN CHOICE, log 74). -/
def blockOk (ws : List Nat) : Bool :=
  let w := fun i => nth 0 ws i
  let rest := (List.range 24).all fun i => w (8 + i) == 0
  let ops := match w 1 % 256 with
    | 0 => w 5 == 0 && w 6 == 0 && w 7 == 0
    | 1 => multOf 256 (w 5) && w 6 == 0 && w 7 == 0
    | 2 | 3 => multOf 8 (w 5) && w 7 == 0
    | 4 => decide (w 5 < 2 ^ 16) && multOf 256 (w 6) && w 7 == 0
    | 5 => decide (w 7 < 2 ^ 62) && bitsAt (w 7) 42 7 == 0 && bitsAt (w 7) 0 16 == 0
    | 6 => w 7 == 0
    | 7 => decide (w 5 < 2 ^ 32) && w 7 == 0
    | _ => false
  decide (w 0 < 2 ^ 57) && decide (w 1 < 2 ^ 9) && decide (w 2 < 2 ^ 57) && multOf 8 (w 2) && rest && ops
def QueueReg.words (q : QueueReg) : List Nat := q.block.map BitVec.toNat
/-- A held command may be dispatched: no earlier one that SER waits for, no WAITTL unsatisfied. -/
def State.canDispatch (s : State) (slot : Nat) (q : QueueReg) : Bool :=
  q.state == .held && q.waiting.isNone
    && (!(nth 0 q.words 1).testBit 8 || !s.cmds.any fun c => c.ctx == slot && c.desc == q.desc)
/-- No queue of higher priority has a command ready, and none of the same priority has its turn before this one. -/
def State.isTurn (s : State) (q : QueueReg) : Bool :=
  s.ctxs.all fun c => c.state == .destroying || c.queues.all fun r =>
    !s.canDispatch c.slot r || decide (r.prio < q.prio) || (r.prio == q.prio && decide (q.served ≤ r.served))
/-- The code that a command completes with at its dispatch, in the order of R301: while the context is faulted, NOP, WAITTL and SIGTL have their effect, and a LAUNCH makes its kernel, which ends with 0x03 (R291). -/
def dispatchCode (c : Ctx) (q : QueueReg) : Option Nat :=
  let n := cmdCode q.words
  if !blockOk q.words then some 4
  else if privilegedCmd n && !q.privileged then some 5
  else if c.state == .faulted && decide (4 ≤ n) then some 3
  else none
/-- A SETTLR that is dispatched stops the plans of its context that use its handle and that no earlier event is to stop (R381). -/
def State.recordChange (s : State) (slot handle : Nat) : State :=
  { s with plans := s.plans.map fun p => if p.state = .running ∧ p.lost = false ∧ p.ctx = slot ∧ (p.src = handle ∨ p.dst = handle) then { p with changed := true } else p }
/-- QUEUE_DISPATCH. -/
def execQueueDispatch (slot i : Nat) (s : State) : Host.Outcome State Fault Refusal :=
  .next (match s.queue? slot i, s.ctx? slot with
  | some q, some c =>
    if !s.canDispatch slot q || !s.isTurn q then s
    else
      let code := dispatchCode c q
      let n := cmdCode q.words
      let s0 := if n = 2 then s.qeReach slot (nth 0 q.words 5) 8 needR else s
      let key := s0.nextKey
      let cmd : Cmd :=
        { key, ctx := slot, desc := q.desc, block := q.cur, words := q.block, status := code.map fun x => (x, 0),
          tl := if n = 2 then s.qePlace slot (nth 0 q.words 5) needR else none,
          started := code.isSome, detached := false }
      let s1 := { s0.bump with cmds := s0.cmds ++ [cmd] }.modQueue slot q.desc fun q =>
        { q with state := .linking, curCmd := some key, served := key,
                 waiting := if n = 2 ∧ code = none then some key else none }
      if n = 4 ∧ code = none then s1.recordChange slot (nth 0 q.words 5) else s1
  | _, _ => s)

def Cmd.word (c : Cmd) (i : Nat) : Nat := (nth (0 : Word) c.words i).toNat
def Cmd.code (c : Cmd) : Nat := c.word 1 % 256
/-- The value of the timeline of a WAITTL, where its dispatch has translated it; none where it did not translate or is poisoned (R300). -/
def State.tlValue (s : State) (c : Cmd) : Option Nat := c.tl.bind fun a => if s.poisoned a 8 then none else some (s.physWord a).toNat
/-- The timeline of a WAITTL cannot be read (R300). -/
def State.waitFails (s : State) (c : Cmd) : Bool := c.code == 2 && c.status.isNone && (s.tlValue c).isNone
/-- A block is detached: its command may complete. -/
def State.detach (s : State) (q : QueueReg) : State :=
  match q.curCmd with
  | some k => s.modCmd k fun c => { c with detached := true }
  | none => s
/-- QUEUE_LINK: a WAITTL that fails stops the queue; else NEXT is followed, or TAIL goes back to the descriptor. A NEXT that cannot be read on a peer stops the queue as its block would (DESIGN CHOICE, log 103). -/
def execQueueLink (slot i : Nat) (s : State) : Host.Outcome State Fault Refusal :=
  .next (match s.queue? slot i with
  | none => s
  | some q =>
    if q.state ≠ .linking then s
    else match (q.curCmd.bind s.cmd?).filter s.waitFails with
      | some c => s.stopQueue slot q.desc 4 (c.word 5)
      | none => match s.devFetch slot (linkUnit 0) (queueTag q.desc) q.cur 8 needR with
        | .due s1 | .fail s1 _ => s1
        | .bad s1 cause =>
          if (s.qePlace slot q.cur needR).isSome then s1 else s1.stopQueue slot q.desc (if cause = cPoisoned then 3 else 2) q.cur
        | .words s1 ws =>
          let next := nth 0 ws 0 % 2 ^ 57
          if next ≠ 0 then
            (s1.detach q).modQueue slot q.desc fun q => { q with state := .fetching, cur := next, curCmd := none }
          else if s.qeWord slot q.desc = some q.cur then
            ((s1.detach q).qePut slot q.desc q.desc).modQueue slot q.desc fun q => { q with state := .empty, curCmd := none }
          else s1)
/-- The commands of a queue that are not detached go, and the WAITTL that it waits for: their blocks never complete. -/
def State.dropCmds (s : State) (slot desc : Nat) (waiting : Option Nat) : State :=
  let gone := fun (c : Cmd) => c.ctx == slot && c.desc == desc && (!c.detached || waiting == some c.key)
  let s1 := s.leaveFetch slot fun tag => tag == queueTag desc || s.cmds.any fun c => gone c && tag == cmdTag c.key
  { s1 with cmds := s.cmds.filter fun c => !gone c, asks := s1.asks.filter fun a => !s.cmds.any fun c => gone c && a.cmd == some c.key }
/-- QUEUE_RESTART: RST returns a stopped queue to Empty. -/
def execQueueRestart (slot i : Nat) (s : State) : Host.Outcome State Fault Refusal :=
  .next (match s.queue? slot i with
  | none => s
  | some q =>
    if q.state ≠ .stopped then s
    else match s.qeWord slot (q.desc + 16) with
      | none => s
      | some r =>
        if !r.testBit 0 then s
        else
          let put := fun (s : State) (i x : Nat) => s.qePut slot (q.desc + 8 * i) x
          ((put (put (put (put s 0 q.desc) 1 0) 2 0) 3 0).dropCmds slot q.desc q.waiting).modQueue slot q.desc fun q =>
            { q with state := .empty, cur := 0, block := [], curCmd := none, waiting := none })

/-! ### Commands (R300, R301, R304) -/

/-- A dispatched command that has not begun, in a context that lives. -/
def State.runCmd (s : State) (key code : Nat) (f : Cmd → Ctx → State) : State :=
  match s.cmd? key with
  | none => s
  | some c => match s.ctx? c.ctx with
    | none => s
    | some x => if c.started || c.code != code || x.state == .destroying then s else f c x
def State.startCmd (s : State) (key : Nat) : State := s.modCmd key fun c => { c with started := true }
/-- A command that begins and completes at once. -/
def State.doneCmd (s : State) (key code cause : Nat) : State := (s.startCmd key).setStatus key code cause
/-- CMD_NOP. -/
def execCmdNop (key : Nat) (s : State) : Host.Outcome State Fault Refusal :=
  .next (s.runCmd key 0 fun _ _ => s.doneCmd key 0 0)
/-- CMD_LAUNCH: a kernel is accepted; it completes the command. -/
def execCmdLaunch (key : Nat) (s : State) : Host.Outcome State Fault Refusal :=
  .next (s.runCmd key 1 fun c _ =>
    if s.kernelsFull then s else (s.startCmd key).acceptKernel c.ctx (c.word 5) 3 (some key))
/-- CMD_WAITTL: an acquire of the timeline; until it completes, nothing more of the queue is dispatched. One whose page UNMAP has taken away can no longer be read (DEDUCED, log 104). -/
def execCmdWaittl (key : Nat) (s : State) : Host.Outcome State Fault Refusal :=
  .next (s.runCmd key 2 fun c x => match s.tlValue c with
    | none =>
      if (x.queues.any fun q => q.desc == c.desc && q.state != .stopped) = true then s.stopQueue c.ctx c.desc 4 (c.word 5) else s
    | some v =>
      if v < c.word 6 then s
      else (s.doneCmd key 0 0).modQueue c.ctx c.desc fun q => if q.waiting = some key then { q with waiting := none } else q)
/-- CMD_SIGTL: the raise, or status 0x06. -/
def execCmdSigtl (key : Nat) (s : State) : Host.Outcome State Fault Refusal :=
  .next (s.runCmd key 3 fun c _ =>
    let r := s.qeRaise c.ctx (c.word 5) (c.word 6)
    r.1.doneCmd key (if r.2 then 0 else 6) 0)
/-- The record image of a SETTLR is acceptable (R175, R300). -/
def imageOk (c : Ctx) (bs : List Byte) : Bool :=
  let t := tlrOf bs
  !t.v || (t.ok && t.ctx == c.id)
/-- SETTLR: the entry is written and every cached copy goes (R178, R300). -/
def execSettlr (key : Nat) (s : State) : Host.Outcome State Fault Refusal :=
  .next (s.runCmd key 4 fun c x =>
    let h := c.word 5
    if x.tableLen ≤ h then s.doneCmd key 6 0
    else match s.devFetch c.ctx (linkUnit 0) (cmdTag key) (c.word 6) 256 needR with
      | .due s1 => s1
      | .fail s1 _ | .bad s1 _ => s1.doneCmd key 6 0
      | .words s0 ws =>
        let bs := ws.flatMap (leBytes 8)
        if !imageOk x bs then s0.doneCmd key 6 0
        else
          let s1 := s0.devWrite c.ctx (x.table + 256 * h) bs
          let drop := fun (k : Core) => { k with tlr := k.tlr.filter fun l => !(l.ctx == x.id && l.handle == h) }
          { s1 with cores := s1.cores.map fun (p : Nat × Core) => (p.1, drop p.2) }.doneCmd key 0 0)
/-- The status word of a block on a peer is on its way there. -/
def State.statusOut (s : State) (c : Cmd) : Bool := s.posts.any fun q => q.team == deviceId && q.ctx == c.ctx && q.writes.any fun w => w.va == c.block + 32
/-- COMMAND_COMPLETION: the status of a completed, detached command is written, then CTL is raised; one of a block on a peer is acknowledged first (R301, R304). -/
def execCommandCompletion (key : Nat) (s : State) : Host.Outcome State Fault Refusal :=
  .next (match s.cmd? key with
  | none => s
  | some c => match c.status with
    | none => s
    | some (code, cause) =>
      let far := if c.told then none else match s.linkPlace c.ctx (c.block + 32) needW with
        | some p => if p.isPeer then some p else none
        | none => none
      if !c.detached || (c.told && s.statusOut c) then s
      else match far with
      | some p => (s.deviceWrite c.ctx (c.block + 32) p (leBytes 8 (256 * (cause % 256) + code)) (some .pod)).modCmd key fun c => { c with told := true }
      | none =>
        let s1 := if c.told then s else s.qePut c.ctx (c.block + 32) (256 * (cause % 256) + code)
        let ctl := c.word 2 % 2 ^ 57
        let s2 := if ctl = 0 then s1 else (s1.qeRaise c.ctx ctl (c.word 3)).1
        { s2 with cmds := s2.cmds.filter fun x => x.key != key })

end Sys2Proof.Machine
end

