-- ==== Sys2Proof/Machine/Page.lean ====
section
/-! DEFINITION. Pages: memory taken and freed, MAP and UNMAP, the TLBs and the walker, page migration, and the fault notices that the management processor sends (R250, R251, R315-R327). -/

namespace Sys2Proof.Machine

/-! ### Memory that the device takes (R315, R325, R392) -/

/-- Pseudo-channel `k`, 32 to an MSU, has bytes in a range of HBM (R327). -/
def touchesChannel (k a n : Nat) : Bool :=
  let lo := a / 1024
  let t := k / 32 % 24 + 24 * (k % 32)
  decide (a < hbmSize) && decide (lo + (768 + t - lo % 768) % 768 < ceilDiv (a + n) 1024)
/-- A harvested pseudo-channel has bytes in the range. -/
def State.failing (s : State) (a n : Nat) : Bool :=
  s.harvest.any fun u => match u with
    | .channel k => touchesChannel k a n
    | _ => false
/-- A state with the places that the device's choice still offers (log 8). -/
abbrev Alloc := State × List Nat
/-- `n` bytes aligned to their size from a range: the place offered if it is free, else the lowest free one, zeroed, without poison or guards. -/
def takeMem (slot base size n : Nat) (a : Alloc) : Option (Alloc × Nat) :=
  let s := a.1
  let us := s.used.map Prod.snd
  let ok := fun x => x % n == 0 && decide (base ≤ x) && decide (x + n ≤ base + size) && !clashes us x n && !s.failing x n
  let ends := (base :: us.map fun u => u.1 + u.2).flatMap fun x => (List.range 13).map fun i => alignUp n x + n * i
  let place := match a.2.head? with
    | some h => if ok h then some h else minOf (ends.filter ok)
    | none => minOf (ends.filter ok)
  place.map fun x =>
    (({ s with used := s.used ++ [(slot, x, n)], mem := s.mem.clear x (x + n),
               poison := s.poison.clear (x / 32) ((x + n) / 32), guards := s.guards.clear (x / 16) ((x + n) / 16) }, a.2.tail), x)
def State.freeMem (s : State) (slot x : Nat) : State :=
  { s with used := s.used.filter (fun u => !(u.1 == slot && u.2.1 == x)), coFrames := s.coFrames.filter fun f => f.1 != x }

/-! ### The page tables (R316, R317) -/

def nonLeaf (t : Nat) : Word := BitVec.ofNat 64 (2 ^ 63 + t)
/-- The table that an entry points to, taken and zeroed where there is none. -/
def tableAt (slot entry size : Nat) (a : Alloc) : Option (Alloc × Nat) :=
  let e := a.1.physWord entry
  if pteV e then (if pteLeaf e then none else some (a, pteNext e))
  else match takeMem slot 0 hbmSize size a with
    | none => none
    | some (b, t) => some ((b.1.setPhysWord entry (nonLeaf t), b.2), t)
/-- A leaf put in its place: one entry of level 2, one of level 3, or 32 of level 3. -/
def putLeaf (slot root va : Nat) (e : Word) (a : Alloc) : Option Alloc :=
  match tableAt slot (root + 8 * bitsAt va 42 15) 524288 a with
  | none => none
  | some (b, t2) =>
    let e2 := t2 + 8 * bitsAt va 26 16
    if pteSize e = 2 then
      let old := b.1.physWord e2
      let s1 := if pteV old then b.1.freeMem slot (pteNext old) else b.1
      if b.1.leafOk 2 e then some (s1.setPhysWord e2 e, b.2) else none
    else match tableAt slot e2 8192 b with
      | none => none
      | some (d, t3) =>
        let i := bitsAt va 16 10
        let n := if pteSize e = 1 then 32 else 1
        if d.1.leafOk 3 e then
          some ((List.range n).foldl (fun s k => s.setPhysWord (t3 + 8 * (i + k)) e) d.1, d.2)
        else none
/-- The range that frames of a kind come from (R325). -/
def State.pool (s : State) (kind die : Nat) : Nat × Nat :=
  if kind = 1 then (scratchBase die + s.split die, scratchSize - s.split die) else (0, hbmSize)
/-- The permission and kind bits of an attribute word, as an entry holds them. -/
def leafBits (attr : Nat) : Nat := 2 ^ 63 + 2 ^ 62 + bitsAt attr 49 13 * 2 ^ 49
/-- One page mapped: its frame taken, or the peer's. -/
def mapPage (slot root va attr frame : Nat) (a : Alloc) : Option Alloc :=
  let kind := bitsAt attr 57 3
  let n := sizeBytes (bitsAt attr 60 2)
  if kind = 3 then putLeaf slot root va (BitVec.ofNat 64 (leafBits attr + frame)) a
  else
    let r := a.1.pool kind (bitsAt attr 40 2)
    match takeMem slot r.1 r.2 n a with
    | none => none
    | some (b, x) =>
      let s1 : State := if attr.testBit 56 then { b.1 with coFrames := b.1.coFrames ++ [(x, n)] } else b.1
      putLeaf slot root va (BitVec.ofNat 64 (leafBits attr + x)) (s1, b.2)
/-- `n` pages mapped from an address on. -/
def mapPages (slot root va attr frame n : Nat) (a : Alloc) : Option Alloc :=
  let size := sizeBytes (bitsAt attr 60 2)
  (List.range n).foldl (fun acc i => acc.bind fun b => mapPage slot root (va + size * i) attr (frame + size * i) b) (some a)
/-- A byte's page is mapped. -/
def State.mapped (s : State) (c : Ctx) (va : Nat) : Bool := match s.walk c.root va with
  | .ok _ => true
  | .error _ => false

/-! ### MAP (R250, R324, R325) -/

/-- The ranges that CREATE maps (R314). -/
def Ctx.regions (c : Ctx) : List (Nat × Nat) :=
  [(c.table, alignUp 65536 (256 * c.tableLen)), (c.errAddr, 65536), (c.save, c.saveSize), (c.const, c.constSize),
   (c.setup, c.setupSize)]
/-- A MAP is rejected for its range or its attributes (R300, R325). -/
def State.mapBad (s : State) (c : Ctx) (va len attr : Nat) : Bool :=
  let kind := bitsAt attr 57 3
  let n := sizeBytes (bitsAt attr 60 2)
  bitsAt attr 60 2 == 3 || va % n != 0 || len == 0 || len % n != 0 || decide (2 ^ 57 < va + len)
    || (kind != 1 && bitsAt attr 40 2 != 0) || (kind != 3 && (bitsAt attr 52 4 != 0 || bitsAt attr 16 24 != 0))
    || (List.range (len / 65536)).any fun i => s.mapped c (va + 65536 * i)
/-- MAP: the zeroed mapping is in place, and the notices of its regions are resolved. -/
def execMap (key : Nat) (h : Choice) (s : State) : Host.Outcome State Fault Refusal :=
  .next (s.runCmd key 5 fun c x =>
    let va := c.word 5
    let len := c.word 6
    let attr := c.word 7
    if s.mapBad x va len attr then s.doneCmd key 6 0
    else match mapPages c.ctx x.root va attr (bitsAt attr 16 24 * 65536) (len / sizeBytes (bitsAt attr 60 2)) (s, h.frames) with
      | none => s.doneCmd key 6 0
      | some (s1, _) =>
        ((s1.modCtx c.ctx fun c => { c with maps := c.maps + 1 }).resolve fun n =>
          n.ctx == c.ctx && decide (65536 * n.region < va + len) && decide (va < 65536 * n.region + 65536)).doneCmd key 0 0)

/-! ### UNMAP (R251, R321) -/

/-- The pages of a range as (address, entry): none where a part is not mapped or a page lies partly outside. -/
def State.pagesOf (s : State) (root va : Nat) : Nat → Nat → Option (List (Nat × Word))
  | 0, len => if len = 0 then some [] else none
  | fuel + 1, len =>
    if len = 0 then some []
    else match s.walk root va with
      | .error _ => none
      | .ok e =>
        let n := sizeBytes (pteSize e)
        if va % n ≠ 0 ∨ len < n then none else (s.pagesOf root (va + n) fuel (len - n)).map fun l => (va, e) :: l
/-- The ranges that pages map: of this package, or of the peer of a remote window. -/
def rangesOf (ps : List (Nat × Word)) : List (Place × Nat) :=
  ps.map fun p => (if pteKind p.2 = 3 then .peer (ptePeer p.2) (pteFrame p.2) else .phys (pteFrame p.2), sizeBytes (pteSize p.2))
def inRanges (rs : List (Place × Nat)) (p : Place) (n : Nat) : Bool := rs.any fun r => r.1.overlaps r.2 p n
/-- The instruction that reads for itself is still held at its read: it issues it again (R251). -/
def State.ownRead (s : State) (ld : Load) : Bool :=
  ld.kind == .mat && match s.team? ld.team with
    | some t => t.seq == ld.seq
    | none => false
/-- An access of a team, the host or the device to the ranges is still to be performed, or an XSEND or a re-shard run through the window still to be acknowledged. -/
def State.accessDue (s : State) (rs : List (Place × Nat)) : Bool :=
  (s.loads.any fun ld => ld.kind != .mat && ld.lanes.any fun l => l.due && inRanges rs l.place ld.w.bytes)
    || (s.posts.any fun q => q.writes.any fun w => !w.done && inRanges rs w.place w.data.length)
    || (s.mats.any fun j => match j.kind with
      | .save _ _ _ runs none => runs.any fun r => inRanges rs r.1 r.2
      | _ => false)
    || (s.engs.any fun e => e.kind == .xsend && e.dst.any fun r => inRanges rs r.1 r.2)
    || (s.plans.any fun p => p.steps.any fun t => t.firstFlying.isSome && rs.any fun r => match r.1 with
      | .peer q _ => q == t.pkg
      | _ => false)
/-- What engines would still read there arrives poisoned, what they would write there is discarded and counted, and an instruction's own read is made again (R251). -/
def State.discard (s : State) (rs : List (Place × Nat)) : State :=
  let away := fun (r : Place × Nat) => if inRanges rs r.1 r.2 then (Place.nowhere, r.2) else r
  let unit := fun (u : EngUnit) =>
    { u with src := if inRanges rs u.src u.bytes then .nowhere else u.src, dst := if inRanges rs u.dst u.bytes then .nowhere else u.dst }
  let lane := fun (n : Nat) (l : LoadLane) => if l.due && inRanges rs l.place n then
      { l with performed := true, st := .exact, bad := some cPoisoned } else l
  let again := fun (ld : Load) => s.ownRead ld && ld.lanes.any fun l => l.due && inRanges rs l.place ld.w.bytes
  { s with
    engs := (s.engs.map fun e => { e with src := e.src.map away, dst := e.dst.map away, units := e.units.map unit }),
    loads := ((s.loads.filter fun ld => !again ld).map fun ld => if ld.kind = .mat then { ld with lanes := ld.lanes.map (lane ld.w.bytes) } else ld),
    cmds := (s.cmds.map fun c => { c with tl := c.tl.filter fun a => !inRanges rs (.phys a) 8 }),
    combRegs := s.combRegs.map fun r => if inRanges rs r.record 64 then { r with record := .nowhere } else r }
/-- The entry of a leaf is cleared. -/
def State.clearLeaf (s : State) (root va : Nat) (e : Word) : State :=
  let t2 := pteNext (s.physWord (root + 8 * bitsAt va 42 15))
  let e2 := t2 + 8 * bitsAt va 26 16
  if pteSize e = 2 then s.setPhysWord e2 0
  else
    let t3 := pteNext (s.physWord e2)
    (List.range (if pteSize e = 1 then 32 else 1)).foldl (fun s k => s.setPhysWord (t3 + 8 * (bitsAt va 16 10 + k)) 0) s
/-- Every TLB copy of the pages of a range goes (R321). -/
def State.dropTlb (s : State) (id lo hi : Nat) : State :=
  let keep := fun (e : TlbEntry) => !(e.ctx == id && decide (e.page * e.size < hi) && decide (lo < e.page * e.size + e.size))
  { s with
    cores := (s.cores.map fun (p : Nat × Core) => (p.1, { p.2 with tlb := p.2.tlb.filter keep })),
    quads := (s.quads.map fun (p : Nat × Quad) => (p.1, { p.2 with tlb := p.2.tlb.filter keep })),
    dies := s.dies.map fun (p : Nat × Die) => (p.1, { p.2 with tlb := p.2.tlb.filter keep }) }
/-- A registered combiner object lies in the range (R300, R336). -/
def State.objectIn (s : State) (slot lo hi : Nat) : Bool :=
  s.combRegs.any fun r => r.ctx == slot && decide (r.base < hi) && decide (lo < r.base + r.size)
/-- UNMAP: it completes once the accesses of teams through the old mapping are performed. -/
def execUnmap (key : Nat) (s : State) : Host.Outcome State Fault Refusal :=
  .next (s.runCmd key 6 fun c x =>
    let va := c.word 5
    let len := c.word 6
    match (if len = 0 ∨ 2 ^ 57 < va + len then none else s.pagesOf x.root va (len / 65536 + 1) len) with
    | none => s.doneCmd key 6 0
    | some ps =>
      if (x.regions.any fun r => clashes [r] va len) || s.objectIn c.ctx va (va + len) then s.doneCmd key 6 0
      else
        let rs := rangesOf ps
        if s.accessDue rs || (s.appends.any fun a => a.ctx == c.ctx && clashes [(va, len)] a.desc 64)
          || s.sent.any fun b => b.ctx == c.ctx && b.answer.isNone && clashes [(va, len)] b.va 16 then s
        else
          let s1 := ps.foldl (fun s p => s.clearLeaf x.root p.1 p.2) (s.discard rs)
          let s2 := (ps.filter fun p => pteKind p.2 != 3).foldl (fun s p => s.freeMem c.ctx (pteFrame p.2)) s1
          ((s2.dropTlb x.id va (va + len)).dropCode c.ctx va (va + len)).doneCmd key 0 0)

/-! ### The walker (R320, R321) -/

/-- PAGE_WALK: a walk that succeeds fills the TLBs of a core, its quad and its die; one without a translation fills nothing. -/
def execPageWalk (core ctx : Nat) (va : Word) (s : State) : Host.Outcome State Fault Refusal :=
  .next (s.fillTlb core ctx va.toNat)

/-! ### Page migration (R251, R326) -/

/-- A physical address after its page has moved. -/
def movedTo (old new n a : Nat) : Nat := if old ≤ a ∧ a < old + n then new + (a - old) else a
/-- What names bytes of a page by their physical address follows it: bindings, combiner objects, early releases, held signals and the timelines of WAITTL. -/
def State.follow (s : State) (old new n : Nat) : State :=
  let mv := movedTo old new n
  let cond := fun (c : BindCond) => match c with
    | .memTl a v => BindCond.memTl (mv a) v
    | .watch a x => .watch (mv a) x
    | c => c
  let place := fun (p : Place) => match p with
    | .phys a => Place.phys (mv a)
    | p => p
  { s with
    binds := (s.binds.map fun b : Binding => { b with cond := cond b.cond }),
    early := (s.early.map fun e => { e with place := place e.place }),
    ahead := (s.ahead.map fun e => { e with place := place e.place }),
    coFrames := (s.coFrames.map fun f => (mv f.1, f.2)),
    heldSignals := (s.heldSignals.map fun h => { h with addr := mv h.addr }),
    cmds := (s.cmds.map fun c => { c with tl := c.tl.map mv }),
    combRegs := s.combRegs.map fun r => { r with phys := mv r.phys, msu := if mv r.phys = r.phys then r.msu else s.coMsu (mv r.phys), record := place r.record } }
/-- Engines, methods or requests work on bytes of a page. -/
def State.engineDue (s : State) (rs : List (Place × Nat)) : Bool :=
  (s.engs.any fun e => (e.src ++ e.dst).any (fun r => inRanges rs r.1 r.2) ||
      e.units.any fun u => inRanges rs u.src u.bytes || inRanges rs u.dst u.bytes)
    || (s.loads.any fun ld => ld.kind == .mat && ld.lanes.any fun l => l.due && inRanges rs l.place ld.w.bytes)
    || (s.combPackets.any fun p => p.reqs.any fun q => inRanges rs (.phys q.phys) 8)
    || (s.msus.any fun (m : Nat × Msu) => (m.2.queue.any fun q => inRanges rs (.phys q.phys) 8) || match m.2.skein with
      | some k => k.reqs.any fun q => inRanges rs (.phys q.phys) 8
      | none => false)
/-- A map with the pairs of `lo` to `hi - 1` copied to the keys from `dst` on. -/
def moveKeys {α : Type} (m : SMap α) (lo hi dst : Nat) : SMap α :=
  (m.filter fun p => decide (p.1 < dst)) ++ ((SMap.slice m lo hi).map fun p => (p.1 - lo + dst, p.2))
    ++ m.filter fun p => decide (dst + (hi - lo) ≤ p.1)
/-- PAGE_MIGRATION: a page in failing memory is copied and its entry rewritten, once nothing is in flight there. -/
def execPageMigration (ctx : Nat) (va : Word) (frame : Nat) (s : State) : Host.Outcome State Fault Refusal :=
  .next (match s.ctx? ctx with
  | none => s
  | some c => match s.walk c.root va.toNat with
    | .error _ => s
    | .ok e =>
      let n := sizeBytes (pteSize e)
      let old := pteFrame e
      let base := alignDown n va.toNat
      if pteKind e = 3 ∨ pteKind e = 1 ∨ s.failing old n = false ∨ s.accessDue [(.phys old, n)] = true ∨ s.engineDue [(.phys old, n)] = true then s
      else match takeMem ctx 0 hbmSize n (s, [frame]) with
        | none => s
        | some ((s1, _), x) =>
          if x ≠ frame then s
          else
            let s2 : State := { s1 with
              mem := moveKeys s1.mem old (old + n) x, poison := moveKeys s1.poison (old / 32) ((old + n) / 32) (x / 32),
              guards := moveKeys s1.guards (old / 16) ((old + n) / 16) (x / 16) }
            match putLeaf ctx c.root base (BitVec.ofNat 64 (leafBits e.toNat + x)) (s2, []) with
            | none => s
            | some (s3, _) => (((s3.follow old x n).freeMem ctx old).dropTlb c.id base (base + n)).dropCode ctx base (base + n))

/-! ### Fault notices (R323, R324, R390) -/

/-- The words of a notice. -/
def Notice.words (n : Notice) (nseq : Nat) : List Nat :=
  [n.id * 2 ^ 48 + n.acc * 2 ^ 40 + n.why * 2 ^ 32 + nseq % 2 ^ 32, n.va % 2 ^ 57, n.kernel, n.group * 2 ^ 32 + n.lcore % 2 ^ 11]
/-- FAULT_NOTICE_SEND: with a place among 4,096 and room in the ring, a notice takes its number and goes out; one resolved already holds no place. -/
def execFaultNoticeSend (k : Nat) (s : State) : Host.Outcome State Fault Refusal :=
  .next (match s.notices.find? fun n => n.key == k with
  | none => s
  | some n =>
    let held := (s.notices.filter fun m => m.nseq.isSome && !m.resolved).length
    if n.nseq.isSome || decide (4096 ≤ held) || decide (256 ≤ (2 ^ 32 + s.nwseq - s.nrseq) % 2 ^ 32) then s
    else
      let q := s.nextNotice
      let slot := 4 * (s.nwseq % 256)
      let ring := (n.words q).zipIdx.foldl (fun m w => SMap.set 0 m (slot + w.2) (BitVec.ofNat 64 w.1)) s.ring
      let s1 : State := { s with
        ring, nwseq := (s.nwseq + 1) % 2 ^ 32, nextNotice := (q + 1) % 2 ^ 32,
        notices := if n.resolved then s.notices.filter fun m => m.key != k
          else s.notices.map fun m => if m.key = k then { m with nseq := some q } else m }
      s1.raiseMsi 1)

end Sys2Proof.Machine
end

