-- ==== Sys2Proof/Machine/Context.lean ====
section
/-! DEFINITION. The management mailbox and its commands: contexts, queues, notices, firmware, health, host windows, migration, halts and slices; and the end of a context (R260, R266, R269, R298, R305-R314, R324, R373, R388-R390, R419). -/

namespace Sys2Proof.Machine

/-! ### The mailbox (R386, R390, R419) -/

/-- The commands that exist. -/
def mbKnown (c : Nat) : Bool :=
  (decide (0x10 ≤ c) && decide (c ≤ 0x14)) || c == 0x18 || c == 0x19 || (decide (0x20 ≤ c) && decide (c ≤ 0x22))
    || (decide (0x30 ≤ c) && decide (c ≤ 0x34))
/-- The stage that a command needs (R386). -/
def mbStage (c : Nat) : Nat := if 0x20 ≤ c ∧ c ≤ 0x22 then 2 else 7
/-- The answer of the management processor, with its message. -/
def State.mbAnswer (s : State) (c : MbCmd) (status reason data : Nat) : State :=
  { s with mailbox := { s.mailbox with
      rsp := BitVec.ofNat 64 (data % 2 ^ 32 * 2 ^ 32 + c.seq % 2 ^ 16 * 2 ^ 16 + reason * 2 ^ 8 + status), pending := none } }.raiseMsi 0
/-- What a command gives: DATA with the new state, or the REASON of its refusal. -/
abbrev MbResult := Except Nat (State × Nat)
/-- Every operand bit that its mask does not name is zero (R419). -/
def argsIn (args masks : List Nat) : Bool :=
  (List.range 8).all fun i => nth 0 args i ||| nth 0 masks i == nth 0 masks i
def ones (n : Nat) : Nat := 2 ^ n - 1
/-- A command of the mailbox carried out, or refused: too early, for its layout, or as it says itself. -/
def State.mbRun (s : State) (code : Nat) (masks : List Nat) (f : List Nat → MbResult) : State :=
  match s.mailbox.pending with
  | none => s
  | some c =>
    if c.code ≠ code then s
    else if s.stage < mbStage code ∨ (s.firmware.romOnly = true ∧ code ≠ 0x20) then s.mbAnswer c 1 2 0
    else
      let args := c.args.map BitVec.toNat
      if !argsIn args masks then s.mbAnswer c 1 3 0
      else match f args with
        | .ok (s1, data) => s1.mbAnswer c 0 0 data
        | .error r => s.mbAnswer c 1 r 0
/-- MAILBOX_UNKNOWN_CODE. -/
def execMailboxUnknownCode (s : State) : Host.Outcome State Fault Refusal :=
  .next (match s.mailbox.pending with
  | none => s
  | some c => if mbKnown c.code then s else s.mbAnswer c 1 1 0)

/-- A live context by its ID. -/
def State.ctxById (s : State) (id : Nat) : Option Ctx := s.ctxs.find? fun c => c.id == id && c.state != .destroying
/-- A command that names a live context in bits 15:0 of MBARG0. -/
def withCtx (s : State) (args : List Nat) (f : Ctx → MbResult) : MbResult :=
  match s.ctxById (nth 0 args 0 % 2 ^ 16) with
  | none => .error 5
  | some c => f c

/-! ### CREATE (R305-R307, R314) -/

/-- Attributes of a region: kind and permissions. -/
def attrOf (kind r w x : Nat) : Nat := kind * 2 ^ 57 + r * 2 ^ 51 + w * 2 ^ 50 + x * 2 ^ 49
/-- The regions of a context in the order of R314, with their attributes. -/
def Ctx.attrs (c : Ctx) : List ((Nat × Nat) × Nat) :=
  c.regions.zip [attrOf 0 0 0 0, attrOf 0 1 1 0, attrOf 2 1 1 0, attrOf 0 1 0 0, attrOf 0 1 1 1]
/-- No two ranges of a list overlap. -/
def apart : List (Nat × Nat) → Bool
  | [] => true
  | r :: l => !clashes l r.1 r.2 && apart l
/-- The operands of CREATE are in range: bases and sizes in 64 KiB units, regions within the space and apart, the handler in the setup region. -/
def Ctx.ok (c : Ctx) : Bool :=
  decide (1 ≤ c.id) && decide (1 ≤ c.tableLen) && decide (c.tableLen ≤ 65536)
    && c.regions.all (fun r => r.1 % 65536 == 0 && r.2 != 0 && decide (r.1 + r.2 ≤ 2 ^ 57)) && apart c.regions
    && c.handler % 8 == 0 && decide (c.setup ≤ c.handler) && decide (c.handler < c.setup + c.setupSize)
/-- The lowest free slot. -/
def State.freeSlot (s : State) : Option Nat := (List.range 64).find? fun i => (s.ctx? i).isNone
/-- A context from the operands of CREATE. -/
def ctxOfArgs (slot : Nat) (a : List Nat) : Ctx :=
  let w := fun i => nth 0 a i
  { slot, id := bitsAt (w 0) 0 16, state := .active, root := 0, table := w 1, tableLen := bitsAt (w 0) 16 17, errAddr := w 2,
    save := w 3, saveSize := 65536 * bitsAt (w 6) 0 32, const := w 4, constSize := 65536 * bitsAt (w 6) 32 32, setup := w 5,
    setupSize := 65536 * bitsAt (w 0) 33 31, handler := w 7, queues := [], nextKernel := 0, maps := 0 }
/-- CREATE: the level-1 table and the regions, zeroed; the error record's STATE 0b01. -/
def execCreate (h : Choice) (s : State) : Host.Outcome State Fault Refusal :=
  .next (s.mbRun 0x10 [ones 64, ones 57, ones 57, ones 57, ones 57, ones 57, ones 64, ones 57] fun a =>
    let c := ctxOfArgs (s.freeSlot.getD 64) a
    if !c.ok then .error 3
    else if s.ctxs.any fun x => x.id == c.id then .error 5
    else match s.freeSlot with
      | none => .error 4
      | some slot => match takeMem slot 0 hbmSize 262144 (s, h.frames) with
        | none => .error 4
        | some (b, root) =>
          let map := fun (acc : Option Alloc) (r : (Nat × Nat) × Nat) =>
            acc.bind fun b => mapPages slot root r.1.1 r.2 0 (r.1.2 / 65536) b
          match c.attrs.foldl map (some b) with
          | none => .error 4
          | some (s1, _) =>
            let s2 : State := { s1 with ctxs := s1.ctxs ++ [{ c with root }] }
            .ok (s2.devWrite slot (c.errAddr + 24) (leBytes 8 1), slot))

/-! ### Queues of a context (R298, R314) -/

/-- R298's conditions on a descriptor: TAIL its own address, HEAD, RST and ECODE zero. -/
def State.freshQueue (s : State) (slot desc : Nat) : Bool :=
  s.qeWord slot desc == some desc && s.qeWord slot (desc + 8) == some 0
    && (match s.qeWord slot (desc + 16), s.qeWord slot (desc + 24) with
      | some r, some e => !r.testBit 0 && bitsAt e 60 4 == 0
      | _, _ => false)
/-- QREG. -/
def execQreg (s : State) : Host.Outcome State Fault Refusal :=
  .next (s.mbRun 0x11 [ones 19, ones 57] fun a => withCtx s a fun c =>
    let desc := nth 0 a 1
    if desc % 256 ≠ 0 then .error 3
    else if 16 ≤ c.queues.length then .error 4
    else if (c.queues.any fun q => q.desc == desc) || !s.freshQueue c.slot desc then .error 5
    else
      let q : QueueReg := { desc, prio := bitsAt (nth 0 a 0) 16 2, privileged := (nth 0 a 0).testBit 18, state := .empty, cur := 0,
                            block := [], curCmd := none, waiting := none, served := 0 }
      .ok (s.modCtx c.slot fun c => { c with queues := c.queues ++ [q] }, 0))
/-- QDROP: the queue is gone. -/
def execQdrop (s : State) : Host.Outcome State Fault Refusal :=
  .next (s.mbRun 0x12 [ones 16, ones 57] fun a => withCtx s a fun c =>
    let desc := nth 0 a 1
    match c.queues.find? fun q => q.desc == desc with
    | none => .error 5
    | some q => .ok ((s.dropCmds c.slot desc q.waiting).modCtx c.slot fun c => { c with queues := c.queues.filter fun q => q.desc != desc }, 0))

/-! ### RECOVER and DESTROY (R307, R313) -/

/-- RECOVER: every kernel of a faulted context is done. -/
def execRecover (s : State) : Host.Outcome State Fault Refusal :=
  .next (s.mbRun 0x13 [ones 16] fun a => withCtx s a fun c =>
    if c.state = .faulted ∧ (s.kernels.all fun k => k.ctx != c.slot || k.state.over) = true then
      .ok ((s.modCtx c.slot fun c => { c with state := .active }).devWrite c.slot (c.errAddr + 24) (leBytes 8 1), 0)
    else .error 5)
/-- The groups of a context go, with their teams and what their kills leave; no kill record is written. -/
def State.dropGroups (s : State) (slot : Nat) : State :=
  (s.groups.filter fun g => g.ctx == slot).foldl (fun s g =>
    let s1 := ((s.killGroup g.gid 0).freeGroup g.gid).dropTeams g.gid
    { s1 with groups := s1.groups.filter fun x => x.gid != g.gid }) s
/-- The combiner registrations of a context and the requests for them, without replies. -/
def State.dropObjects (s : State) (slot : Nat) : State :=
  let mine := (s.combRegs.filter fun r => r.ctx == slot).map CombReg.key
  let msu := fun (m : Msu) => { m with
    queue := m.queue.filter fun q => q.ctx != slot,
    skein := m.skein.filter fun k => !mine.contains k.reg }
  let method : Team → Bool := fun t => match t.method with
    | some m => m.ctx == slot
    | none => false
  let s1 : State := if method s.cur then s.unfocus else s
  { s1 with
    combRegs := (s.combRegs.filter fun r => r.ctx != slot),
    combPackets := (s.combPackets.filter fun p => p.reqs.all fun q => q.ctx != slot),
    combs := (s.combs.filter fun c => c.ctx != slot),
    msus := (s.msus.map fun (m : Nat × Msu) => (m.1, msu m.2)),
    others := s1.others.filter fun t => !method t }
/-- A byte of physical memory lies in a page of a context. -/
def State.ofCtx (s : State) (slot a : Nat) : Bool := s.used.any fun u => u.1 == slot && decide (u.2.1 ≤ a) && decide (a < u.2.1 + u.2.2)
/-- A run of a plan is in flight. -/
def Plan.flying (p : Plan) : Bool := p.steps.any fun t => t.firstFlying.isSome
/-- An abandoned plan of a team is counted off (R292). -/
def State.countPlanOff (s : State) (p : Plan) : State := if p.cmd.isNone then s.outDown p.core p.kid else s
/-- The entry into Destroying: queues, kernels, groups, waiters and bindings, objects, windows, notices and plans, of which those with runs in flight are kept for these alone (R313, R323, R381, R389). -/
def State.destroyCtx (s : State) (c : Ctx) : State :=
  let slot := c.slot
  let s := (s.asks.filter fun a => a.req.ctx == slot && a.entered).foldl (fun s a => s.outDown a.core a.kid) s
  let s1 := (s.devWrite slot (c.errAddr + 24) (leBytes 8 3)).modCtx slot fun c => { c with state := .destroying, queues := [] }
  let s2 := (s1.dropGroups slot).dropObjects slot
  let mine := s2.plans.filter fun p => p.ctx == slot
  let s3 := ((mine.filter fun p => !p.flying).foldl State.countPlanOff s2).leaveFetch slot fun _ => true
  { s3 with
    kernels := (s3.kernels.map fun k => if k.ctx = slot ∧ k.state ≠ .done then { k with state := .abandoned } else k),
    cmds := (s3.cmds.filter fun x => x.ctx != slot), reports := (s3.reports.filter fun r => r.ctx != slot),
    notices := (s3.notices.filter fun n => n.ctx != slot), binds := (s3.binds.filter fun b => b.ctx != slot),
    remoteWaits := (s3.remoteWaits.filter fun w => !s3.ofCtx slot w.obj), launches := (s3.launches.filter fun l => l.ctx != slot),
    counts := (s3.counts.filter fun b => b.ctx != slot),
    plans := ((s3.plans.filter fun p => p.ctx != slot || p.flying).map fun p => if p.ctx = slot then { p with state := .abandoned } else p),
    asks := (s3.asks.filter fun a => a.req.ctx != slot),
    hwins := s3.hwins.map fun (w : Nat × HWin) => if w.2.ctx = c.id then (w.1, { w.2 with en := false }) else w }
/-- DESTROY. -/
def execDestroy (s : State) : Host.Outcome State Fault Refusal :=
  .next (s.mbRun 0x14 [ones 16] fun a => withCtx s a fun c => .ok (s.destroyCtx c, 0))
/-- Nothing that carries the context is still to be performed: accesses, engine operations, appends, signals held here, barrier operations sent to peers and runs of plans. -/
def State.ctxQuiet (s : State) (slot : Nat) : Bool :=
  (s.loads.all fun ld => ld.ctx != slot) && (s.posts.all fun q => q.ctx != slot) && (s.engs.all fun e => e.ctx != slot)
    && (s.appends.all fun a => a.ctx != slot) && (s.heldSignals.all fun h => h.ctx != slot)
    && (s.plans.all fun p => p.ctx != slot || !p.flying)
    && s.sent.all fun b => b.answer.isSome || b.ctx != slot
/-- DESTRUCTION_COMPLETE: cached copies go, pages and tables are freed, and slot and ID with them. -/
def execDestructionComplete (slot : Nat) (s : State) : Host.Outcome State Fault Refusal :=
  .next (match s.ctx? slot with
  | none => s
  | some c =>
    let s0 := s.pruneLoads
    if c.state ≠ .destroying ∨ s0.ctxQuiet slot = false then s0
    else
      let s1 := (((s0.plans.filter fun p => p.ctx == slot).foldl State.countPlanOff s0).dropTlb c.id 0 (2 ^ 57)).dropCode slot 0 (2 ^ 57)
      let core := fun (k : Core) => { k with
        tlr := k.tlr.filter fun l => l.ctx != c.id,
        lvt := k.lvt.filter (fun e => e.2.ctx != slot), trains := k.trains.filter fun t => t.ctx != slot }
      { s1 with
        cores := (s1.cores.map fun (p : Nat × Core) => (p.1, core p.2)),
        reports := (s1.reports.filter fun r => r.ctx != slot), plans := (s1.plans.filter fun p => p.ctx != slot),
        coFrames := (s1.coFrames.filter fun f => !s1.used.any fun u => u.1 == slot && u.2.1 == f.1),
        used := (s1.used.filter fun u => u.1 != slot),
        ctxs := s1.ctxs.filter fun x => x.slot != slot })

/-! ### PRETRY and PFAIL (R324) -/

/-- The notice that a command names. -/
def State.noticeOf (s : State) (slot nseq : Nat) : Option Notice :=
  s.notices.find? fun n => n.ctx == slot && n.nseq == some nseq && !n.resolved
def execPretry (s : State) : Host.Outcome State Fault Refusal :=
  .next (s.mbRun 0x18 [ones 16, ones 32] fun a => withCtx s a fun c => match s.noticeOf c.slot (nth 0 a 1) with
    | none => .error 5
    | some n => .ok (s.resolve fun m => m.key == n.key, 0))
/-- The fault registers of the team of a group whose page fault the group waits for, as its slot image or the team holds them. -/
def State.faultOf (s : State) (g : Group) : Option (Nat × FaultRegs) :=
  let page := fun (fr : FaultRegs) => parksOn (fcCause fr.cause)
  match g.images.find? fun i => page i.2.fr with
  | some i => some (i.1, i.2.fr)
  | none => ((s.teamsOf g.gid).find? fun t => page t.fr).map fun t => (t.id.idx, t.fr)
/-- A waiting group is killed with cause page fault, and its kill record names the team that faulted (R275, R324). -/
def State.failGroup (s : State) (gid : Nat) : State :=
  match s.group? gid with
  | none => s
  | some g =>
    let f := (s.faultOf g).getD (0, FaultRegs.zero)
    let r := { s.reportFor { gid, idx := f.1 } g.ctx 0x01 cPageFault f.2.addr.toNat with
      pc := f.2.fpc.toNat, lanes := f.2.lanes.toNat, opnd := f.2.opnd.toNat }
    (s.post r).killGroup gid cPageFault
/-- PFAIL: each waiting group is killed. -/
def execPfail (s : State) : Host.Outcome State Fault Refusal :=
  .next (s.mbRun 0x19 [ones 16, ones 32] fun a => withCtx s a fun c => match s.noticeOf c.slot (nth 0 a 1) with
    | none => .error 5
    | some n =>
      let s1 : State := { s with notices := s.notices.filter fun m => m.key != n.key }
      .ok (n.waiters.eraseDups.foldl State.failGroup s1, 0))

/-! ### Firmware (R388) -/

def slotBytes : Nat := 16777216
/-- The bytes of a slot. -/
def Firmware.slotOf (f : Firmware) (b : Bool) : SMap Byte := if b then f.b else f.a
/-- The checks of an image, in their order: 0, or the code of FWERR. -/
def Firmware.check (f : Firmware) (b : Bool) : Nat :=
  let img := readMap (f.slotOf b) 0 slotBytes
  let h := Config.imageHeader img
  let d := Config.sha512 (Config.imageBody img)
  let key := h.2.2.1
  let hash := Config.sha512 (leBytes 32 key.toNat)
  if h.1 ≠ d then 1
  else if !Config.ed25519 key d h.2.1 || !f.keys.toList.any fun k => k.hash == hash then 2
  else if f.keys.toList.any fun k => k.hash == hash && k.revoked then 3
  else if h.2.2.2 < f.minVersion then 4
  else 0
/-- The version of a slot's image. -/
def Firmware.versionOf (f : Firmware) (b : Bool) : Nat := (Config.imageHeader (readMap (f.slotOf b) 0 slotBytes)).2.2.2
/-- FWSTAGE: bytes of the staging buffer go into the inactive slot. -/
def execFwstage (s : State) : Host.Outcome State Fault Refusal :=
  .next (s.mbRun 0x20 [ones 64, ones 64] fun a =>
    let off := nth 0 a 0
    let n := nth 0 a 1
    if off % 8 ≠ 0 ∨ n % 8 ≠ 0 ∨ n < 8 ∨ 65536 < n ∨ slotBytes < off + n then .error 3
    else
      let bs := readMap s.staging 0 n
      let f := s.firmware
      .ok ({ s with firmware := if f.activeB then { f with a := writeMap f.a off bs } else { f with b := writeMap f.b off bs } }, 0))
/-- FWACT: a slot that passes is active from the next reset on; the fused minimum rises where that is asked for. -/
def execFwact (s : State) : Host.Outcome State Fault Refusal :=
  .next (s.mbRun 0x21 [ones 1] fun a =>
    let f := s.firmware
    if f.check (!f.activeB) ≠ 0 then .error 5
    else .ok ({ s with firmware := { f with
      activeB := !f.activeB,
      minVersion := if nth 0 a 0 = 1 then max f.minVersion (f.versionOf (!f.activeB)) else f.minVersion } }, 0))

/-! ### HEALTH, HWIN, MIGRATE, HALT, RESUME, SLICE -/

/-- The kinds of unit that HEALTH counts: core, quad, MSU, port (R390, R392). -/
def healthKind : ErrUnit → Nat
  | .core _ | .microTlb _ => 0
  | .quad _ | .quadScratch _ | .quadL1 _ | .quadTlb _ => 1
  | .msu _ | .bank _ => 2
  | .port _ => 3
  | _ => 4
def State.harvested (s : State) (k : Nat) : Nat := min 255 (s.harvest.filter fun u => healthKind u == k).length
def State.healthWord (s : State) : Nat :=
  s.harvested 0 + 2 ^ 8 * s.harvested 1 + 2 ^ 16 * s.harvested 2 + 2 ^ 24 * s.harvested 3
def execHealth (s : State) : Host.Outcome State Fault Refusal := .next (s.mbRun 0x22 [] fun _ => .ok (s, s.healthWord))
/-- HWIN: a window is enabled for a live context and a range that is mapped (R373, R389). -/
def execHwin (s : State) : Host.Outcome State Fault Refusal :=
  .next (s.mbRun 0x30 [ones 49 - 0xFCC0, ones 57 - ones 16] fun a =>
    let w := nth 0 a 0
    let x : HWin := { en := w.testBit 8, w := w.testBit 9, size := bitsAt w 32 17, ctx := bitsAt w 16 16, vbase := nth 0 a 1 }
    let put := s.hwins.set HWin.off (bitsAt w 0 6) x
    if 65536 < x.size ∨ 2 ^ 57 < x.vbase + 65536 * x.size then .error 3
    else if !x.en then .ok ({ s with hwins := put }, 0)
    else match s.ctxById x.ctx with
      | none => .error 5
      | some c =>
        if (List.range x.size).all fun i => s.mapped c (x.vbase + 65536 * i) then .ok ({ s with hwins := put }, 0) else .error 5)
/-- MIGRATE: the request of a debugger for a logical core, with the target that the management processor takes; a refusal is reported to it, and is the command's answer (R269). -/
def execMigrate (target : Nat) (s : State) : Host.Outcome State Fault Refusal :=
  .next (s.mbRun 0x31 [ones 11] fun a =>
    if 1152 ≤ nth 0 a 0 then .error 3
    else match s.migrateTo (nth 0 a 0) target with
      | none => .error 5
      | some s1 => .ok (s1, 0))
/-- The group that HALT and RESUME name. -/
def withGroup (s : State) (a : List Nat) (f : Group → MbResult) : MbResult :=
  withCtx s a fun c =>
    match s.groups.find? fun g => g.ctx == c.slot && g.index == nth 0 a 2
        && ((s.kernel? g.kid).map Kernel.id == some (nth 0 a 1)) with
    | none => .error 5
    | some g => f g
/-- HALT (R260). -/
def execHalt (s : State) : Host.Outcome State Fault Refusal :=
  .next (s.mbRun 0x32 [ones 16, ones 64, ones 31] fun a => withGroup s a fun g =>
    match g.state with
    | .resident => .ok (s.modGroup g.gid fun g => { g with state := .halted 0 }, 0)
    | .saving => .ok (s.modGroup g.gid fun g => { g with state := .halted 1 }, 0)
    | _ => .error 5)
/-- A group that was halted while Resident runs again: a page fault that waits comes first, then a request to migrate that came meanwhile (R269, R277). -/
def State.resume (s : State) (g : Group) : State :=
  let s1 := s.modGroup g.gid fun g => { g with state := .resident }
  if g.migrateAsked && (s.teamsOf g.gid).all fun t => t.faultPark.isNone then s1.startSaving g.gid .migrate cMigrate [] else s1
/-- RESUME: the state that the group left (R260). -/
def execResume (s : State) : Host.Outcome State Fault Refusal :=
  .next (s.mbRun 0x33 [ones 16, ones 64, ones 31] fun a => withGroup s a fun g =>
    match g.state with
    | .halted n => .ok (if n = 0 then s.resume g else s.modGroup g.gid fun g => { g with state := .saving }, 0)
    | _ => .error 5)
/-- SLICE: the time slice of a priority, in units of 0.1 ms (R266). -/
def execSlice (s : State) : Host.Outcome State Fault Refusal :=
  .next (s.mbRun 0x34 [0x3FF0003] fun a =>
    let n := bitsAt (nth 0 a 0) 16 10
    if n = 0 ∨ 1000 < n then .error 3
    else .ok ({ s with slices := s.slices.set 940000 (bitsAt (nth 0 a 0) 0 2) (94000 * n) }, 0))

end Sys2Proof.Machine
end

