-- ==== Sys2Proof/Machine/Control.lean ====
section
/-! DEFINITION. The control instructions (R92-R95, R112-R114) and SLDA (R102). -/

namespace Sys2Proof.Machine

/-- A control transfer under a team guard: a tinted guard escapes, a false one falls through, and a tinted operand escapes (R57, R95, R112). -/
def State.transfer (s : State) (g : TeamGuard) (opnd : Option (Nat × Nat × Bool)) (k : State → Eff) : Eff :=
  let gc := s.cur.tguard g
  if gc.tint then .trap s { Trap.of cGuessEscape 0 with opnd := 256 * guardField g }
  else if !gc.val then .goto s s.cur.nextClause
  else match opnd with
    | some (slot, reg, true) => .trap s { Trap.of cGuessEscape 0 with opnd := 256 * reg + slot }
    | _ => k s

/-- NOP (R112). -/
def execNop (_g : TeamGuard) (s : State) : Host.Outcome State Fault Refusal := finish (.next s)

/-- BRA (R112). -/
def execBra (o : BranchOps) (s : State) : Host.Outcome State Fault Refusal :=
  finish (s.transfer o.g none fun s => .goto s (s.cur.target o.off))

/-- BRQ (R112). -/
def execBrq (o : BrqOps) (s : State) : Host.Outcome State Fault Refusal :=
  let q := s.cur.qreg o.q.val
  finish (s.transfer o.g (some (2, 8 + o.q.val, q.tint)) fun s =>
    .goto s (if q.val != o.sense then s.cur.target o.off else s.cur.nextClause))

/-- The lanes that enter a region, and those whose decision rests on a guess (R93). -/
def Team.brdEnter (t : Team) (o : BrdOps) : LaneSet :=
  BitVec.ofNat 1024 (bitsOf t.lanes fun L =>
    t.mask.getLsbD L && (t.lguard o.g L).val && ((t.preg o.p.val L).val != o.sense))
def Team.brdTint (t : Team) (o : BrdOps) : LaneSet :=
  BitVec.ofNat 1024 (bitsOf t.lanes fun L =>
    t.mask.getLsbD L && ((t.preg o.p.val L).tint || (t.lguard o.g L).tint))

/-- BRD (R93). -/
def execBrd (o : BrdOps) (s : State) : Host.Outcome State Fault Refusal :=
  let t := s.cur
  let e := t.brdEnter o
  let u := t.brdTint o
  finish
    (if e = 0 ∧ u = 0 then .goto s (t.target o.off)
     else if 32 ≤ t.stack.length then .trap s (Trap.of cStackOver 0)
     else .goto (s.modCur fun t =>
        { t with stack := { target := t.target o.off, mask := t.mask, ctl := t.ctl } :: t.stack,
                 ctl := t.ctl ||| u, mask := e }) t.nextClause)

/-- JOIN (R93). -/
def execJoin (g : TeamGuard) (s : State) : Host.Outcome State Fault Refusal :=
  finish (s.transfer g none fun s =>
    match s.cur.stack with
    | [] => .trap s (Trap.of cStackUnder 0)
    | e :: rest => .goto (s.modCur fun t => { t with stack := rest, mask := e.mask, ctl := e.ctl }) e.target)

/-- LOOP (R112). -/
def execLoop (o : SBranchOps) (s : State) : Host.Outcome State Fault Refusal :=
  finish (s.transfer o.g (some (2, o.s.val, (s.cur.sreg o.s.val).tint)) fun s =>
    let x := s.cur.sval o.s - 1
    .goto (s.setS o.s.val { val := x, tint := s.cur.ctlAny })
      (if x = 0 then s.cur.nextClause else s.cur.target o.off))

/-- CALL; the link is never tinted (R94, R112). -/
def execCall (o : SBranchOps) (s : State) : Host.Outcome State Fault Refusal :=
  finish (s.transfer o.g none fun s =>
    .goto (s.setS o.s.val { val := s.cur.nextClause, tint := false }) (s.cur.target o.off))

/-- RET (R112). -/
def execRet (o : RetOps) (s : State) : Host.Outcome State Fault Refusal :=
  finish (s.transfer o.g (some (2, o.s.val, (s.cur.sreg o.s.val).tint)) fun s =>
    let a := s.cur.sval o.s
    if a.toNat % 8 = 0 then .goto s a else .trap s (Trap.of cIllegalClause a.toNat))

/-! ### EXIT (R113, R158) -/

/-- A count added to $gdrop, which saturates (R147). -/
def SysRegs.drop (r : SysRegs) (n : Nat) : SysRegs :=
  { r with gdrop := BitVec.ofNat 32 (min (r.gdrop.toNat + n) (2 ^ 32 - 1)) }
/-- The tinted vector register lanes of a set of lanes (R158). -/
def Team.tintedLanes (t : Team) (m : LaneSet) : Nat :=
  (t.v.filter fun p => p.2.tint && m.getLsbD (p.1 % 1024)).length
/-- The other tints that a team counts when it enters Exiting: scalars, predicate lanes, scalar predicates (R158). -/
def Team.tintedRest (t : Team) : Nat :=
  (t.s.filter fun p => p.2.tint).length + (t.p.filter fun p => p.2.tint).length
    + (t.q.filter fun p => p.2.tint).length
/-- The tints of a set of lanes vanish. -/
def Team.untint (t : Team) (m : LaneSet) : Team :=
  { t with v := ((t.v.filter fun p => p.2.tint && m.getLsbD (p.1 % 1024)).foldl (fun v p =>
      SMap.set VCell.zero v p.1 { SMap.get VCell.zero v p.1 with tint := false }) t.v) }
/-- The first entry with lanes left, and the entries below it. -/
def popLive : List StackEntry → Option (StackEntry × List StackEntry)
  | [] => none
  | e :: l => if e.mask = 0 then popLive l else some (e, l)

/-- EXIT of the current mask, with the number of tile tints set: the team and where it goes on, if it lives. -/
def Team.exitLanes (t : Team) (tiles : Nat) : Team × Option Word :=
  let gone := t.mask
  let u := { (t.untint gone) with sys := t.sys.drop (t.tintedLanes gone) }
  match popLive (t.stack.map fun e => { e with mask := e.mask &&& ~~~gone }) with
  | some (e, rest) => ({ u with stack := rest, mask := e.mask, ctl := e.ctl }, some e.target)
  | none =>
    ({ u with s := untintS u.s, p := untintP u.p, q := untintP u.q, stack := [], mask := 0, ctl := 0,
              state := .exiting, clause := none, sys := u.sys.drop (t.tintedRest + tiles) }, none)

/-- EXIT (R95, R113). -/
def execExit (g : TeamGuard) (s : State) : Host.Outcome State Fault Refusal :=
  finish (s.transfer g none fun s =>
    if s.cur.ctlMask then
      .trap s { Trap.of cGuessEscape 0 with
        opnd := 256 * guardField g,
        lanes := flanesOf (s.cur.laneList.filter fun L => (s.cur.ctl &&& s.cur.mask).getLsbD L) }
    else
      let tiles := ((List.range 8).filter s.tileTinted).length
      match s.cur.exitLanes tiles with
      | (t, some pc) => .goto { s with cur := t } pc
      | (t, none) => .hold { s with cur := { t with seq := t.seq + 1 } })

/-- BKPT (R114). -/
def execBkpt (o : CodeOps) (s : State) : Host.Outcome State Fault Refusal :=
  finish (s.teamOp o.g [] fun s => .trap s { Trap.of cBreakpoint o.code.toNat with skip := true })

/-- SLDA (R102). -/
def execSlda (o : SBranchOps) (s : State) : Host.Outcome State Fault Refusal :=
  finish (.next (s.writeS o.g o.s.val (s.cur.hdrAddr + sext32 o.off) false))

end Sys2Proof.Machine
end

