-- ==== Sys2Proof/Machine/HostIf.lean ====
section
/-! DEFINITION. The host interface: windows, AtomicOps, the registers of BAR 0, and the health blocks of the HBM4E hbms (R6, R298, R302, R329, R330, R356, R372-R374, R387, R390). -/

namespace Sys2Proof.Machine

/-! ### Host windows (R373, R374) -/

def winSize : Nat := 2 ^ 32
/-- The context and the address of an access of BAR 2: none beyond SIZE, in a disabled window or without the W it needs. -/
def State.window (s : State) (off n : Nat) (w : Bool) : Option (Ctx × Nat) :=
  let x := s.hwins.get HWin.off (off / winSize)
  let o := off % winSize
  if s.stage < 7 ∨ !x.en ∨ (w && !x.w) ∨ 64 ≤ off / winSize ∨ 65536 * x.size < o + n then none
  else (s.ctxById x.ctx).map fun c => (c, x.vbase + o)
/-- The places of a host access, page by page: none where a page fails translation or permission. -/
def State.hostRuns (s : State) (c : Ctx) (need : Need) (va n : Nat) : Option (List (Place × Nat × Nat)) :=
  (unitsOf 65536 va n).foldl (fun acc u =>
    let lo := max va (65536 * u)
    let hi := min (va + n) (65536 * u + 65536)
    match acc, s.translate c false need lo with
    | some l, .ok x => some (l ++ [(x.place, lo, hi - lo)])
    | _, _ => none) (some [])
/-- An earlier host write without Relaxed Ordering has not been performed (R374). -/
def State.hostWrites (s : State) : Bool := s.posts.any fun q => q.team == hostId
/-- A read or an AtomicOp of the host: its bytes here are read at once where the order allows it, and those of a peer come with its answer; it completes when all have (R374). -/
def State.hostAccess (s : State) (c : Ctx) (kind : LoadKind) (w : Width) (lanes : List LoadLane) : State :=
  let ld : Load :=
    { key := s.nextKey, team := hostId, seq := s.nextKey, pc := 0, kind, sp := .g, w, signed := false, d := 0, regs := 0, limit := 0,
      issued := s.clk, acq := none, rel := (match kind with
        | .atom _ => some .pod
        | _ => none), relaxed := false, lanes, keep := [], fences := [], written := false, core := 1152, ctx := c.slot,
      redirected := false, hdr := ReqHdr.nobody }
  let s1 : State := { s.bump with loads := s.loads ++ [ld], hostReply := .none }
  let s2 := lanes.foldl (fun s l => if l.place.isPeer then s else s.arriveLane ld.key l.lane (.value 0) false) s1
  match s2.load? ld.key with
  | some ld => s2.hostGives ld
  | none => s2
/-- HOST_WINDOW_READ: the bytes, once every earlier write without Relaxed Ordering is performed; or Unsupported Request. -/
def execHostWindowRead (off n : Nat) (s : State) : Host.Outcome State Fault Refusal :=
  .next (match s.window off n false with
  | none => { s with hostReply := .unsupported }
  | some (c, va) => match s.hostRuns c needR va n with
    | none => { s with hostReply := .unsupported }
    | some rs =>
      if s.hostWrites then s
      else s.hostAccess c .load .w8 (rs.flatMap fun r => (List.range r.2.2).map fun i =>
        LoadLane.issue (r.2.1 + i - va) (r.2.1 + i) (r.1.plus i) false false))
/-- A posted write of the host: in arrival order behind the earlier ones, or with Relaxed Ordering in no order; here it is performed at once where the order allows it, and at a peer it waits for its acknowledgement. -/
def State.hostPost (s : State) (c : Ctx) (relaxed : Bool) (p : Place) (va : Nat) (bs : List Byte) : State :=
  let id : TeamId := if relaxed then { gid := 0, idx := 100 + s.nextKey } else hostId
  let k := s.nextKey
  let s1 := s.postBy id c.slot va p bs (if relaxed then none else some .pod)
  if p.isPeer then s1 else s1.ackPost k
/-- HOST_WINDOW_WRITE: posted, or discarded with an Advanced Error Reporting entry. -/
def execHostWindowWrite (off : Nat) (data : List Byte) (relaxed : Bool) (s : State) : Host.Outcome State Fault Refusal :=
  .next (match s.window off data.length true with
  | none => { s with aer := s.aer + 1 }
  | some (c, va) => match s.hostRuns c needW va data.length with
    | none => { s with aer := s.aer + 1 }
    | some rs => rs.foldl (fun s r => s.hostPost c relaxed r.1 r.2.1 ((data.drop (r.2.1 - va)).take r.2.2))
        (s.noteSave c.slot va data.length))
/-- HOST_ATOMICOP: one step at the home, a release at pod scope, once every earlier write without Relaxed Ordering is performed; the old value is the reply. -/
def execHostAtomicop (off : Nat) (wide : Bool) (op : HostAtom) (x cmp : Word) (s : State) : Host.Outcome State Fault Refusal :=
  let n := if wide then 8 else 4
  .next (match (if off % n = 0 then s.window off n true else none) with
  | none => { s with hostReply := .unsupported }
  | some (c, va) => match s.translate c false needRW va with
    | .error _ => { s with hostReply := .unsupported }
    | .ok p =>
      if s.hostWrites || s.loads.any (fun ld => ld.team == hostId) then s
      else
        let aop : AtomOp := match op with
          | .fetchAdd => .add
          | .swap => .xchg
          | .cas => .cas
        (s.noteSave c.slot va n).hostAccess c (.atom aop) (if wide then .w64 else .w32)
          [{ LoadLane.issue 0 va p.place false false with x := x.toNat % 2 ^ (8 * n), c := cmp.toNat % 2 ^ (8 * n) }])

/-! ### The health blocks of the hbms (R329, R330) -/

def State.stackAt (s : State) (k : Nat) : Stack := s.hbms.get Stack.init k
def State.modStack (s : State) (k : Nat) (f : Stack → Stack) : State := { s with hbms := s.hbms.set Stack.init k (f (s.stackAt k)) }
/-- A stack's block can be reached (R386). -/
def State.stackOk (s : State) (k : Nat) : Bool := decide (k < 8) && decide (3 ≤ s.stage)
/-- HROWCFG_WRITE: RAAT of 64 to 4,096. -/
def execHrowcfgWrite (k : Nat) (x : Word) (s : State) : Host.Outcome State Fault Refusal :=
  .next (if !s.stackOk k then s
  else s.modStack k fun h => { h with raat := max 64 (min 4096 (bitsAt x.toNat 0 13)) })
/-- EYESEL_WRITE: a lane above 2,111 is ignored. -/
def execEyeselWrite (k : Nat) (x : Word) (s : State) : Host.Outcome State Fault Refusal :=
  let lane := bitsAt x.toNat 0 12
  .next (if !s.stackOk k ∨ 2111 < lane then s else s.modStack k fun h => { h with eyesel := lane })
/-- The key of a row's activation count. -/
def rowKey (bank row : Nat) : Nat := 2 ^ 20 * bank + row % 2 ^ 20
/-- A precharge raises a row's count; as it reaches RAAT the stack raises an alert, its bank's requests are held for 369 cycles, and the neighbour rows are refreshed (R329). -/
def Stack.precharge (h : Stack) (now bank row : Nat) : Stack :=
  let n := h.acts.get 0 (rowKey bank row) + 1
  let acts := h.acts.set 0 (rowKey bank row) n
  let neighbours := (if row = 0 then [] else [row - 1]) ++ if row + 1 < 2 ^ 20 then [row + 1] else []
  if n ≠ h.raat then { h with acts }
  else { h with
    acts := neighbours.foldl (fun m r => SMap.set 0 m (rowKey bank r) 0) acts,
    alerts := sat 32 (h.alerts + 1), backoff := h.backoff.set 0 bank (now + 369) }
/-- ROW_ACTIVATION_ALERT: a row of a bank is precharged, which may raise the alert, or is refreshed (R329; log 69). -/
def execRowActivationAlert (k : Nat) (x : RowTurn) (s : State) : Host.Outcome State Fault Refusal :=
  .next (if !s.stackOk k then s
  else s.modStack k fun h => if x.refresh then { h with acts := h.acts.set 0 (rowKey x.bank x.row) 0 } else h.precharge s.clk x.bank x.row)
/-- A lane's margin lies below a threshold while the lane carries data. -/
def Stack.lowLane (h : Stack) (lane : Nat) : Bool :=
  let e := h.eyes.get Eye.none lane
  e.inUse && (decide (e.v < h.vthr) || decide (e.h < h.hthr))
/-- EYE_MARGIN_LOW: LOW, the health vector, and the request to the management processor to retrain or replace the lane. -/
def execEyeMarginLow (k lane : Nat) (s : State) : Host.Outcome State Fault Refusal :=
  .next (if !s.stackOk k || !(s.stackAt k).lowLane lane then s
  else
    let s1 := (s.modStack k fun h => { h with low := true }).raiseMsi 2
    { s1 with retrains := if s1.retrains.contains (k, lane) then s1.retrains else s1.retrains ++ [(k, lane)] })
/-- EYE_MARGIN_MEASUREMENT: what EYEDAT returns for the lane. -/
def execEyeMarginMeasurement (k lane : Nat) (v h : Byte) (inUse : Bool) (s : State) : Host.Outcome State Fault Refusal :=
  .next (if !s.stackOk k ∨ 2111 < lane then s
  else s.modStack k fun b => { b with eyes := b.eyes.set Eye.none lane { v := v.toNat, h := h.toNat, inUse } })

/-! ### The registers of BAR 0 (R6, R329, R330, R356, R373, R387, R390) -/

/-- A write of MBCMD: the command is submitted, or answered BUSY (R390). -/
def State.submit (s : State) (x : Word) : State :=
  let code := bitsAt x.toNat 0 8
  let seq := bitsAt x.toNat 16 16
  let m := s.mailbox
  match m.pending with
  | some _ =>
    { s with mailbox := { m with cmd := BitVec.ofNat 64 (seq * 2 ^ 16 + code), rsp := BitVec.ofNat 64 (seq * 2 ^ 16 + 2) } }.raiseMsi 0
  | none =>
    let c : MbCmd := { code, seq, args := (List.range 8).map fun i => m.arg.get 0 i }
    { s with mailbox := { m with cmd := BitVec.ofNat 64 (seq * 2 ^ 16 + code), pending := some c } }
/-- REGISTER_WRITE: a register of BAR 0 without a row of its own, by its access codes; any other offset keeps its value. -/
def execRegisterWrite (off : Nat) (x : Word) (s : State) : Host.Outcome State Fault Refusal :=
  let k := (off - 0x100000) / 0x1000
  let o := off % 0x1000
  .next (if s.stage < 2 ∨ off % 8 ≠ 0 then s
  else if off = 0x1000 then s.submit x
  else if 0x1008 ≤ off ∧ off ≤ 0x1040 then
    { s with mailbox := { s.mailbox with arg := s.mailbox.arg.set 0 ((off - 0x1008) / 8) x } }
  else if off = 0x1F08 then { s with nrseq := x.toNat % 2 ^ 32 }
  else if 0x10000 ≤ off ∧ off < 0x20000 then { s with staging := writeMap s.staging (off - 0x10000) (leBytes 8 x.toNat) }
  else if 0x100000 ≤ off ∧ off < 0x108000 ∧ s.stackOk k = true then
    if o = 0x20 then s.modStack k fun h => { h with vthr := bitsAt x.toNat 8 8, hthr := bitsAt x.toNat 0 8 }
    else if o = 0x28 then s.modStack k fun h => { h with low := h.low && !x.getLsbD 0 }
    else s
  else s)
/-- What a read of a register of BAR 0 returns. -/
def State.bar0 (s : State) (off : Nat) : Word :=
  let w := fun (x : Nat) => BitVec.ofNat 64 x
  let k := (off - 0x100000) / 0x1000
  let h := s.stackAt k
  let e := h.eyes.get Eye.none h.eyesel
  if off = 0 then w (s.firmware.serial % 2 ^ 32 * 2 ^ 32 + 0x24B8 * 2 ^ 16 + s.firmware.version % 2 ^ 16)
  else if off = 8 then w (s.fwerr * 2 ^ 8 + b2n s.fail * 2 ^ 3 + s.stage)
  else if off = 0x1000 then s.mailbox.cmd
  else if 0x1008 ≤ off ∧ off ≤ 0x1040 then s.mailbox.arg.get 0 ((off - 0x1008) / 8)
  else if off = 0x1080 then s.mailbox.rsp
  else if off = 0x1F00 then w s.nwseq
  else if off = 0x1F08 then w s.nrseq
  else if 0x2000 ≤ off ∧ off < 0x4000 then s.ring.get 0 ((off - 0x2000) / 8)
  else if 0x10000 ≤ off ∧ off < 0x20000 then w (fromBytes (readMap s.staging (off - 0x10000) 8))
  else if 0x100000 ≤ off ∧ off < 0x108000 then
    (match off % 0x1000 with
    | 0x00 => w h.raat
    | 0x08 => w (h.alerts * 2 ^ 32 + h.cecnt)
    | 0x10 => w h.eyesel
    | 0x18 => w (b2n e.inUse * 2 ^ 16 + e.v * 2 ^ 8 + e.h)
    | 0x20 => w (h.vthr * 2 ^ 8 + h.hthr)
    | 0x28 => w (b2n h.low)
    | _ => 0)
  else if 0x200000 ≤ off ∧ off < 0x201000 ∧ off % 0x100 = 0 then s.pstat ((off - 0x200000) / 0x100)
  else if 0x300000 ≤ off ∧ off < 0x300400 then
    let x := s.hwins.get HWin.off ((off - 0x300000) / 16)
    if off % 16 = 0 then w (x.ctx * 2 ^ 48 + x.size * 2 ^ 16 + b2n x.w * 2 + b2n x.en) else w x.vbase
  else 0

end Sys2Proof.Machine
end

