-- ==== Sys2Proof/Machine/Health.lean ====
section
/-! DEFINITION. Start-up, resets, errors and harvest, thermal and power clamps, and the power-down of routers (R17, R21, R332, R361, R386-R389, R392-R394). -/

namespace Sys2Proof.Machine

/-! ### Routers (R17) -/

/-- ROUTER_POWER_DOWN: empty buffers and 4,096 MSU cycles without a packet. -/
def execRouterPowerDown (d r : Nat) (s : State) : Host.Outcome State Fault Refusal :=
  .next (if 4 ≤ d ∨ 98 ≤ r ∨ s.msuNow < (s.dieAt d).idleSince.get 0 r + 4096 ∨ s.passing d r ≠ 0 then s
  else s.modDie d fun x => { x with down := x.down.set false r true })
/-- ROUTER_WAKE: a packet arrives; a fresh idle count starts. -/
def execRouterWake (d r : Nat) (s : State) : Host.Outcome State Fault Refusal :=
  .next (if 4 ≤ d ∨ 98 ≤ r then s
  else s.modDie d fun x => { x with down := x.down.set false r false, idleSince := x.idleSince.set 0 r s.msuNow })

/-! ### Resets (R332, R361, R386, R389) -/

/-- What a reset leaves: the fuses, the incarnation, flash, the recorded errors and harvests, and what is still to be done; nothing else (R386). From here on no rank has a path (R362). -/
def State.afterReset (s : State) : State :=
  { State.reset with
    pathless := (List.range s.podSize).foldl (fun m r => if r = s.rank then m else SMap.set none m r (some (s.clk, []))) [],
    rank := s.rank, podSize := s.podSize, spare := s.spare, incarnation := (s.incarnation + 1) % 256,
    firmware := { s.firmware with romOnly := false }, errors := s.errors, harvest := s.harvest,
    partitionLosses := s.partitionLosses, clk := s.clk, nextKey := s.nextKey, agenda := s.agenda }
/-- RESET. -/
def execReset (s : State) : Host.Outcome State Fault Refusal := .next s.afterReset
/-- JUNCTION_SHUTDOWN: a reset, after which the boot ROM runs (R389). -/
def execJunctionShutdown (s : State) : Host.Outcome State Fault Refusal :=
  .next (if s.stage = 0 then s else { s.afterReset with stage := 1 })
/-- The partition is lost: every core stops, every context goes without records, and only the cast-on stage is left; the event is recorded, and reported with the message of vector 2 (R332; DESIGN CHOICE, log 75: no register and no message is named). -/
def State.losePartition (s : State) : State :=
  if s.stage < 2 then s
  else
    State.raiseMsi (v := 2) { s.afterReset with
      incarnation := s.incarnation, stage := 2, partitionLost := true, partitionLosses := s.partitionLosses + 1,
      mailbox := { s.mailbox with reports := s.mailbox.reports + 1 },
      staging := s.staging, firmware := s.firmware, fwerr := s.fwerr, msix := s.msix, hostReply := s.hostReply, ring := s.ring,
      nwseq := s.nwseq, nrseq := s.nrseq, fused := s.fused }
/-- HEADER_CRC_FAIL. -/
def execHeaderCrcFail (s : State) : Host.Outcome State Fault Refusal := .next s.losePartition

/-! ### Start-up (R21, R315, R386-R388) -/

/-- POWER_GOOD: the boot ROM runs. -/
def execPowerGood (s : State) : Host.Outcome State Fault Refusal := .next (if s.stage = 0 then { s with stage := 1 } else s)
/-- Cast-on: the active slot, else the other one, else the ROM alone; MSUs that a harvest names are fused out. -/
def State.castOn (s : State) : State :=
  let f := s.firmware
  let c1 := f.check f.activeB
  let c2 := f.check (!f.activeB)
  let s1 : State := { s with
    fused := s.harvest.filterMap fun u => match u with
      | .msu m | .bank m => some m
      | _ => none }
  if c1 = 0 then { s1 with firmware := { f with version := f.versionOf f.activeB } }
  else if c2 = 0 then { s1 with fwerr := c1, firmware := { f with version := f.versionOf (!f.activeB) } }
  else
    let e := if f.activeB then (c2, c1) else (c1, c2)
    { s1 with fwerr := 16 * e.1 + e.2, firmware := { f with romOnly := true } }
/-- The ways of a die's last-level TLB that harvests have taken out of use (R392). -/
def State.tlbHarvests (s : State) (d : Nat) : Nat := (s.harvest.filter fun u => u == .dieTlb d).length
/-- The cores that a self-test has failed are harvested, each with the message of vector 2; logical core n maps to physical core n, $clk starts, and what was harvested before stays out of use. -/
def State.startCores (s : State) (cores : List Nat) : State :=
  let bad := (cores.filter fun c => decide (c < 1152) && !s.harvest.contains (.core c)).eraseDups
  let harvest := s.harvest ++ bad.map ErrUnit.core
  let s1 : State := { s with
    harvest, coreMap := [], clkBase := s.clk,
    outOfService := (harvest.flatMap unitCores).foldl (fun m c => SMap.set false m c true) [] }
  (List.range 4).foldl (fun s d => s.modDie d fun x => { x with lostWays := s1.tlbHarvests d }) (bad.foldl (fun s _ => s.raiseMsi 2) s1)
/-- The division of the die scratchpads by the firmware: the upper part of each is a multiple of 2 MiB (R315). -/
def State.divide (s : State) (low : List Nat) : State :=
  { s with splits := (low.take 4).zipIdx.foldl (fun m p =>
      if p.1 ≤ scratchSize ∧ (scratchSize - p.1) % 2097152 = 0 then SMap.set 75497472 m p.2 p.1 else m) s.splits }
/-- STAGE_REACHED: the next stage, or FAIL at this one. -/
def execStageReached (ok : Bool) (harvested dieLow : List Nat) (s : State) : Host.Outcome State Fault Refusal :=
  .next (if s.stage = 0 ∨ 7 ≤ s.stage ∨ s.fail = true ∨ s.partitionLost = true ∨ s.firmware.romOnly = true then s
  else if !ok then { s with fail := true }
  else
    let s1 : State := { s with stage := s.stage + 1 }
    match s1.stage with
    | 2 => s1.castOn
    | 5 => s1.startCores harvested
    | 6 => if s.ports.all fun p => p.2.state != .training then s1 else s
    | 7 => s1.divide dieLow
    | _ => s1)

/-! ### Clamps (R389) -/

/-- Limits that the firmware asks for take the place of those in force only where they are tighter. -/
def tighten (l : Limits) (n : Option Limits) : Limits :=
  match n with
  | none => l
  | some n => { trip := min l.trip n.trip, clamp := min l.clamp n.clamp, watts := min l.watts n.watts }
/-- The package clock: where the firmware and the power clamp differ, the lower wins. -/
def State.clock (s : State) : Nat := min s.clockCap s.clockWant
/-- CLOCK_CLAMP: a quad's temperature, and what the firmware asks for in that cycle; from the limit on the quad's clock drops by 94 MHz every 10 µs, which are 9,400 cycles, down to 470 MHz, until it is below 98 °C, or 2 °C below a tighter limit (DESIGN CHOICE, log 94). -/
def execClockClamp (d q : Nat) (r : Reading) (s : State) : Host.Outcome State Fault Refusal :=
  let k := 72 * d + q
  let x := s.quadAt k
  let celsius := r.value
  let limits := tighten s.limits r.fw.limits
  let due := x.cap = 940 ∨ x.clampAt + 9400 ≤ s.clk
  .next (if s.stage = 0 ∨ 4 ≤ d ∨ 72 ≤ q then s
  else
    let s0 : State := { s with limits }
    let s1 := ((List.range 4).foldl (fun s i => s.modCore (4 * k + i) fun c => { c with celsius }) s0).modQuad k fun x =>
      { x with want := min 940 (r.fw.clock.getD x.want) }
    if celsius < limits.clamp - 2 then s1.modQuad k fun x => { x with cap := 940 }
    else if (limits.clamp ≤ celsius ∨ x.cap < 940) ∧ due then s1.modQuad k fun x => { x with cap := max 470 (x.clock - 94), clampAt := s.clk }
    else s1)
/-- POWER_CLAMP: the module's power, and what the firmware asks for in that cycle; above the limit the package clock drops by 94 MHz, and on until the power is below it. -/
def execPowerClamp (r : Reading) (s : State) : Host.Outcome State Fault Refusal :=
  let limits := tighten s.limits r.fw.limits
  .next (if s.stage = 0 then s
  else
    let s1 : State := { s with limits, clockWant := min 940 (r.fw.clock.getD s.clockWant) }
    if limits.watts < r.value ∨ (r.value = limits.watts ∧ s.clockCap < 940) then { s1 with clockCap := s1.clock - 94 } else { s1 with clockCap := 940 })

/-! ### Errors and harvest (R392, R393) -/

/-- The kill of a group by the device for a harvest, with its kill record; the spec names no cause (log 21). -/
def State.killForHarvest (s : State) (gid : Nat) : State :=
  match s.group? gid with
  | none => s
  | some g => (s.post (s.reportFor { gid, idx := 0 } g.ctx 0x01 0 0)).killGroup gid 0
/-- A harvest has taken a core out of use. -/
def State.coreGone (s : State) (p : Nat) : Bool := s.harvest.any fun u => (unitCores u).contains p
/-- An idle core in service that no harvest takes. -/
def State.idleTarget (s : State) (p : Nat) : Option Nat := (List.range 1152).find? fun x => s.idleCore x && x != p && !s.coreGone x
def State.outService (s : State) (l : Nat) : State := { s with outOfService := s.outOfService.set false l true }
/-- A migration whose target is harvested takes another idle core as its target, or its groups stay where they are (DESIGN CHOICE, log 76).
Where its source is harvested too, the number of the new target leaves service, since it will carry the source; without a new target the source's own number does, and its groups are killed. -/
def State.retarget (s : State) (p : Nat) : State :=
  match s.reserved.find? fun r => r.2 == p with
  | none => s
  | some r =>
    let gone := s.coreGone (s.pcore r.1)
    let move := fun (s : State) (t : Nat) => { s with reserved := s.reserved.map fun x => if x.1 = r.1 then (x.1, t) else x }
    match s.idleTarget p with
    | some t => let s1 := move s t; if gone then s1.outService ((s.lcoreAt t).getD r.1) else s1
    | none =>
      let s1 := move s (s.pcore r.1)
      if gone then ((s.groupsOf r.1).foldl (fun s g => s.killForHarvest g.gid) s1).outService r.1 else s1
/-- A core is harvested: its groups are migrated to an idle core, or killed; the logical core that the harvested one then carries is out of service. -/
def State.harvestCore (s : State) (p : Nat) : State :=
  let s := s.retarget p
  match s.lcoreAt p with
  | none => s
  | some l =>
    match s.reserved.find? fun r => r.1 == l && r.2 != p with
    | some r => s.outService ((s.lcoreAt r.2).getD l)
    | none =>
      let mig := fun (g : Group) => match s.kernel? g.kid with
        | some k => k.lpb.mig
        | none => false
      let target := if (s.groupsOf l).any mig then s.idleTarget p else none
      let s1 := ((s.groupsOf l).filter fun g => target.isNone || !mig g).foldl (fun s g => s.killForHarvest g.gid) s
      match target.bind fun t => (s1.migrateTo l t).map fun s2 => (t, s2) with
      | some (t, s2) => s2.outService ((s1.lcoreAt t).getD l)
      | none => s1.outService l
/-- A lasting error of a unit (R392). -/
def State.harvestUnit (s : State) (u : ErrUnit) : State :=
  let s1 := { s with harvest := s.harvest ++ [u], suspects := s.suspects.filter (· != u) }.raiseMsi 2
  match u with
  | .msu _ | .bank _ => s1.losePartition
  | .port n => s1.toPort n fun p => { p with state := .failed, lanes := 0 }
  | .channel _ => s1
  | .dieTlb d => s1.modDie d fun x => { x with lostWays := x.lostWays + 1, tlb := [] }
  | u => (unitCores u).foldl State.harvestCore s1
/-- A unit that a harvest has taken out of use; a die's TLB goes on with the ways that it has left. -/
def State.outOfUse (s : State) (u : ErrUnit) : Bool :=
  match u with
  | .dieTlb _ => false
  | u => s.harvest.contains u
/-- An error of a unit is recorded with its second; a pseudo-channel's is counted in its stack. -/
def State.recordError (s : State) (u : ErrUnit) (second : Nat) : State :=
  let s1 : State := { s with errors := s.errors ++ [(u, second)] }
  match u with
  | .channel k => s1.modStack (2 * (k / 768) + k / 32 % 24 / 12) fun h => { h with cecnt := sat 32 (h.cecnt + 1) }
  | _ => s1
/-- ERROR_SELF_TEST: an error is recorded, and the unit tested. A core or a quad is tested only while no group is resident there: until then its test waits, and the next event of the unit with no group there is that test (R392). -/
def execErrorSelfTest (u : ErrUnit) (passed : Bool) (second : Nat) (s : State) : Host.Outcome State Fault Refusal :=
  let due := s.suspects.contains u
  let before := (s.errors.filter fun e => e.1 == u && decide (second ≤ e.2 + 3600)).length
  let busy := (unitCores u).any fun p => s.groups.any fun g => g.state == .resident && s.pcore g.lcore == p
  let test := due && !busy
  .next (if s.stage < 2 ∨ s.outOfUse u = true then s
  else
    let s1 := if test then s else s.recordError u second
    if !test && decide (2 ≤ before) then s1.harvestUnit u
    else if busy then (if due then s1 else { s1 with suspects := s1.suspects ++ [u] })
    else if passed then { s1 with suspects := s1.suspects.filter (· != u) } else s1.harvestUnit u)

/-! ### Thermal trip (R394) -/

/-- The coolest idle core in service on another quad, the lowest number first. -/
def State.coolest (s : State) (p : Nat) : Option Nat :=
  ((List.range 1152).filter fun x => s.idleCore x && quadKey x != quadKey p).foldl (fun a x => match a with
    | some b => if (s.coreAt x).celsius < (s.coreAt b).celsius then some x else a
    | none => some x) none
/-- THERMAL_TRIP: a core with a resident group, one halted while Resident among them, reaches the trip's limit of 95 °C or less, and its logical core is to migrate; a refusal is reported, and a trip during its migration is ignored (R269, R277, R389). -/
def execThermalTrip (p : Nat) (s : State) : Host.Outcome State Fault Refusal :=
  .next (if s.stage = 0 ∨ 1152 ≤ p then s
  else
    let s1 := s.modCore p fun c => { c with celsius := max s.limits.trip c.celsius }
    match s1.lcoreAt p with
    | none => s1
    | some l =>
      if (s1.groupsOf l).all fun g => g.state != .resident && g.state != .halted 0 then s1
      else match s1.coolest p with
        | none => s1
        | some t => if s1.reserved.any fun r => r.1 == l then s1 else s1.requestMigration l t)

end Sys2Proof.Machine
end

