-- ==== Sys2Proof/Machine/Reshard.lean ====
section
/-! DEFINITION. Re-shard plans: the steps and runs of a plan, the progress record, RSH and the RESHARD command, and the events of a plan (R375-R385). -/

namespace Sys2Proof.Machine

/-! ### CRC-32 (R379) -/

def crcBit (x : Nat) : Nat := if x % 2 = 1 then (x / 2) ^^^ 0xEDB88320 else x / 2
def crcByte (c : Nat) (b : Byte) : Nat :=
  crcBit (crcBit (crcBit (crcBit (crcBit (crcBit (crcBit (crcBit (c ^^^ b.toNat))))))))
/-- CRC-32 with the polynomial of IEEE 802.3. -/
def crc32 (bs : List Byte) : Nat := bs.foldl crcByte 0xFFFFFFFF ^^^ 0xFFFFFFFF

/-! ### The progress record (R379) -/

def cReshardChanged := 0x58
def cReshardProgress := 0x59
def cReshardWindow := 0x5A
/-- The zero fields of words 0 to 23 and 56 to 63 are zero, and those of the WIN and BAR words that the plan uses. The low bits of a BAR are part of its address: they are examined with it (R221, R377). -/
def recZeros (ws : List Nat) (used : List Nat × List Nat) : Bool :=
  let w := fun i => nth 0 ws i
  bitsAt (w 0) 16 16 == 0 && bitsAt (w 0) 3 5 == 0 && bitsAt (w 1) 16 16 == 0 && decide (w 2 < 2 ^ 32)
    && (List.range 5).all (fun i => w (3 + i) == 0) && (List.range 16).all (fun p => bitsAt (w (8 + p)) 48 6 == 0)
    && (List.range 8).all (fun i => w (56 + i) == 0)
    && (used.1.all fun p => decide (w (24 + p) < 2 ^ 57)) && used.2.all fun p => decide (w (40 + p) < 2 ^ 57)
def recState (ws : List Nat) : Nat := nth 0 ws 0 % 8
def State.plan? (s : State) (k : Nat) : Option Plan := s.plans.find? fun p => p.key == k
def State.modPlan (s : State) (k : Nat) (f : Plan → Plan) : State :=
  { s with plans := s.plans.map fun p => if p.key = k then f p else p }
/-- The engine's request for bytes of this package travels from link die 1, and recalls leases (R14, R167). -/
def State.planGoes (s : State) (p : Place) (n : Nat) : State := (s.requestAll (linkUnit 1) p n).recallFor (linkUnit 1) p n
/-- A word of the record written by the engine, at its home here or on a peer. -/
def State.recPut (s : State) (p : Plan) (i x : Nat) : State :=
  let s1 := match s.linkPlace p.ctx (p.rec_ + 8 * i) needW with
    | some pl => (s.planGoes pl 8).deviceWrite p.ctx (p.rec_ + 8 * i) pl (leBytes 8 x) (some .pod)
    | none => s
  s1.modPlan p.key fun p => { p with words := p.words.set i x }
/-- Word 0 with STATE and CAUSE. -/
def State.putState (s : State) (p : Plan) (st cause : Nat) : State :=
  s.recPut p 0 (p.dst * 2 ^ 48 + p.src * 2 ^ 32 + cause % 256 * 2 ^ 8 + st)
/-- Bytes of a step acknowledged, as a prefix in run order. -/
def PlanStep.done (t : PlanStep) : Nat :=
  let n := (List.range (t.runs - t.first)).foldl (fun (a : Nat) i => if a = i ∧ t.acked.contains (t.first + i) then a + 1 else a) 0
  if t.skip then t.size else if t.runs = 0 then 0 else (t.first + n) * (t.size / t.runs)
def PlanStep.complete (t : PlanStep) : Bool :=
  t.skip || ((List.range (t.runs - t.first)).all fun i => t.acked.contains (t.first + i))
/-- The PROG word of a step. -/
def PlanStep.prog (t : PlanStep) : Nat :=
  t.inc % 256 * 2 ^ 56 + b2n t.started * 2 ^ 55 + b2n t.complete * 2 ^ 54 + t.index % 2 ^ 16 * 2 ^ 32 + t.done % 2 ^ 32
/-- The incarnation of a package as this one knows it. -/
def State.incOf (s : State) (p : Nat) : Nat := if p = s.rank then s.incarnation else (s.peerInc.get none p).getD 0

/-! ### Acceptance (R381, R383-R385) -/

/-- What a check of R383 finds: nothing to do, a new or a resumed plan, or a fault with its $faddr. -/
inductive PlanCheck where
  | new
  | resume
  | completed
  | fault (cause addr : Nat)
  deriving DecidableEq, Repr

/-- The bytes that this package expects: the steps whose destination it is. -/
def State.expBytes (s : State) (r : PlanReq) : Nat :=
  sumOf ((planBoxes r.t1 r.t2).map fun b => if r.t2.peer b.md = s.rank then b.bytes r.t1.elemBits else 0)
/-- The conditions of R384 with the handle that breaks each. -/
def State.planCond (s : State) (r : PlanReq) : Option Nat :=
  let each := fun (bad : Tlr → Bool) => if bad r.t1 then some r.src else if bad r.t2 then some r.dst else none
  let mx := fun (t : Tlr) => match t.fmt with
    | some f => f.isMx || f == .q4
    | none => true
  let sub := fun (t : Tlr) => decide (t.elemBits < 8) && t.lext 0 % (8 / t.elemBits) != 0
  let same := r.t1.fmtCode == r.t2.fmtCode && r.t1.rank == r.t2.rank && (List.range 6).all fun d => r.t1.ext d == r.t2.ext d
  (each fun t => t.nax == 0).orElse fun _ => (if same then none else some r.dst).orElse fun _ =>
    (each mx).orElse fun _ => (each sub).orElse fun _ =>
      if (planBoxes r.t1 r.t2).all (fun b => decide (b.bytes r.t1.elemBits < 2 ^ 31)) && decide (s.expBytes r < 2 ^ 31) then none
      else some r.dst
/-- BAR[self] passes R221 as a .g object of pod scope: its physical address. -/
def State.barSelf (s : State) (slot va : Nat) : Option Nat :=
  match s.ctx? slot with
  | none => none
  | some c => match s.translate c false needRW va with
    | .ok { pte, place := .phys a } => if va % 16 = 0 ∧ pteKind pte = 1 then some a else none
    | _ => none
/-- Both records name a mesh and one shape, so that R375 gives the steps. -/
def PlanReq.shaped (r : PlanReq) : Bool :=
  r.t1.nax != 0 && r.t2.nax != 0 && r.t1.rank == r.t2.rank && (List.range 6).all fun d => r.t1.ext d == r.t2.ext d
/-- The packages whose WIN and whose BAR the plan uses: those that it sends to, and for BAR this one where it expects bytes. Of records that give no steps it uses none (DESIGN CHOICE, log 82). -/
def State.planUses (s : State) (r : PlanReq) : List Nat × List Nat :=
  let out := if r.shaped then ((planBoxes r.t1 r.t2).filter fun b => r.t1.peer b.ms == s.rank).map (fun b => r.t2.peer b.md) else []
  (out, out ++ if r.shaped && s.expBytes r != 0 then [s.rank] else [])
/-- Checks 4 to 6 of R383. -/
def State.planCheck (s : State) (r : PlanReq) : PlanCheck :=
  let ws := r.words
  let st := recState ws
  let named := bitsAt (nth 0 ws 0) 32 16 == r.src && bitsAt (nth 0 ws 0) 48 16 == r.dst
  let progress := PlanCheck.fault cReshardProgress r.rec_
  if st = 0 then
    if !(List.range 24).all fun i => nth 0 ws i == 0 then progress
    else if !recZeros ws (s.planUses r) then progress
    else match s.planCond r with
      | some h => .fault cTensorRecord h
      | none =>
        if s.expBytes r ≠ 0 ∧ s.barSelf r.ctx (nth 0 ws (40 + s.rank)) = none then .fault cBarState r.rec_
        else .new
  else if (st = 2 ∨ st = 3) ∧ named = true ∧ recZeros ws (s.planUses r) = true then (if st = 2 then .resume else .completed)
  else progress

/-- The steps that this package sends, as R375 gives them and R380 resumes them with the incarnations known now. -/
def State.planSteps (s : State) (p : Plan) : List PlanStep :=
  let rows := rowRuns p.t1 p.t2
  let bits := Tlr.elemBits p.t1
  ((planBoxes p.t1 p.t2).zipIdx.filter fun x => Tlr.peer p.t1 x.1.ms == s.rank).map fun x =>
    let b := x.1
    let pkg := Tlr.peer p.t2 b.md
    let size := b.bytes bits
    let per := b.runElems rows * bits / 8
    let w := if p.resumed then p.word (8 + pkg) else 0
    let kept := w.testBit 55 && bitsAt w 56 8 == s.incOf pkg
    { index := x.2, ms := b.ms, md := b.md, pkg, lo := b.lo, hi := b.hi, size, runs := size / max 1 per,
      first := if kept then bitsAt w 0 32 / max 1 per else 0, sent := 0, acked := [], denied := [],
      skip := kept && w.testBit 54, started := w.testBit 55, inc := bitsAt w 56 8, gone := false }
/-- A plan as its request is accepted (R383): Computing, with STATE 1 in the record and the CAUSE of an earlier stop kept. -/
def State.acceptPlan (s : State) (a : PlanAsk) (resume : Bool) : State :=
  let r := a.req
  let exp := s.expBytes r
  let bs := fun (t : Tlr) => t.flatMap (leBytes 8)
  let p : Plan :=
    { key := s.nextKey, ctx := r.ctx, rec_ := r.rec_, src := r.src, dst := r.dst, t1 := r.t1, t2 := r.t2, words := r.words,
      state := .computing, team := a.team, seq := a.seq, num := if a.cmd.isSome then 0 else s.tlNext a.team.gid 21, core := a.core,
      kid := a.kid, cmd := a.cmd, hdr := a.hdr, resumed := resume, phash := crc32 (bs r.t1 ++ bs r.t2), steps := [],
      total := (planBoxes r.t1 r.t2).length, expb := exp,
      bar := if resume || exp == 0 then none else s.barSelf r.ctx (nth 0 r.words (40 + s.rank)), cause := 0, code := 0,
      lost := false, changed := false }
  let s0 := if a.cmd.isSome then s else s.tlTake a.team.gid 21
  let s1 := if a.cmd.isSome || a.entered then s0 else s0.outUp a.core a.kid
  State.putState { s1.bump with plans := s1.plans ++ [p], asks := s1.asks.filter fun x => x.key != a.key } p 1 (bitsAt (p.word 0) 8 8)
/-- The record of a request belongs to a plan that the engine holds, or that waits before it with every check passed. -/
def State.planBusy (s : State) (a : PlanAsk) : Bool :=
  (s.plans.any fun p => p.ctx == a.req.ctx && p.rec_ == a.req.rec_)
    || s.asks.any fun b => b.req.ctx == a.req.ctx && b.req.rec_ == a.req.rec_ && b.checked.isSome && b.key != a.key
/-- The engine has room for a plan, and the core an entry for its count (R292, R383). -/
def State.planRoom (s : State) (a : PlanAsk) : Bool :=
  decide ((s.plans.filter fun p => p.state != .abandoned).length < 8) && (a.cmd.isSome || a.entered || s.outOk a.core a.kid)
def State.dropAsk (s : State) (a : PlanAsk) : State := { s with asks := s.asks.filter fun x => x.key != a.key }
def State.putAsk (s : State) (a : PlanAsk) : State := { s.dropAsk a with asks := (s.dropAsk a).asks ++ [a] }
/-- A request of a team waits for room in WAI: it is counted where an entry is free (R48, R292), and what it will expect at BAR[self] comes before its team's later operations there (R384). -/
def State.waitAsk (s : State) (a : PlanAsk) (resume : Bool) : State :=
  let counts := a.cmd.isNone && !a.entered && s.outOk a.core a.kid
  (if counts then s.outUp a.core a.kid else s).putAsk { a with
    checked := some resume, entered := a.entered || counts,
    bar := if resume || s.expBytes a.req == 0 then none else s.barSelf a.req.ctx (nth 0 a.req.words (40 + s.rank)) }
/-- What becomes of a request from check 4 on: it waits for its record, fails, is complete already, or is accepted or waits for room. -/
inductive AskOut where
  | busy (s : State)
  | fault (s : State) (cause addr : Nat)
  | completed (s : State)
  | accepted (s : State)
  | waits (s : State)
def State.ask (s : State) (a : PlanAsk) : AskOut :=
  let go := fun (resume : Bool) =>
    if s.planRoom a then AskOut.accepted (s.acceptPlan a resume) else .waits (s.waitAsk a resume)
  if s.planBusy a then .busy (s.putAsk a)
  else match a.checked with
    | some resume => go resume
    | none => match s.planCheck a.req with
      | .fault c x => .fault (s.dropAsk a) c x
      | .completed => .completed (s.dropAsk a)
      | .new => go false
      | .resume => go true
/-- A request that waits for room with every check passed is accepted once there is room. -/
def State.acceptAsk (s : State) (k : Nat) : State :=
  match s.asks.find? fun a => a.key == k && a.checked.isSome && a.cmd.isNone with
  | some a => match s.ask a with
    | .accepted s1 | .waits s1 => s1
    | _ => s
  | none => s
/-- RSH from check 4 on (R383): its team stands at it while its record is busy, and goes on while it waits for room (R48). -/
def State.rshAsk (s : State) (a : PlanAsk) : Eff :=
  match s.ask a with
  | .busy s1 => .hold s1
  | .fault s1 c x => .trap s1 (Trap.of c x)
  | .completed s1 => .next ((s1.tlTake a.team.gid 21).tlFinish a.team.gid 21 (s1.tlNext a.team.gid 21))
  | .accepted s1 | .waits s1 => .next s1
/-- The words of a record that a request has read. -/
def PlanAsk.give (a : PlanAsk) (ws : List Nat) : PlanAsk := { a with req := { a.req with words := ws }, reread := false }
/-- The record's words as its address gives them at an RSH, or the fault of the read. -/
def State.readRecord (s : State) (rec_ : Nat) (k : State → List Nat → Eff) : Eff :=
  match s.readFirst needRW rec_ 512 with
  | .error tr => s.readTrap { tr with addr := rec_ }
  | .ok (s1, none) => .hold s1
  | .ok (s1, some ld) => match ld.lanes.find? fun l => l.bad.isSome with
    | some l => s1.readTrap (Trap.of (l.bad.getD cPoisoned) rec_)
    | none => k s1 (ld.lanes.map LoadLane.value)
/-- RSH (R383): where it stood at a busy record, it goes on from check 4 with the record as the plan left it. -/
def execRsh (o : TwoOps) (s : State) : Host.Outcome State Fault Refusal :=
  finish (s.teamOp o.g [(2, o.a.val), (3, o.b.val)] fun s =>
    let t := s.cur
    let x := (t.sval o.a).toNat
    let rec_ := (t.sval o.b).toNat
    let src := bitsAt x 0 16
    let dst := bitsAt x 16 16
    match s.asks.find? fun a => a.team == t.id && a.seq == t.seq && a.cmd.isNone with
    | some a => if a.reread then s.readRecord rec_ fun s1 ws => s1.rshAsk (a.give ws) else s.rshAsk a
    | none =>
      if rec_ % 512 ≠ 0 then .trap s (Trap.of cMisaligned rec_)
      else s.readRecord rec_ fun s1 ws => match s1.tlr src, s1.tlr dst with
        | .error tr, _ => .trap s1 tr
        | .ok _, .error tr => .trap s1 tr
        | .ok t1, .ok t2 =>
          let s2 := (s1.cacheHandle src).cacheHandle dst
          s2.bump.rshAsk
            { key := s2.nextKey, team := t.id, seq := t.seq, core := s.coreOf t.id.gid, kid := s.kidOf t, hdr := s.hdrOf t.id, cmd := none,
              req := { ctx := s.ctxOf t, rec_, src, dst, t1, t2, words := ws }, checked := none, entered := false, bar := none, reread := false })
/-- The 512 bytes of a progress record read for a command (R385). -/
def State.cmdRead (s : State) (key slot rec_ : Nat) (k : State → List Nat → State) : State :=
  match s.devFetch slot (linkUnit 1) (cmdTag key) rec_ 512 needRW with
  | .due s1 => s1
  | .fail s1 f => s1.doneCmd key 7 f.cause
  | .bad s1 cause => s1.doneCmd key 7 cause
  | .words s1 ws => k s1 ws
/-- RESHARD: the checks and the acceptance of RSH in the context of the queue (R385). -/
def execReshard (key : Nat) (s : State) : Host.Outcome State Fault Refusal :=
  .next (s.runCmd key 7 fun c _ =>
    let src := bitsAt (c.word 5) 0 16
    let dst := bitsAt (c.word 5) 16 16
    let rec_ := c.word 6
    let go := fun (s : State) (a : PlanAsk) => match s.ask a with
      | .busy s1 | .waits s1 => s1
      | .fault s1 cause _ => s1.doneCmd key 7 cause
      | .completed s1 => s1.doneCmd key 0 0
      | .accepted s1 => s1.startCmd key
    match s.asks.find? fun a => a.cmd == some key with
    | some a => if a.reread then s.cmdRead key c.ctx rec_ fun s1 ws => go s1 (a.give ws) else go s a
    | none =>
      if rec_ % 512 ≠ 0 then s.doneCmd key 7 cMisaligned
      else s.cmdRead key c.ctx rec_ fun s1 ws => match s1.tlrCheck 4096 c.ctx src, s1.tlrCheck 4096 c.ctx dst with
        | .error tr, _ => s1.doneCmd key 7 tr.cause
        | _, .error tr => s1.doneCmd key 7 tr.cause
        | .ok t1, .ok t2 =>
          go s1.bump { key := s1.nextKey, team := deviceId, seq := s1.nextKey, core := linkUnit 1, kid := 0, hdr := ReqHdr.nobody, cmd := some key,
                       req := { ctx := c.ctx, rec_, src, dst, t1, t2, words := ws }, checked := none, entered := false, bar := none, reread := false })

/-! ### The events of a plan (R377, R380, R381) -/

/-- A plan is over: its number, its count or its command, and its place in the engine; a request that waits for its record reads it again (R383, R385). -/
def State.leavePlan (s : State) (p : Plan) : State :=
  let asks := s.asks.map fun a =>
    if a.req.ctx = p.ctx ∧ a.req.rec_ = p.rec_ ∧ a.checked = none then { a with reread := true } else a
  let s1 : State := { s with plans := s.plans.filter fun x => x.key != p.key, asks }
  match p.cmd with
  | some c => s1.setStatus c p.code (if p.code = 0 then 0 else p.cause)
  | none => (s1.tlFinish p.team.gid 21 p.num).outDown p.core p.kid
/-- Words of the record are on their way to a peer. -/
def State.recPosted (s : State) (p : Plan) : Bool :=
  s.posts.any fun q => q.team == deviceId && q.ctx == p.ctx && q.writes.any fun w => decide (p.rec_ ≤ w.va) && decide (w.va < p.rec_ + 512)
/-- A plan ends once its record's final words are written (R385). -/
def State.endPlan (s : State) (k code cause : Nat) : State :=
  match s.plan? k with
  | none => s
  | some p =>
    let p := { p with state := PlanState.ending, code, cause }
    if s.recPosted p then s.modPlan k fun _ => p else s.leavePlan p
/-- A plan has sent and heard everything: STATE 3, the CAUSE of an earlier stop kept. -/
def State.completePlan (s : State) (p : Plan) : State :=
  (s.putState p 3 (bitsAt (p.word 0) 8 8)).endPlan p.key 0 0
/-- What a new plan expects is raised at BAR[self] (R381, R384). -/
def State.raiseExp (s : State) (p : Plan) : State :=
  match p.bar with
  | none => s
  | some a => ((((s.planGoes (.phys a) 16).barOp (.phys a) p.hdr p.ctx (p.word (40 + s.rank)) (.expect false p.expb))).1).modPlan p.key fun p => { p with bar := none }
/-- PLAN_COMPUTE. -/
def execPlanCompute (k : Nat) (s : State) : Host.Outcome State Fault Refusal :=
  .next (match s.plan? k with
  | none => s
  | some p =>
    if p.state ≠ .computing then s
    else if p.resumed && bitsAt (p.word 1) 32 32 != p.phash then
      ((s.putState p 4 cReshardChanged).post (Report.from_ p.hdr p.ctx 0x09 cReshardChanged p.rec_)).endPlan k 7 cReshardChanged
    else
      let s1 := if p.resumed then s.putState p 1 (bitsAt (p.word 0) 8 8)
        else (((s.recPut p 1 (p.phash * 2 ^ 32 + p.total % 2 ^ 16)).recPut p 2 p.expb).putState p 1 0).raiseExp p
      let s2 := s1.modPlan k fun p => { p with state := .running, steps := s.planSteps p }
      match s2.plan? k with
      | some q => if q.steps.all PlanStep.complete then s2.completePlan q else s2
      | none => s2)
/-- Why a run cannot be sent: the cause, and the access, reason and address of a notice. -/
structure RunFail where
  cause : Nat
  acc : Nat
  why : Nat
  va : Nat
  deriving DecidableEq, Repr
/-- The pages of a range, each held against a condition on its place. -/
def State.runPages (s : State) (c : Ctx) (need : Need) (acc va n : Nat) (ok : Xlat → Bool) : Option RunFail :=
  (unitsOf 65536 va n).findSome? fun u =>
    let a := max va (65536 * u)
    match s.translate c false need a with
    | .error f => some { cause := if f.cause = cFabricTarget then cReshardWindow else f.cause, acc, why := f.why, va := a }
    | .ok x => if ok x then none else some { cause := cReshardWindow, acc, why := 0, va := a }
/-- The checks of R377. -/
def State.runCheck (s : State) (c : Ctx) (t : PlanStep) (r : Run) : Option RunFail :=
  let self := t.pkg == s.rank
  let isPeer := fun (x : Xlat) => match x.place with
    | .peer q _ => q == t.pkg
    | _ => false
  let barOk := fun (x : Xlat) => r.bar % 16 == 0 && match x.place with
    | .peer q a => !self && q == t.pkg && inDieScratch a
    | .phys _ => self && pteKind x.pte == 1
    | _ => false
  (s.runPages c needR 5 r.src r.bytes fun x => !x.place.isPeer).orElse fun _ =>
    (s.runPages c needW 6 r.dst r.bytes fun x => if self then !x.place.isPeer else isPeer x).orElse fun _ =>
      s.runPages c (if self then needRW else needW) 6 r.bar 16 barOk
/-- The physical runs of a range in this package. -/
def State.ctxRunsAt (s : State) (c : Ctx) (need : Need) (va n : Nat) : List (Place × Nat) :=
  (unitsOf 65536 va n).map fun u =>
    let lo := max va (65536 * u)
    let hi := min (va + n) (65536 * u + 65536)
    match s.translate c false need lo with
    | .ok x => (x.place, hi - lo)
    | .error _ => (.nowhere, hi - lo)
/-- The engine may read a range: its team's earlier accesses there and its acquires are performed, and nothing holds the bytes (R238, R245, R329). -/
def State.runReadOk (s : State) (p : Plan) (rs : List (Place × Nat)) : Bool :=
  !s.acqHold p.team p.seq && rs.all fun x => !s.earlierHit p.team p.seq x.1 x.2 && !s.earlyHold p.team x.1 x.2
    && (List.range ((x.2 + 255) / 256)).all fun i => !s.backedOff (x.1.plus (256 * i))
/-- The engine may write a range here. -/
def State.runWriteOk (s : State) (p : Plan) (rs : List (Place × Nat)) : Bool :=
  rs.all fun x => !s.aheadHold p.team x.1 x.2 && (List.range ((x.2 + 255) / 256)).all fun i => !s.backedOff (x.1.plus (256 * i))
/-- A run to a peer may leave: there is a path that nothing holds, and a place among the packets that it may have outstanding (R254, R359, R377). -/
def State.runRoom (s : State) (pkg : Nat) : Bool := s.openTo pkg && decide (s.pathAhead s.nextKey pkg (s.rowTo pkg) < 256)
/-- The bytes of a local run copied to their places; those rejected there are not written, and poisoned ones land poisoned (R377). -/
def State.copyRun (s : State) (p : Plan) (c : Ctx) (r : Run) : State :=
  let src := s.ctxRunsAt c needR r.src r.bytes
  let bs := src.flatMap fun x => s.placeRead x.1 x.2
  let bad := src.flatMap fun x => (List.range x.2).map fun i => s.placePoisoned (x.1.plus i) 1
  ((s.ctxRunsAt c needW r.dst r.bytes).foldl (fun (a : State × Nat) x =>
    let s1 := (a.1.planGoes x.1 x.2).homeWrite false p.hdr p.ctx (r.dst + a.2) x.1 ((bs.drop a.2).take x.2)
    let marks := (List.range x.2).filter fun i => nth false bad (a.2 + i) && !a.1.rejects (x.1.plus i) 1
    (marks.foldl (fun s i => s.placePoison (x.1.plus i) 1) s1, a.2 + x.2)) (s, 0)).1
/-- A page fault posts a notice without a waiter, for a region that has none outstanding; poison that the walker met is reported (R323, R331, R381). -/
def State.planNotice (s : State) (p : Plan) (f : RunFail) : State :=
  let region := f.va / 65536
  if f.why = 3 then s.post (Report.from_ p.hdr p.ctx 0x03 cPoisoned f.va)
  else if f.why = 0 || s.notices.any fun n => n.ctx == p.ctx && n.region == region && !n.resolved then s
  else
    let n : Notice :=
      { key := s.nextKey, nseq := none, ctx := p.ctx, id := ((s.ctx? p.ctx).map Ctx.id).getD 0, region, acc := f.acc, why := f.why,
        va := f.va, kernel := p.hdr.kernel, group := p.hdr.group, lcore := p.hdr.lcore, resolved := false, waiters := [] }
    { s.bump with notices := s.notices ++ [n] }
def Plan.toDrain (p : Plan) (cause : Nat) : Plan := { p with state := .draining, cause }
/-- RESHARD_RUN_SEND: the next run in order is checked and sent, or the plan drains. -/
def execReshardRunSend (k : Nat) (s : State) : Host.Outcome State Fault Refusal :=
  .next (match s.plan? k with
  | none => s
  | some p =>
    if p.state ≠ .running ∨ p.lost = true ∨ p.changed = true then s
    else match p.steps.find? (fun t => !t.skip && decide (t.first + t.sent < t.runs)), s.ctx? p.ctx with
      | some t, some c =>
        let r := runOf p t (t.first + t.sent) p.t1 p.t2
        match s.runCheck c t r with
        | some f => (s.planNotice p f).modPlan k fun p => p.toDrain f.cause
        | none =>
          let src := s.ctxRunsAt c needR r.src r.bytes
          let here := t.pkg == s.rank
          if !s.runReadOk p src || (if here then !s.runWriteOk p (s.ctxRunsAt c needW r.dst r.bytes) else !s.runRoom t.pkg) then s
          else
            let going := t.started && t.inc == s.incOf t.pkg
            let t3 : PlanStep := { t with sent := t.sent + 1, started := true, inc := s.incOf t.pkg }
            let s0 := src.foldl (fun s x => s.planGoes x.1 x.2) s
            let s1 := if going then s0 else s0.recPut p (8 + t.pkg) t3.prog
            let s2 := if here then s1.copyRun p c r
              else match (s1.ctxRunsAt c needW r.dst 1).head? with
                | some x => s1.assignPath x.1 r.bytes
                | none => s1
            s2.modPlan k fun p => { p with steps := p.steps.map fun x => if x.index = t.index then t3 else x }
      | _, _ => s)
/-- RESHARD_RUN_ACK: run `run % 2 ^ 32` of step `run / 2 ^ 32` is acknowledged, or denied, which is reported as bytes that were not performed (R364). Of an abandoned plan nothing else is left to do (R313). -/
def execReshardRunAck (k run : Nat) (denied : Bool) (s : State) : Host.Outcome State Fault Refusal :=
  let i := run / 2 ^ 32
  let n := run % 2 ^ 32
  .next (match s.plan? k with
  | none => s
  | some p => match p.steps.find? fun t => t.index == i && t.flying n with
    | none => s
    | some t =>
      let self := t.pkg == s.rank
      if p.state = .computing ∨ (self = true ∧ denied = true) then s
      else
        let set := fun (s : State) (t3 : PlanStep) =>
          s.modPlan k fun p => { p with steps := p.steps.map fun x => if x.index = i then t3 else x }
        let goes := fun (p : Plan) => p.state == .running && !p.lost && !p.changed
        if p.state = .abandoned then set s { t with acked := n :: t.acked }
        else if denied then
          (set (s.report7 p.hdr p.ctx cFabricDenied (runOf p t n p.t1 p.t2).dst) { t with denied := n :: t.denied }).modPlan k fun p => if goes p then p.toDrain cFabricDenied else p
        else
          let bar := p.word (40 + t.pkg)
          let s1 := if self then (match s.barSelf p.ctx bar with
              | some a => ((s.planGoes (.phys a) 16).barOp (.phys a) p.hdr p.ctx bar (.count false (t.size / max 1 t.runs))).1
              | none => s) else s
          let t3 : PlanStep := { t with acked := n :: t.acked }
          let s2 := set s1 t3
          let s3 := if t3.complete then s2.recPut p (8 + t.pkg) t3.prog else s2
          match s3.plan? k with
          | some q => if goes q ∧ q.steps.all PlanStep.complete = true then s3.completePlan q else s3
          | none => s3)
/-- PLAN_STOP: a lost target or a changed record (R381). -/
def execPlanStop (k : Nat) (e : PlanEvent) (s : State) : Host.Outcome State Fault Refusal :=
  .next (match s.plan? k with
  | none => s
  | some p =>
    if p.state ≠ .running then s
    else match e with
      | .peerLost => if p.lost then s.modPlan k fun p => p.toDrain cPeerLost else s
      | .recordChanged => if p.changed then s.modPlan k fun p => p.toDrain cReshardChanged else s)
/-- PLAN_DRAINED: no run is in flight; every PROG word, the record's final words, and the report. One whose final words have reached a peer is over, and an abandoned one is counted off. -/
def execPlanDrained (k : Nat) (s : State) : Host.Outcome State Fault Refusal :=
  .next (match s.plan? k with
  | none => s
  | some p =>
    if p.state = .ending then (if s.recPosted p then s else s.leavePlan p)
    else if p.flying then s
    else if p.state = .abandoned then State.countPlanOff { s with plans := s.plans.filter fun x => x.key != k } p
    else if p.state ≠ .draining then s
    else
      let failed := p.cause == cReshardChanged
      let s1 := p.steps.foldl (fun s t => s.recPut p (8 + t.pkg) t.prog) s
      let s2 := s1.putState p (if failed then 4 else 2) p.cause
      (s2.post (Report.from_ p.hdr p.ctx (if failed then 0x09 else 0x08) p.cause p.rec_)).endPlan k 7 p.cause)

end Sys2Proof.Machine
end

