-- ==== Sys2Proof/Machine/Scalar.lean ====
section
/-! DEFINITION. The scalar instructions (R100, R101). -/

namespace Sys2Proof.Machine

/-- A scalar instruction of two sources: the result of the type's width extended into 64 bits (R97, R100). -/
def State.sbin (s : State) (o : SBinOps) (f : IntTy → Nat → Nat → Nat) : State :=
  let x := s.cur.sread o.ty.bits o.a.val
  let y := s.cur.ssrc o.ty o.b
  s.writeS o.g o.d.val (extendTo64 o.ty (f o.ty x.1 y.1)) (x.2 || y.2)

def execSmov (o : SUnOps) (s : State) : Host.Outcome State Fault Refusal :=
  let x := s.cur.sread o.ty.bits o.a.val
  finish (.next (s.writeS o.g o.d.val (extendTo64 o.ty x.1) x.2))
def execSmovi (o : SImmOps) (s : State) : Host.Outcome State Fault Refusal :=
  finish (.next (s.writeS o.g o.d.val (extendTo64 o.ty (immAt o.ty 32 o.imm.toNat)) false))
def execSadd (o : SBinOps) (s : State) : Host.Outcome State Fault Refusal := finish (.next (s.sbin o aluAdd))
def execSsub (o : SBinOps) (s : State) : Host.Outcome State Fault Refusal := finish (.next (s.sbin o aluSub))
def execSmul (o : SBinOps) (s : State) : Host.Outcome State Fault Refusal := finish (.next (s.sbin o aluMul))
def execSmulh (o : SBinOps) (s : State) : Host.Outcome State Fault Refusal := finish (.next (s.sbin o aluMulh))
def execSand (o : SBinOps) (s : State) : Host.Outcome State Fault Refusal := finish (.next (s.sbin o aluAnd))
def execSor (o : SBinOps) (s : State) : Host.Outcome State Fault Refusal := finish (.next (s.sbin o aluOr))
def execSxor (o : SBinOps) (s : State) : Host.Outcome State Fault Refusal := finish (.next (s.sbin o aluXor))
def execSshl (o : SBinOps) (s : State) : Host.Outcome State Fault Refusal := finish (.next (s.sbin o aluShl))
def execSshr (o : SBinOps) (s : State) : Host.Outcome State Fault Refusal := finish (.next (s.sbin o aluShr))
def execSsar (o : SBinOps) (s : State) : Host.Outcome State Fault Refusal := finish (.next (s.sbin o aluSar))
def execSmin (o : SBinOps) (s : State) : Host.Outcome State Fault Refusal := finish (.next (s.sbin o aluMin))
def execSmax (o : SBinOps) (s : State) : Host.Outcome State Fault Refusal := finish (.next (s.sbin o aluMax))

/-- SCMP (R101). -/
def execScmp (o : SCmpOps) (s : State) : Host.Outcome State Fault Refusal :=
  let x := s.cur.sread o.ty.bits o.a.val
  let y := s.cur.ssrc16 o.ty o.b
  finish (.next (s.writeQ o.g o.d.val (o.c.holds o.ty x.1 y.1) (x.2 || y.2)))

/-- SSEL: tinted by its predicate and by the chosen source (R100). -/
def execSsel (o : SSelOps) (s : State) : Host.Outcome State Fault Refusal :=
  let q := s.cur.qreg o.c.val
  let x := s.cur.sread o.ty.bits (if q.val then o.a.val else o.b.val)
  finish (.next (s.writeS o.g o.d.val (extendTo64 o.ty x.1) (x.2 || q.tint)))

end Sys2Proof.Machine
end

