-- ==== Sys2Proof/Machine/Dispatch.lean ====
section
/-! DEFINITION. The dispatcher: one arm per constructor of `Instr`, in the order of spec/opcode_table.json, each one direct call of its meaning. -/

namespace Sys2Proof.Machine

/-- The meaning of an instruction or of an event. -/
def exec (i : Instr) (s : State) : Host.Outcome State Fault Refusal :=
  match i with
  | .nop g => Sys2Proof.Machine.execNop g s
  | .bra o => Sys2Proof.Machine.execBra o s
  | .brq o => Sys2Proof.Machine.execBrq o s
  | .brd o => Sys2Proof.Machine.execBrd o s
  | .join g => Sys2Proof.Machine.execJoin g s
  | .loop o => Sys2Proof.Machine.execLoop o s
  | .call o => Sys2Proof.Machine.execCall o s
  | .ret o => Sys2Proof.Machine.execRet o s
  | .exit g => Sys2Proof.Machine.execExit g s
  | .bkpt o => Sys2Proof.Machine.execBkpt o s
  | .slda o => Sys2Proof.Machine.execSlda o s
  | .smov o => Sys2Proof.Machine.execSmov o s
  | .smovi o => Sys2Proof.Machine.execSmovi o s
  | .sadd o => Sys2Proof.Machine.execSadd o s
  | .ssub o => Sys2Proof.Machine.execSsub o s
  | .smul o => Sys2Proof.Machine.execSmul o s
  | .smulh o => Sys2Proof.Machine.execSmulh o s
  | .sand o => Sys2Proof.Machine.execSand o s
  | .sor o => Sys2Proof.Machine.execSor o s
  | .sxor o => Sys2Proof.Machine.execSxor o s
  | .sshl o => Sys2Proof.Machine.execSshl o s
  | .sshr o => Sys2Proof.Machine.execSshr o s
  | .ssar o => Sys2Proof.Machine.execSsar o s
  | .smin o => Sys2Proof.Machine.execSmin o s
  | .smax o => Sys2Proof.Machine.execSmax o s
  | .scmp o => Sys2Proof.Machine.execScmp o s
  | .ssel o => Sys2Proof.Machine.execSsel o s
  | .vmov o => Sys2Proof.Machine.execVmov o s
  | .vmovi o => Sys2Proof.Machine.execVmovi o s
  | .vbcst o => Sys2Proof.Machine.execVbcst o s
  | .vadd o => Sys2Proof.Machine.execVadd o s
  | .vsub o => Sys2Proof.Machine.execVsub o s
  | .vadds o => Sys2Proof.Machine.execVadds o s
  | .vsubs o => Sys2Proof.Machine.execVsubs o s
  | .vmul o => Sys2Proof.Machine.execVmul o s
  | .vmulh o => Sys2Proof.Machine.execVmulh o s
  | .vmad o => Sys2Proof.Machine.execVmad o s
  | .vabs o => Sys2Proof.Machine.execVabs o s
  | .vneg o => Sys2Proof.Machine.execVneg o s
  | .vmin o => Sys2Proof.Machine.execVmin o s
  | .vmax o => Sys2Proof.Machine.execVmax o s
  | .vand o => Sys2Proof.Machine.execVand o s
  | .vor o => Sys2Proof.Machine.execVor o s
  | .vxor o => Sys2Proof.Machine.execVxor o s
  | .vnot o => Sys2Proof.Machine.execVnot o s
  | .vshl o => Sys2Proof.Machine.execVshl o s
  | .vshr o => Sys2Proof.Machine.execVshr o s
  | .vsar o => Sys2Proof.Machine.execVsar o s
  | .vclz o => Sys2Proof.Machine.execVclz o s
  | .vpopc o => Sys2Proof.Machine.execVpopc o s
  | .vbfe o => Sys2Proof.Machine.execVbfe o s
  | .vbfi o => Sys2Proof.Machine.execVbfi o s
  | .vperm o => Sys2Proof.Machine.execVperm o s
  | .vsel o => Sys2Proof.Machine.execVsel o s
  | .vcmp o => Sys2Proof.Machine.execVcmp o s
  | .vlea o => Sys2Proof.Machine.execVlea o s
  | .vshf o => Sys2Proof.Machine.execVshf o s
  | .vred o => Sys2Proof.Machine.execVred o s
  | .vscan o => Sys2Proof.Machine.execVscan o s
  | .vbal o => Sys2Proof.Machine.execVbal o s
  | .pand o => Sys2Proof.Machine.execPand o s
  | .por o => Sys2Proof.Machine.execPor o s
  | .pxor o => Sys2Proof.Machine.execPxor o s
  | .pnot o => Sys2Proof.Machine.execPnot o s
  | .pmov o => Sys2Proof.Machine.execPmov o s
  | .pany o => Sys2Proof.Machine.execPany o s
  | .pall o => Sys2Proof.Machine.execPall o s
  | .fadd o => Sys2Proof.Machine.execFadd o s
  | .fsub o => Sys2Proof.Machine.execFsub o s
  | .fmul o => Sys2Proof.Machine.execFmul o s
  | .ffma o => Sys2Proof.Machine.execFfma o s
  | .fmin o => Sys2Proof.Machine.execFmin o s
  | .fmax o => Sys2Proof.Machine.execFmax o s
  | .fabs o => Sys2Proof.Machine.execFabs o s
  | .fneg o => Sys2Proof.Machine.execFneg o s
  | .fcmp o => Sys2Proof.Machine.execFcmp o s
  | .fclass o => Sys2Proof.Machine.execFclass o s
  | .frnd o => Sys2Proof.Machine.execFrnd o s
  | .hadd2 o => Sys2Proof.Machine.execHadd2 o s
  | .hmul2 o => Sys2Proof.Machine.execHmul2 o s
  | .hfma2 o => Sys2Proof.Machine.execHfma2 o s
  | .fdot2 o => Sys2Proof.Machine.execFdot2 o s
  | .frcp o => Sys2Proof.Machine.execFrcp o s
  | .frsq o => Sys2Proof.Machine.execFrsq o s
  | .fsqrt o => Sys2Proof.Machine.execFsqrt o s
  | .fexp2 o => Sys2Proof.Machine.execFexp2 o s
  | .flog2 o => Sys2Proof.Machine.execFlog2 o s
  | .fsinpi o => Sys2Proof.Machine.execFsinpi o s
  | .fcospi o => Sys2Proof.Machine.execFcospi o s
  | .ftanh o => Sys2Proof.Machine.execFtanh o s
  | .fsigm o => Sys2Proof.Machine.execFsigm o s
  | .specialFunctionResult t k => Sys2Proof.Machine.execSpecialFunctionResult t k s
  | .cvt o => Sys2Proof.Machine.execCvt o s
  | .pack o => Sys2Proof.Machine.execPack o s
  | .unpk o => Sys2Proof.Machine.execUnpk o s
  | .quant o => Sys2Proof.Machine.execQuant o s
  | .deq o => Sys2Proof.Machine.execDeq o s
  | .ld o => Sys2Proof.Machine.execLd o s
  | .st o => Sys2Proof.Machine.execSt o s
  | .gath o => Sys2Proof.Machine.execGath o s
  | .scat o => Sys2Proof.Machine.execScat o s
  | .atom o => Sys2Proof.Machine.execAtom o s
  | .red o => Sys2Proof.Machine.execRed o s
  | .fix o => Sys2Proof.Machine.execFix o s
  | .gtest o => Sys2Proof.Machine.execGtest o s
  | .gdrop o => Sys2Proof.Machine.execGdrop o s
  | .gdemShort o => Sys2Proof.Machine.execGdemShort o s
  | .gdemAddress o => Sys2Proof.Machine.execGdemAddress o s
  | .tmov o => Sys2Proof.Machine.execTmov o s
  | .pref o => Sys2Proof.Machine.execPref o s
  | .mzero o => Sys2Proof.Machine.execMzero o s
  | .mma o => Sys2Proof.Machine.execMma o s
  | .mmag o => Sys2Proof.Machine.execMmag o s
  | .mtrn o => Sys2Proof.Machine.execMtrn o s
  | .mtrnDlt o => Sys2Proof.Machine.execMtrnDlt o s
  | .mldw o => Sys2Proof.Machine.execMldw o s
  | .mldwSave o => Sys2Proof.Machine.execMldwSave o s
  | .mldwRaw o => Sys2Proof.Machine.execMldwRaw o s
  | .mrda o => Sys2Proof.Machine.execMrda o s
  | .mrdaStatus o => Sys2Proof.Machine.execMrdaStatus o s
  | .mwra o => Sys2Proof.Machine.execMwra o s
  | .mgang o => Sys2Proof.Machine.execMgang o s
  | .matrixEngineStart core => Sys2Proof.Machine.execMatrixEngineStart core s
  | .matrixInstructionDone core => Sys2Proof.Machine.execMatrixInstructionDone core s
  | .gangTimeout gid => Sys2Proof.Machine.execGangTimeout gid s
  | .binit o => Sys2Proof.Machine.execBinit o s
  | .binv o => Sys2Proof.Machine.execBinv o s
  | .barv o => Sys2Proof.Machine.execBarv o s
  | .bexp o => Sys2Proof.Machine.execBexp o s
  | .bwait o => Sys2Proof.Machine.execBwait o s
  | .btest o => Sys2Proof.Machine.execBtest o s
  | .bbind o => Sys2Proof.Machine.execBbind o s
  | .barrierBytesCounted k => Sys2Proof.Machine.execBarrierBytesCounted k s
  | .bindingFire k => Sys2Proof.Machine.execBindingFire k s
  | .cpy o => Sys2Proof.Machine.execCpy o s
  | .cpytLd o => Sys2Proof.Machine.execCpytLd o s
  | .cpytSt o => Sys2Proof.Machine.execCpytSt o s
  | .copyChannelWord op => Sys2Proof.Machine.execCopyChannelWord op s
  | .blockTransferBytes op n => Sys2Proof.Machine.execBlockTransferBytes op n s
  | .engineOperationComplete op => Sys2Proof.Machine.execEngineOperationComplete op s
  | .chtest o => Sys2Proof.Machine.execChtest o s
  | .chwp o => Sys2Proof.Machine.execChwp o s
  | .tlsig o => Sys2Proof.Machine.execTlsig o s
  | .tlrd o => Sys2Proof.Machine.execTlrd o s
  | .fence o => Sys2Proof.Machine.execFence o s
  | .creg o => Sys2Proof.Machine.execCreg o s
  | .cdreg o => Sys2Proof.Machine.execCdreg o s
  | .comb o => Sys2Proof.Machine.execComb o s
  | .crep o => Sys2Proof.Machine.execCrep o s
  | .combinerRequestArrival k => Sys2Proof.Machine.execCombinerRequestArrival k s
  | .skeinForm msu => Sys2Proof.Machine.execSkeinForm msu s
  | .methodReturn msu => Sys2Proof.Machine.execMethodReturn msu s
  | .methodFault msu => Sys2Proof.Machine.execMethodFault msu s
  | .methodTimeout msu => Sys2Proof.Machine.execMethodTimeout msu s
  | .combinerReplyWrite c => Sys2Proof.Machine.execCombinerReplyWrite c s
  | .combinerGuardReject k => Sys2Proof.Machine.execCombinerGuardReject k s
  | .xsend o => Sys2Proof.Machine.execXsend o s
  | .xfetch o => Sys2Proof.Machine.execXfetch o s
  | .xatom o => Sys2Proof.Machine.execXatom o s
  | .xatomNr o => Sys2Proof.Machine.execXatomNr o s
  | .xsig o => Sys2Proof.Machine.execXsig o s
  | .trap o => Sys2Proof.Machine.execTrap o s
  | .trapKill o => Sys2Proof.Machine.execTrapKill o s
  | .rte g => Sys2Proof.Machine.execRte g s
  | .srd o => Sys2Proof.Machine.execSrd o s
  | .swr o => Sys2Proof.Machine.execSwr o s
  | .park g => Sys2Proof.Machine.execPark g s
  | .yield g => Sys2Proof.Machine.execYield g s
  | .ipref o => Sys2Proof.Machine.execIpref o s
  | .ipin o => Sys2Proof.Machine.execIpin o s
  | .iunpin o => Sys2Proof.Machine.execIunpin o s
  | .launch o => Sys2Proof.Machine.execLaunch o s
  | .enq o => Sys2Proof.Machine.execEnq o s
  | .rsh o => Sys2Proof.Machine.execRsh o s
  | .clauseStart core => Sys2Proof.Machine.execClauseStart core s
  | .codeFillArrival quad ctx line => Sys2Proof.Machine.execCodeFillArrival quad ctx line s
  | .scoreboardRelease t => Sys2Proof.Machine.execScoreboardRelease t s
  | .loadExpiry l => Sys2Proof.Machine.execLoadExpiry l s
  | .exactAnswerArrival l lane remote => Sys2Proof.Machine.execExactAnswerArrival l lane remote s
  | .lateAnswerArrival l lane remote => Sys2Proof.Machine.execLateAnswerArrival l lane remote s
  | .loadDestinationWrite l => Sys2Proof.Machine.execLoadDestinationWrite l s
  | .tmovDeadline op => Sys2Proof.Machine.execTmovDeadline op s
  | .nearLeaseRecall core line => Sys2Proof.Machine.execNearLeaseRecall core line s
  | .routerPowerDown die r => Sys2Proof.Machine.execRouterPowerDown die r s
  | .routerWake die r => Sys2Proof.Machine.execRouterWake die r s
  | .groupPlacement c => Sys2Proof.Machine.execGroupPlacement c s
  | .activeSetEntry core => Sys2Proof.Machine.execActiveSetEntry core s
  | .parkRequest gid src => Sys2Proof.Machine.execParkRequest gid src s
  | .timeSliceExpiry gid => Sys2Proof.Machine.execTimeSliceExpiry gid s
  | .parkTrap gid => Sys2Proof.Machine.execParkTrap gid s
  | .pageFaultPark gid => Sys2Proof.Machine.execPageFaultPark gid s
  | .redirectedValueWrite l => Sys2Proof.Machine.execRedirectedValueWrite l s
  | .wakeCondition gid => Sys2Proof.Machine.execWakeCondition gid s
  | .migrationRequest lcore target => Sys2Proof.Machine.execMigrationRequest lcore target s
  | .coreMapRewrite lcore => Sys2Proof.Machine.execCoreMapRewrite lcore s
  | .restoreStart gid => Sys2Proof.Machine.execRestoreStart gid s
  | .groupKill gid => Sys2Proof.Machine.execGroupKill gid s
  | .groupRetire gid => Sys2Proof.Machine.execGroupRetire gid s
  | .teamRetire t => Sys2Proof.Machine.execTeamRetire t s
  | .bwaitWake t => Sys2Proof.Machine.execBwaitWake t s
  | .kernelAccept k => Sys2Proof.Machine.execKernelAccept k s
  | .kernelDrained k => Sys2Proof.Machine.execKernelDrained k s
  | .outstandingAck p => Sys2Proof.Machine.execOutstandingAck p s
  | .kernelSignal k => Sys2Proof.Machine.execKernelSignal k s
  | .errorRecordEntry k => Sys2Proof.Machine.execErrorRecordEntry k s
  | .queueHeadWatch ctx q => Sys2Proof.Machine.execQueueHeadWatch ctx q s
  | .queueBlockFetch ctx q => Sys2Proof.Machine.execQueueBlockFetch ctx q s
  | .queueDispatch ctx q => Sys2Proof.Machine.execQueueDispatch ctx q s
  | .queueLink ctx q => Sys2Proof.Machine.execQueueLink ctx q s
  | .queueRestart ctx q => Sys2Proof.Machine.execQueueRestart ctx q s
  | .commandCompletion c => Sys2Proof.Machine.execCommandCompletion c s
  | .cmdNop c => Sys2Proof.Machine.execCmdNop c s
  | .cmdLaunch c => Sys2Proof.Machine.execCmdLaunch c s
  | .cmdWaittl c => Sys2Proof.Machine.execCmdWaittl c s
  | .cmdSigtl c => Sys2Proof.Machine.execCmdSigtl c s
  | .settlr c => Sys2Proof.Machine.execSettlr c s
  | .map c h => Sys2Proof.Machine.execMap c h s
  | .unmap c => Sys2Proof.Machine.execUnmap c s
  | .reshard c => Sys2Proof.Machine.execReshard c s
  | .appendSwap ctx desc block => Sys2Proof.Machine.execAppendSwap ctx desc block s
  | .create h => Sys2Proof.Machine.execCreate h s
  | .qreg => Sys2Proof.Machine.execQreg s
  | .qdrop => Sys2Proof.Machine.execQdrop s
  | .recover => Sys2Proof.Machine.execRecover s
  | .destroy => Sys2Proof.Machine.execDestroy s
  | .destructionComplete slot => Sys2Proof.Machine.execDestructionComplete slot s
  | .pretry => Sys2Proof.Machine.execPretry s
  | .pfail => Sys2Proof.Machine.execPfail s
  | .fwstage => Sys2Proof.Machine.execFwstage s
  | .fwact => Sys2Proof.Machine.execFwact s
  | .health => Sys2Proof.Machine.execHealth s
  | .hwin => Sys2Proof.Machine.execHwin s
  | .migrate target => Sys2Proof.Machine.execMigrate target s
  | .halt => Sys2Proof.Machine.execHalt s
  | .resume => Sys2Proof.Machine.execResume s
  | .slice => Sys2Proof.Machine.execSlice s
  | .mailboxUnknownCode => Sys2Proof.Machine.execMailboxUnknownCode s
  | .faultNoticeSend k => Sys2Proof.Machine.execFaultNoticeSend k s
  | .pageWalk core ctx va => Sys2Proof.Machine.execPageWalk core ctx va s
  | .pageMigration ctx va frame => Sys2Proof.Machine.execPageMigration ctx va frame s
  | .hostWindowRead off bytes => Sys2Proof.Machine.execHostWindowRead off bytes s
  | .hostWindowWrite off data relaxed => Sys2Proof.Machine.execHostWindowWrite off data relaxed s
  | .hostAtomicop off wide op x cmp => Sys2Proof.Machine.execHostAtomicop off wide op x cmp s
  | .hrowcfgWrite stack x => Sys2Proof.Machine.execHrowcfgWrite stack x s
  | .eyeselWrite stack x => Sys2Proof.Machine.execEyeselWrite stack x s
  | .registerWrite off x => Sys2Proof.Machine.execRegisterWrite off x s
  | .rowActivationAlert stack bank => Sys2Proof.Machine.execRowActivationAlert stack bank s
  | .eyeMarginLow stack lane => Sys2Proof.Machine.execEyeMarginLow stack lane s
  | .poisonConsumed k => Sys2Proof.Machine.execPoisonConsumed k s
  | .headerCrcFail => Sys2Proof.Machine.execHeaderCrcFail s
  | .errorSelfTest u passed second => Sys2Proof.Machine.execErrorSelfTest u passed second s
  | .thermalTrip pcore => Sys2Proof.Machine.execThermalTrip pcore s
  | .clockClamp die quad celsius => Sys2Proof.Machine.execClockClamp die quad celsius s
  | .powerClamp watts => Sys2Proof.Machine.execPowerClamp watts s
  | .junctionShutdown => Sys2Proof.Machine.execJunctionShutdown s
  | .reset => Sys2Proof.Machine.execReset s
  | .powerGood => Sys2Proof.Machine.execPowerGood s
  | .stageReached ok harvested dieLow => Sys2Proof.Machine.execStageReached ok harvested dieLow s
  | .portEnable port on => Sys2Proof.Machine.execPortEnable port on s
  | .linkTrainingResult port lanes peerInc => Sys2Proof.Machine.execLinkTrainingResult port lanes peerInc s
  | .linkError port e => Sys2Proof.Machine.execLinkError port e s
  | .detourRetry port => Sys2Proof.Machine.execDetourRetry port s
  | .flitReplay port => Sys2Proof.Machine.execFlitReplay port s
  | .routeChange tgt links force => Sys2Proof.Machine.execRouteChange tgt links force s
  | .incarnationLearned rank inc => Sys2Proof.Machine.execIncarnationLearned rank inc s
  | .stalePacketDrop port p => Sys2Proof.Machine.execStalePacketDrop port p s
  | .fabricPacketArrival p => Sys2Proof.Machine.execFabricPacketArrival p s
  | .dropNotice op lo bytes => Sys2Proof.Machine.execDropNotice op lo bytes s
  | .reservationGrant op start budget => Sys2Proof.Machine.execReservationGrant op start budget s
  | .grantWindowExpiry op => Sys2Proof.Machine.execGrantWindowExpiry op s
  | .fabricAck op lo bytes denied => Sys2Proof.Machine.execFabricAck op lo bytes denied s
  | .planCompute p => Sys2Proof.Machine.execPlanCompute p s
  | .reshardRunSend p => Sys2Proof.Machine.execReshardRunSend p s
  | .reshardRunAck p run denied => Sys2Proof.Machine.execReshardRunAck p run denied s
  | .planStop p e => Sys2Proof.Machine.execPlanStop p e s
  | .planDrained p => Sys2Proof.Machine.execPlanDrained p s
  | .eyeMarginMeasurement stack lane v h inUse => Sys2Proof.Machine.execEyeMarginMeasurement stack lane v h inUse s
  | .apertureTableWrite n e => Sys2Proof.Machine.execApertureTableWrite n e s

end Sys2Proof.Machine
end

