-- ==== Sys2Proof/Machine/Issue.lean ====
section
/-! DEFINITION. Issue: the next instruction of an open clause, decoded and checked (R60), held by the scoreboard (R49) or run; the start of a clause where none is open; and the turns of the agenda (log 1). -/

namespace Sys2Proof.Machine

/-- What the checks of R60 take from a team. -/
def Team.env (t : Team) : Env := { regs := t.regs, accs := t.accs, lanes := t.lanes, teams := t.teams, idx := t.id.idx }
/-- The number that an operand slot of a word holds, as $fopnd shows it (R274). -/
def Slot.reg (w : Word) : Slot → Nat
  | .dst => (fD w).toNat
  | .srca => (fA w).toNat
  | .srcb => (fB w).toNat
  | .srcc => (fC w).toNat
  | _ => 0

/-- The word of the team in focus that issues next. -/
def Team.nextWord (t : Team) : Option Word := t.clause.bind fun c => c.words[c.idx]?
/-- A group is halted: its teams stop at their next clause boundaries (R260). -/
def State.groupHalted (s : State) (gid : Nat) : Bool :=
  match s.group? gid with
  | some g => match g.state with
    | .halted _ => true
    | _ => false
  | none => false
/-- A team may issue within its open clause: it is Active, no park of its own waits, and its group runs or comes to a halt; group 0 is that of the method teams. -/
def State.mayIssue (s : State) (t : Team) : Bool :=
  t.state == .active && t.faultPark.isNone && (t.id.gid == 0 || s.groupRuns t.id.gid || s.groupHalted t.id.gid)
/-- The accesses of R235, the code reads of IPREF and IPIN among them, and the instructions of the barrier chapter, a later FENCE included, which an acquiring fence holds (R232, R252). -/
def fencedBy : Instr → Bool
  | .ld _ | .st _ | .gath _ | .scat _ | .atom _ | .red _ | .gdemAddress _ | .tmov _ | .mldw _ | .mldwSave _ | .mldwRaw _ | .mtrnDlt _
  | .binit _ | .binv _ | .barv _ | .bexp _ | .bwait _ | .btest _ | .bbind _ | .cpy _ | .cpytLd _ | .cpytSt _ | .chtest _ | .chwp _
  | .tlsig _ | .tlrd _ | .fence _ | .ipref _ | .ipin _ | .comb _ | .xsend _ | .xfetch _ | .xatom _ | .xatomNr _ | .xsig _ => true
  | .mma o | .mmag o => match o.a with
    | .handle _ _ => true
    | _ => false
  | _ => false
/-- An acquiring fence of the team in focus is open and holds an instruction as the scoreboard does (R49, R232). -/
def State.fenceHolds (s : State) (i : Instr) : Bool :=
  s.cur.fences.any (fun f => f.acq && !s.fenceDone s.cur.id f.seq f.scope) && fencedBy i
/-- A decoded instruction of the team in focus: outside R343 it ends a method, a pending register or a fence holds it, else it has its meaning. -/
def State.runInstr (s : State) (i : Instr) : Host.Outcome State Fault Refusal :=
  if s.cur.mode = .method ∧ methodOk i = false then .next (s.trap (Trap.illegal 7 0))
  else if s.heldBack s.cur.env i || s.fenceHolds i then .next s
  else exec i s
/-- A word of the team in focus issues: its first failed check raises the illegal-instruction trap (R60). -/
def State.runWord (s : State) (w : Word) : Host.Outcome State Fault Refusal :=
  match decodeWord s.cur.env w with
  | .error slot => .next (s.trap (Trap.illegal slot.code (Slot.reg w slot)))
  | .ok i => s.runInstr i
/-- Where the team in focus has no clause open: its core, or its micro-core, starts one. -/
def State.startNext (s : State) : State :=
  match s.cur.method with
  | some m => if s.cur.state = .active then s.methodStart m else s
  | none => if s.cur.id.gid = 0 then s else s.coreStart (s.coreOf s.cur.id.gid)
/-- A fault that is taken at the instruction at which the team stands inside a clause (R418). -/
def Team.heldFault (t : Team) : Option Deferred := t.deferred.find? fun d => d.at_ == .stand
/-- The team in focus goes on. -/
def State.runTeam (s : State) : Host.Outcome State Fault Refusal :=
  match s.cur.nextWord with
  | some w =>
    if !s.mayIssue s.cur then .next s
    else match s.cur.heldFault with
      | some d => .next (s.takeDeferred d)
      | none => s.runWord w
  | none => .next s.startNext

/-! ### Events of one cycle (R8) -/

/-- What a state table is about; a line of code is a range of its context's addresses. -/
inductive Obj where
  | load (k : Nat)
  | team (t : TeamId)
  | group (gid : Nat)
  | kernel (kid : Nat)
  | ctx (id : Nat)
  | msu (m : Nat)
  | bar (o : ObjLoc)
  | port (n : Nat)
  | plan (k : Nat)
  | core (p : Nat)
  | code (ctx lo n : Nat)
  | queue (slot desc : Nat)
  deriving DecidableEq, Repr
/-- Two events reach the same object. -/
def Obj.meets : Obj → Obj → Bool
  | .code c a n, .code d b m => c == d && decide (a < b + m) && decide (b < a + n)
  | a, b => a == b
/-- An event's objects, each with its place in the order of the rows. -/
abbrev Rows := List (Obj × Nat)
/-- The context that the submitted mailbox command names. -/
def State.mbCtx (s : State) (code : Nat) : Option Nat :=
  match s.mailbox.pending with
  | some c => if c.code = code then (c.args.head?).map fun w => bitsAt w.toNat 0 16 else none
  | none => none
/-- The group that the submitted HALT or RESUME names. -/
def State.mbGroup (s : State) (code : Nat) : Option Nat :=
  match s.mbCtx code, s.mailbox.pending with
  | some id, some c => match s.ctxById id with
    | some x => (s.groups.find? fun g => g.ctx == x.slot && g.index == (nth (0 : Word) c.args 2).toNat
        && ((s.kernel? g.kid).map Kernel.id == some (nth (0 : Word) c.args 1).toNat)).map Group.gid
    | none => none
  | _, _ => none
/-- The logical core that the submitted MIGRATE names. -/
def State.mbCore (s : State) : Option Nat :=
  match s.mailbox.pending with
  | some c => if c.code = 0x31 then (c.args.head?).map BitVec.toNat else none
  | none => none
/-- The loads of teams, which a kill or a retirement abandons; a park expires those that wait first (R141, R267). -/
def State.loadRows (s : State) (of : TeamId → Bool) (n : Nat) : Rows := (s.loads.filter fun ld => of ld.team).map fun ld => (.load ld.key, n)
/-- A kill of a group: its kernel, its teams and their loads. -/
def State.killRows (s : State) (gid : Nat) : Rows :=
  (.group gid, 0) :: ((s.group? gid).map fun g => (Obj.kernel g.kid, 1)).toList ++ ((s.teamsOf gid).map fun t => (.team t.id, 0))
    ++ s.loadRows (fun t => t.gid == gid) 0
/-- A park trap or a migrate trap in the teams of a group; its place in the group's own rows is `n`. -/
def State.parkRows (s : State) (gid n : Nat) : Rows := (.group gid, n) :: (s.teamsOf gid).map fun t => (.team t.id, 1)
/-- A request to migrate a logical core (R260, R269). -/
def State.migrateRows (s : State) (l : Nat) : Rows := (s.groups.filter fun g => g.lcore == l).flatMap fun g => s.parkRows g.gid 3
/-- The plans of a kind. -/
def State.planRows (s : State) (p : Plan → Bool) (n : Nat) : Rows := (s.plans.filter p).map fun x => (.plan x.key, n)
/-- A rank is lost, or may be, for the plans that target it (R381). -/
def State.lossRows (s : State) (r : Nat) : Rows := s.planRows (fun p => p.steps.any fun t => t.pkg == r) 2
/-- DESTROY reaches the context and all that is of it (R291, R303, R307, R313, R339, R381). -/
def State.destroyRows (s : State) (id : Nat) : Rows :=
  match s.ctxById id with
  | none => []
  | some c =>
    (.ctx id, 0) :: ((s.kernels.filter fun k => k.ctx == c.slot).map fun k => (.kernel k.kid, 0))
      ++ ((s.groups.filter fun g => g.ctx == c.slot).flatMap fun g => (.group g.gid, 0) :: s.loadRows (fun t => t.gid == g.gid) 0)
      ++ s.planRows (fun p => p.ctx == c.slot) 0 ++ ((s.combRegs.filter fun r => r.ctx == c.slot).map fun r => (.msu r.msu, 0))
      ++ c.queues.map fun q => (.queue c.slot q.desc, 0)
/-- A queue of a context, at a row of R303. -/
def State.queueRow (s : State) (slot i n : Nat) : Rows := ((s.queue? slot i).map fun q => (Obj.queue slot q.desc, n)).toList
/-- The link of an append, whose discard stops the queue (R303). -/
def State.appendRows (s : State) (k : Nat) : Rows := ((s.appends.find? fun a => a.key == k).map fun a => (Obj.queue a.ctx a.desc, 2)).toList
/-- A command that is to start, by its key: its operands give the rows. -/
def State.cmdRows (s : State) (k code : Nat) (f : Cmd → Rows) : Rows :=
  match s.cmd? k with
  | some c => if c.started || c.code != code then [] else f c
  | none => []
/-- The line that a fill's place in the L1 costs (R66). -/
def State.victim (s : State) (q line : Nat) : Rows :=
  let set := (s.quadAt q).l1.filter fun l => l.line % 256 == line % 256 && !l.filling
  ((oldest (set.filter fun l => l.pins == 0)).map fun o => (Obj.code o.ctx (256 * o.line) 256, 4)).toList
/-- A count would leave its range at its object (R210). -/
def State.overCount (s : State) (c : BarCount) : Bool :=
  match s.bar? c.obj with
  | some b => !countOk ((if c.out then b.outb else b.inb) - c.n)
  | none => false
/-- What the next instruction of the team in focus reaches through its operands: a barrier object (R210), or the lines of an IPIN or IUNPIN (R66). -/
def State.wordRows (s : State) : Rows :=
  let t := s.cur
  let obj := fun (sp : ObjSpace) (a : Fin 64) (n : Nat) => match s.objAt sp (t.sval a).toNat with
    | .ok loc => [(Obj.bar loc, n)]
    | .error _ => []
  match t.nextWord.map (decodeWord t.env) with
  | some (.ok i) => match i with
    | .binit o => obj o.o o.a 0
    | .binv o => obj o.o o.a 0
    | .barv o => obj o.o o.a 2
    | .bexp o => obj o.o o.a 3
    | .bbind o => obj o.o o.a 4
    | .ipin o => [(.code (s.ctxOf t) (alignDown 256 (t.sval o.a).toNat) (256 * (t.sval o.b).toNat), 3)]
    | .iunpin o => [(.code (s.ctxOf t) (alignDown 256 (t.sval o.a).toNat) (256 * (t.sval o.b).toNat), 4)]
    | _ => []
  | _ => []
/-- What the issue of a team reaches: the objects of its instruction; its group where it kills it or takes a fault, whose registers come before a halt or a park (R260, R277); the loads of its own whose late answers it gives up (R141); and the registrations that it makes or ends (R339). -/
def State.issueRows (s : State) (id : TeamId) : Rows :=
  let s0 := { s with agenda := [] }.focus id
  if s0.cur.id ≠ id then []
  else s0.wordRows ++ match s0.runTeam with
    | .next s1 =>
      let killed := ((s1.group? id.gid).map Group.state) == some .killed && ((s0.group? id.gid).map Group.state) != some .killed
      let faulted := match s1.team? id with
        | some t => t.fr != s0.cur.fr || t.faultPark.isSome && s0.cur.faultPark.isNone
        | none => false
      let late := fun (l : LoadLane) => l.st == .expired
      (if killed then s0.killRows id.gid else if faulted then [(.group id.gid, 1)] else [])
        ++ ((s0.loads.filter fun ld => ld.team == id && ld.lanes.any late && s1.load? ld.key != some ld).map fun ld => (.load ld.key, 3))
        ++ (if s1.combRegs = s0.combRegs then [] else (s1.combRegs.filter fun r => !s0.combRegs.contains r).map fun r => (.msu r.msu, 1))
    | _ => []
/-- The rows of the state tables that an event belongs to: the object, and its place in the order of the rows (R66, R89, R141, R210, R260, R291, R303, R307, R339, R355, R381); on a core a migration comes before a harvest (R393). -/
def State.rows (s : State) (i : Instr) : Rows :=
  let kernelOf := fun (gid : Nat) (n : Nat) => ((s.group? gid).map fun g => (Obj.kernel g.kid, n)).toList
  match i with
  | .exactAnswerArrival k _ _ => [(.load k, 1)]
  | .loadExpiry k => [(.load k, 2)]
  | .lateAnswerArrival k _ _ => [(.load k, 4)]
  | .groupKill gid => s.killRows gid
  | .groupPlacement _ => (s.groups.filter fun g => g.state == .queued).map fun g => (.group g.gid, 1)
  | .pageFaultPark gid => s.parkRows gid 1
  | .halt => ((s.mbGroup 0x32).map fun gid => (Obj.group gid, 2)).toList
  | .migrationRequest l _ => s.migrateRows l
  | .migrate _ => match s.mbCore with
    | some l => s.migrateRows l
    | none => []
  | .thermalTrip p => match s.lcoreAt p with
    | some l => s.migrateRows l
    | none => []
  | .parkRequest gid _ => s.parkRows gid 4
  | .parkTrap gid => s.loadRows (fun t => t.gid == gid) 2
  | .bwaitWake t => [(.team t, 2)]
  | .teamRetire t => s.loadRows (fun u => u == t) 0
  | .groupRetire gid => (.group gid, 5) :: kernelOf gid 2
  | .wakeCondition gid => [(.group gid, 5)]
  | .kernelAccept k => [(.kernel k, 2)]
  | .kernelDrained k => [(.kernel k, 3)]
  | .destroy => match s.mbCtx 0x14 with
    | some id => s.destroyRows id
    | none => []
  | .errorRecordEntry k => match s.reports.find? fun r => r.key == k with
    | some r => ((s.ctx? r.ctx).map fun c => (Obj.ctx c.id, 1)).toList
        ++ if fatalKind r.kind then (s.kernels.filter fun k => k.ctx == r.ctx && k.state == .accepted).map fun k => (.kernel k.kid, 1) else []
    | none => []
  | .recover => ((s.mbCtx 0x13).map fun id => (Obj.ctx id, 2)).toList
  | .methodFault m => [(.msu m, 2)]
  | .methodTimeout m => [(.msu m, 2)]
  | .methodReturn m => [(.msu m, 3)]
  | .combinerRequestArrival k => ((s.combPackets.find? fun p => p.key == k).map fun p => (Obj.msu p.msu, 4)).toList
  | .barrierBytesCounted k => ((s.counts.find? fun c => c.key == k).map fun c => (Obj.bar c.obj, if s.overCount c then 1 else 5)).toList
  | .bindingFire k => ((s.binds.find? fun b => b.key == k).map fun b => (Obj.bar b.obj, 6)).toList
  | .codeFillArrival q ctx line => (.code ctx (256 * line) 256, 2) :: s.victim q line
  | .unmap k => s.cmdRows k 6 fun c => [(.code c.ctx (c.word 5) (c.word 6), 1)]
  | .pageMigration ctx va _ => match (s.ctx? ctx).map fun c => s.walk c.root va.toNat with
    | some (.ok e) => [(.code ctx (alignDown (sizeBytes (pteSize e)) va.toNat) (sizeBytes (pteSize e)), 1)]
    | _ => []
  | .destructionComplete slot => [(.code slot 0 (2 ^ 57), 1)]
  | .queueHeadWatch c i => s.queueRow c i 1
  | .queueBlockFetch c i => s.queueRow c i 1
  | .queueDispatch c i => s.queueRow c i 1 ++ match s.queue? c i with
    | some q => if cmdCode q.words = 4 then s.planRows (fun p => p.ctx == c && (p.src == nth 0 q.words 5 || p.dst == nth 0 q.words 5)) 3 else []
    | none => []
  | .queueRestart c i => s.queueRow c i 1
  | .queueLink c i => match s.queue? c i with
    | some q => [(.queue c q.desc, if ((q.curCmd.bind s.cmd?).any s.waitFails) then 1 else 3)]
    | none => []
  | .cmdWaittl k => s.cmdRows k 2 fun c => [(.queue c.ctx c.desc, 1)]
  | .appendSwap c d _ => [(.queue c d.toNat, 2)]
  | .outstandingAck k => s.appendRows k
  | .portEnable n on => [(.port n, if on then 4 else 0)]
  | .linkTrainingResult n _ _ => (.port n, 1) :: match s.cabled n with
    | some r => s.lossRows r
    | none => []
  | .incarnationLearned r _ => s.lossRows r
  | .linkError n _ => [(.port n, 2)]
  | .detourRetry n => [(.port n, 3)]
  | .planCompute k => [(.plan k, 1)]
  | .planStop k .peerLost => [(.plan k, 2)]
  | .planStop k .recordChanged => [(.plan k, 3)]
  | .reshardRunSend k => [(.plan k, 4)]
  | .reshardRunAck k _ denied => [(.plan k, if denied then 4 else 5)]
  | .planDrained k => [(.plan k, 6)]
  | .coreMapRewrite l => (s.pcore l :: (s.reserved.filter fun r => r.1 == l).map Prod.snd).map fun p => (.core p, 0)
  | .errorSelfTest u _ _ => (unitCores u).flatMap fun p => (.core p, 1) ::
      (s.groups.filter fun g => s.lcoreAt p == some g.lcore).flatMap fun g => match s.kernel? g.kid with
        | some k => if k.lpb.mig then s.parkRows g.gid 3 else s.killRows g.gid
        | none => []
  | _ => []
/-- The rows of a turn: of an event or of an issue; the other turns belong to no table. -/
def State.turnRows (s : State) : Turn → Rows
  | .event i => s.rows i
  | .issue id => s.issueRows id
  | _ => []
/-- A turn belongs to an earlier row of an object that both reach. -/
def State.sooner (s : State) (i j : Turn) : Bool :=
  let b := s.turnRows j
  !b.isEmpty && (s.turnRows i).any fun a => b.any fun b => a.1.meets b.1 && decide (a.2 < b.2)
/-- The turns up to the end of the present cycle. -/
def thisCycle : List Turn → List Turn
  | [] => []
  | .tick _ :: _ => []
  | x :: l => x :: thisCycle l
/-- The turn that is taken where `x` stands first: one of the same cycle that reaches the same object in an earlier row takes effect before it (R8). -/
def State.firstOf (s : State) (x : Turn) (l : List Turn) : Turn :=
  match x with
  | .tick n => .tick n
  | x => (thisCycle l).foldl (fun x y => if s.sooner y x then y else x) x

/-! ### Turns -/

/-- A cycle has passed: loads that stood ready in it have written their destinations, in the order of their issue (R143, log 95), tables are trained (R146), router buffers are empty (R17), and the blocking points of groups are noted (R266). -/
def State.tick (s : State) (n : Nat) : State :=
  let s := (s.loads.map Load.key).foldl State.writeDue s
  State.noteBlocking { s with
    clk := s.clk + n,
    cores := (s.cores.map fun (p : Nat × Core) => (p.1, p.2.trainAll)),
    dies := s.dies.map fun (p : Nat × Die) => (p.1, { p.2 with passing := [] }) }
/-- The operation of a key that waits in the asynchronous-issue class is accepted, where its engine can (R48). -/
def State.accept (s : State) (k : Nat) : State :=
  match s.posts.find? (fun q => q.key == k), s.engs.find? (fun e => e.key == k), s.launches.find? (fun l => l.key == k),
      s.appends.find? (fun a => a.key == k) with
  | some q, _, _, _ => s.acceptPost q
  | _, some e, _, _ => s.acceptWaiting e
  | _, _, some l, _ => s.acceptLaunch l
  | _, _, _, some a => s.acceptAppend a
  | none, none, none, none => s.acceptAsk k
/-- An event runs through its arm; an instruction with a word of its own is none. -/
def State.runEvent (s : State) (i : Instr) : Host.Outcome State Fault Refusal :=
  if (encodeWord i).isNone then exec i s else .next s
/-- One turn: the head of the agenda, or the team in focus where the agenda is empty. -/
def State.turn (s : State) : Host.Outcome State Fault Refusal :=
  match s.agenda with
  | [] => s.runTeam
  | x :: l =>
    let y := s.firstOf x l
    let s : State := { s with agenda := (x :: l).erase y }
    match y with
    | .event i => s.runEvent i
    | .issue id => if (s.focus id).cur.id = id then (s.focus id).runTeam else .next s
    | .tick n => .next (s.tick n)
    | .perform k lane => .next (s.performLane k lane)
    | .performWrite p i => .next (s.performWrite p i)
    | .accept k => .next (s.accept k)
    | .poison p => .next (s.placePoison p 1)

/-- A team with an open clause of one word that it may issue: a program team of the given identity, with every register, every tile, 32 lanes and nothing pending. -/
def Team.withWord (t : Team) (id : TeamId) (w : Word) : Team :=
  { t with id, lanes := 32, regs := 256, accs := 8, teams := 16, mask := BitVec.ofNat 1024 (2 ^ 32 - 1),
           state := .active, mode := .program, faultPark := none, sf := [], heldRegs := [], fences := [], deferred := [],
           clause := some { hdr := t.pc, header := 0, words := [w], idx := 0 } }

end Sys2Proof.Machine
end

