-- ==== Sys2Proof/Machine/Step.lean ====
section
/-! DEFINITION. The step of the machine, and the state in which the next step runs a given word. -/

namespace Sys2Proof.Machine

/-- One step. -/
def step (s : State) : Host.Outcome State Fault Refusal := s.turn

/-- `s` with the instruction of the bits `w` as the next one its step runs: the word stands in the open clause of the team in focus, which may issue it, and no other turn comes first (log 1). -/
def State.withFetchWord (s : State) (_nbits w : Nat) : State :=
  { s with cur := s.cur.withWord { gid := if s.groupRuns s.cur.id.gid then s.cur.id.gid else 0, idx := 0 } (BitVec.ofNat 64 w),
           agenda := [], loads := [], combs := [], mats := [] }

end Sys2Proof.Machine
end

