-- ==== Sys2Proof/Safety.lean ====
section
/-! DEFINITION. What claims are stated in: the canonical form of memory, runs, an instruction that answers a next state, what an instruction leaves alone, and results as the spec's tables give them. -/

namespace Sys2Proof.Machine

/-! ### The canonical form -/

/-- Memory in its canonical form: addresses strictly rising and no listed byte equal to what an unlisted one reads as. -/
abbrev Memory.wf (m : SMap Byte) : Bool := SMap.wf 0 m
/-- Marks in their canonical form. -/
abbrev Marks.wf (m : SMap Bool) : Bool := SMap.wf false m
/-- A scratchpad allocation in its canonical form. -/
def Scratch.wf (x : Scratch) : Bool := Memory.wf x.mem && Marks.wf x.guard && Marks.wf x.poison
def Group.wf (g : Group) : Bool := g.k.wf && g.q.wf && g.d.wf
/-- Every byte of the machine in its canonical form: memory, marks and scratchpads. -/
def State.wf (s : State) : Bool :=
  Memory.wf s.mem && Marks.wf s.poison && Marks.wf s.guards && s.groups.all Group.wf

/-! ### Runs and completion -/

/-- `n` steps that all answer a next state. -/
def State.runs : Nat → State → Option State
  | 0, s => some s
  | n + 1, s => match step s with
    | .next t => State.runs n t
    | _ => none
/-- A run is safe as long as every step answers a next state: a stop is where the spec leaves the behaviour undefined (R270). -/
def State.safe (n : Nat) (s : State) : Prop := (State.runs n s).isSome = true
/-- The instruction answers a next state, and `p` holds of it. -/
def Completes (i : Instr) (s : State) (p : State → Prop) : Prop := ∃ t, exec i s = .next t ∧ p t

/-! ### What is left alone -/

/-- One byte at any place of this package. -/
def State.byteAt (s : State) (p : Place) : List Byte := s.placeRead p 1
/-- Every byte of memory and of every scratchpad reads as before. -/
def State.sameBytes (s t : State) : Prop := ∀ p, t.byteAt p = s.byteAt p
/-- Only the team in focus may differ. -/
def State.onlyCur (s t : State) : Prop := t = { s with cur := t.cur }
/-- A load after `n` registers of a team from `d` have been written in lanes: the records there are released (R141, R142). -/
def Load.after (ld : Load) (id : TeamId) (d n : Nat) (ls : List Nat) : Load :=
  { ld with
    lanes := ld.lanes.map fun l =>
      (List.range n).foldl (fun l k => if ld.hit id (d + k) && ls.contains l.lane then l.release ld.regs (d + k - ld.d) else l) l }
/-- A load that has been written and has no record left. -/
def Load.ended (ld : Load) : Bool := ld.written && ld.lanes.all fun l => l.over ld.regs
/-- The loads of a state once `n` registers of a team from `d` have been written in lanes: each stands, in its place, with just those records released, but one that has ended with it may be gone (R141, R142). -/
def State.released (s t : State) (id : TeamId) (d n : Nat) (ls : List Nat) : Prop :=
  t.loads.Sublist (s.loads.map fun e => e.after id d n ls) ∧ ∀ e ∈ s.loads, e.after id d n ls ∈ t.loads ∨ (e.after id d n ls).ended = true
/-- Only the team in focus may differ, and the late-answer records of the registers it has written in lanes. -/
def State.onlyCurLoads (s t : State) (d n : Nat) (ls : List Nat) : Prop := t = { s with cur := t.cur, loads := t.loads } ∧ s.released t s.cur.id d n ls
/-- The next instruction of a team, its registers and modes unchanged. -/
def Team.passed (t : Team) : Team := t.advance
/-- The scalar registers but one. -/
def Team.sameS (t u : Team) (d : Nat) : Prop := ∀ j, j ≠ d → u.sreg j = t.sreg j
/-- The scalar predicates but one. -/
def Team.sameQ (t u : Team) (d : Nat) : Prop := ∀ j, j ≠ d → u.qreg j = t.qreg j
/-- The vector registers but `n` from `d`; a team has at most 1,024 lanes (R87). -/
def Team.sameV (t u : Team) (d n : Nat) : Prop := ∀ r L, (r < d ∨ d + n ≤ r) → L < 1024 → u.vreg r L = t.vreg r L
/-- The vector predicates but one. -/
def Team.sameP (t u : Team) (d : Nat) : Prop := ∀ i L, i ≠ d → L < 1024 → u.preg i L = t.preg i L

/-- After an instruction that writes scalar register `d` alone: its cell, every other scalar, and the rest of the machine, memory with it. -/
def State.wroteS (s t : State) (d : Nat) (c : SCell) : Prop :=
  t.cur.sreg d = c ∧ s.cur.sameS t.cur d ∧ t.cur = { s.cur.passed with s := t.cur.s } ∧ s.onlyCur t ∧ s.sameBytes t
/-- The same for a scalar predicate. -/
def State.wroteQ (s t : State) (d : Nat) (c : PCell) : Prop :=
  t.cur.qreg d = c ∧ s.cur.sameQ t.cur d ∧ t.cur = { s.cur.passed with q := t.cur.q } ∧ s.onlyCur t ∧ s.sameBytes t
/-- The same where the instruction has sent a packet on its way: the routers it passes may have woken, and the leases of its bytes are recalled (R17, R167). -/
def State.heardQ (s t : State) (d : Nat) (c : PCell) : Prop :=
  t.cur.qreg d = c ∧ s.cur.sameQ t.cur d ∧ t.cur = { s.cur.passed with q := t.cur.q }
    ∧ t = { s with cur := t.cur, dies := t.dies, cores := t.cores } ∧ (∀ c, t.coreAt c = { s.coreAt c with lease := (t.coreAt c).lease, predictor := (t.coreAt c).predictor })
    ∧ s.sameBytes t
/-- A lane keeps its destination, but becomes tinted where its guard is false and tinted (R57). -/
def Team.keeps (t : Team) (g : LaneGuard) (L : Nat) (tinted : Bool) : Bool :=
  tinted || (t.mask.getLsbD L && (t.lguard g L).tint)
/-- The tint of an active lane's result, from the tint of what it reads (R57, R94, R97). -/
def Team.taints (t : Team) (g : LaneGuard) (L : Nat) (tinted : Bool) : Bool := tinted || (t.lguard g L).tint || t.ctl.getLsbD L
/-- After an instruction that writes `n` vector registers from `d` lane by lane: `f` gives the value of an active lane and the tint of what it reads; an inactive lane keeps its value.
Every other register stays, the flags of $nstat take `fl`, and nothing else changes but the late-answer records of the values overwritten. -/
def State.wroteV (s t : State) (g : LaneGuard) (d n : Nat) (f : Nat → Nat × Bool) (fl : NFlags) : Prop :=
  (∀ k L, k < n → L < s.cur.lanes → L < 1024 → t.cur.vreg (d + k) L =
    if s.cur.active g L then { val := BitVec.ofNat 32 ((f L).1 / 2 ^ (32 * k)), tint := s.cur.taints g L (f L).2 }
    else { val := (s.cur.vreg (d + k) L).val, tint := s.cur.keeps g L (s.cur.vreg (d + k) L).tint })
  ∧ s.cur.sameV t.cur d n
  ∧ t.cur = { s.cur.passed with v := t.cur.v, sys := { s.cur.sys with nstat := s.cur.sys.nstat ||| fl } }
  ∧ s.onlyCurLoads t d n (s.cur.activeLanes g) ∧ s.sameBytes t
/-- After an instruction that writes a vector predicate lane by lane. -/
def State.wroteP (s t : State) (g : LaneGuard) (d : Nat) (f : Nat → PCell) : Prop :=
  (∀ L, L < s.cur.lanes → L < 1024 → t.cur.preg d L =
    if s.cur.active g L then { val := (f L).val, tint := s.cur.taints g L (f L).tint }
    else { val := (s.cur.preg d L).val, tint := s.cur.keeps g L (s.cur.preg d L).tint })
  ∧ s.cur.sameP t.cur d ∧ t.cur = { s.cur.passed with p := t.cur.p } ∧ s.onlyCur t ∧ s.sameBytes t

/-! ### Results as the tables of the spec give them -/

/-- An operand of an integer type as a number (R28). -/
def intValue (ty : IntTy) (x : Nat) : Int := if ty.signed then Int.bmod x (2 ^ ty.bits) else x
/-- An exact result reduced modulo the width (R97). -/
def reduced (ty : IntTy) (z : Int) : Nat := (z % (2 ^ ty.bits : Int)).toNat
/-- A scalar result, extended into 64 bits (R97). -/
def extended (ty : IntTy) (z : Int) : Word :=
  if ty.signed then BitVec.ofInt 64 (Int.bmod z (2 ^ ty.bits)) else BitVec.ofNat 64 (reduced ty z)

/-- A condition on numbers (R101). -/
def condOn (c : Cond) (a b : Int) : Prop :=
  match c with
  | .eq => a = b | .ne => a ≠ b | .lt => a < b | .le => a ≤ b | .gt => b < a | .ge => b ≤ a
/-- The least and the greatest value of a type. -/
def typeMin (ty : IntTy) : Int := if ty.signed then -(2 ^ (ty.bits - 1) : Int) else 0
def typeMax (ty : IntTy) : Int := if ty.signed then (2 ^ (ty.bits - 1) : Int) - 1 else (2 ^ ty.bits : Int) - 1
/-- The selected byte of VPERM: byte `n AND 7` of y:x, or zero (R105). -/
def selByte (x y : Lane) (n : Nat) : Byte := if n < 8 then (y ++ x).extractLsb' (8 * n) 8 else 0
/-- The four bytes of VPERM. -/
def selBytes (x y z : Lane) : Lane :=
  (selByte x y (z.extractLsb' 12 4).toNat ++ selByte x y (z.extractLsb' 8 4).toNat
    ++ selByte x y (z.extractLsb' 4 4).toNat ++ selByte x y (z.extractLsb' 0 4).toNat : BitVec (8 + 8 + 8 + 8))

/-- The combination of the values of a list under an operation of R108, from its identity. -/
def combined (op : RedOp) (ty : IntTy) (xs : List Nat) : Int :=
  match op with
  | .add => (xs.sum : Nat)
  | .min => xs.foldl (fun a x => min a (intValue ty x)) (typeMax ty)
  | .max => xs.foldl (fun a x => max a (intValue ty x)) (typeMin ty)
  | .and => (xs.foldl (· &&& ·) (2 ^ ty.bits - 1) : Nat)
  | .or => (xs.foldl (· ||| ·) 0 : Nat)
  | .xor => (xs.foldl (· ^^^ ·) 0 : Nat)
/-- The source lane of VSHF (R107). -/
def shfSource (t : Team) (f : ShfForm) (L : Nat) : Nat :=
  match f with
  | .idx v => 32 * (L / 32) + (t.vsrc .b32 v L).1 % 32
  | .up n => if n.val ≤ L % 32 then L - n.val else L
  | .dn n => if L % 32 + n.val ≤ 31 then L + n.val else L
  | .bfly n => 32 * (L / 32) + (L % 32 ^^^ n.val)
/-- Elements of `w` bits side by side, the first lowest. -/
def sideBySide (w : Nat) (xs : List Nat) : Nat := xs.foldr (fun x a => x % 2 ^ w + 2 ^ w * a) 0

/-- The program counter moves to `pc` at the end of a clause; `u` is the team with its other changes. -/
def Jumps (i : Instr) (s : State) (u : Team) (pc : Word) : Prop :=
  exec i s = .next { s with cur := { u.goto pc with seq := u.seq + 1 } }
/-- The instruction raises a trap and has no other effect. -/
def Traps (i : Instr) (s : State) (tr : Trap) : Prop := exec i s = .next (s.trap tr)

/-- A scalar instruction of two sources writes the exact result `z`, reduced modulo the width and extended into 64 bits, tinted by its sources, its guard and control tint. -/
def scalarResult (i : Instr) (s : State) (o : SBinOps) (z : Int) : Prop :=
  Completes i s fun t => s.wroteS t o.d.val
    { val := extended o.ty z,
      tint := (s.cur.sread o.ty.bits o.a.val).2 || (s.cur.ssrc o.ty o.b).2 || (s.cur.tguard o.g).tint || s.cur.ctlAny }
/-- A vector instruction writes, in each active lane, the exact result of the lane reduced modulo the width. -/
def vectorResult (i : Instr) (s : State) (g : LaneGuard) (ty : IntTy) (d : Fin 256) (z : Nat → Int) (tint : Nat → Bool) : Prop :=
  Completes i s fun t => s.wroteV t g d.val ty.regs (fun L => (reduced ty (z L), tint L)) 0
/-- One of two sources, lane by lane. -/
def vbinResult (i : Instr) (s : State) (o : VBinOps) (z : Nat → Int) : Prop :=
  vectorResult i s o.g o.ty o.d z fun L => (s.cur.vval o.ty.regs o.a.val L).2 || (s.cur.vsrc o.ty o.b L).2
/-- One of one source. -/
def vunResult (i : Instr) (s : State) (o : VUnOps) (z : Nat → Int) : Prop :=
  vectorResult i s o.g o.ty o.d z fun L => (s.cur.vval o.ty.regs o.a.val L).2
/-- A floating instruction writes one register lane by lane and adds the flags of its active lanes to $nstat (R118). -/
def floatResult (i : Instr) (s : State) (g : LaneGuard) (d : Fin 256) (r : Nat → Nat × NFlags) (tint : Nat → Bool) : Prop :=
  Completes i s fun t => s.wroteV t g d.val 1 (fun L => ((r L).1, tint L)) (s.cur.laneFlags g fun L => (r L).2)
/-- A vector predicate instruction. -/
def predResult (i : Instr) (s : State) (g : LaneGuard) (d : Fin 8) (f : Nat → PCell) : Prop :=
  Completes i s fun t => s.wroteP t g d.val f

/-! ### Accesses -/

/-- No guess stands in the guard of an instruction, and no control tint, in the lanes of the mask. -/
def Team.clean (t : Team) (g : LaneGuard) : Prop :=
  ∀ L, L < t.lanes → t.mask.getLsbD L = true → (t.lguard g L).tint = false ∧ t.ctl.getLsbD L = false
/-- A team guard that is true, untinted, outside control tint. -/
def Team.goes (t : Team) (g : TeamGuard) : Prop := (t.tguard g).val = true ∧ (t.tguard g).tint = false ∧ t.ctlMask = false
/-- No guess stands in an address or in `n` data registers from `c`. -/
def Team.cleanAddr (t : Team) (g : LaneGuard) (a : AddrOp) : Prop := ∀ L ∈ t.activeLanes g, (t.memAddr a L).2 = false
def Team.cleanData (t : Team) (g : LaneGuard) (c n : Nat) : Prop :=
  ∀ L ∈ t.activeLanes g, ∀ k, k < n → (t.vreg (c + k) L).tint = false
/-- The address of each active lane is aligned and lies at the place given (R134, R136). -/
def State.reaches (s : State) (g : LaneGuard) (sp : Space) (need : Need) (w : Width) (a : AddrOp) (pl : Nat → Place) : Prop :=
  ∀ L ∈ s.cur.activeLanes g, (s.cur.memAddr a L).1 % w.bytes = 0
    ∧ ∃ x, s.locate sp need (s.cur.memAddr a L).1 w.bytes = .ok x ∧ x.place = pl L
/-- Nothing of the team in focus is in flight, its prefetches of code among it, no access has been performed ahead of a release or an acquire, and no bank is held for an activation alert. -/
def State.quiet (s : State) : Prop :=
  (∀ ld ∈ s.loads, ld.team ≠ s.cur.id) ∧ (∀ q ∈ s.posts, q.team ≠ s.cur.id) ∧ (∀ j ∈ s.mats, j.team ≠ s.cur.id)
    ∧ (∀ e ∈ s.engs, e.team ≠ s.cur.id) ∧ s.cur.fences = [] ∧ s.early = [] ∧ s.ahead = [] ∧ (∀ p, s.backedOff p = false)
    ∧ ∀ q ∈ s.quads, ∀ l ∈ q.2.l1, l.filling = true → l.by_.map Prod.fst ≠ some s.cur.id
/-- Nothing of the host or of the device itself is in flight, and nothing holds an access of the host (R374). -/
def State.hostIdle (s : State) : Prop :=
  (∀ ld ∈ s.loads, ld.team.gid ≠ 0 ∧ ld.key < s.nextKey) ∧ (∀ q ∈ s.posts, q.team.gid ≠ 0 ∧ q.key < s.nextKey) ∧ (∀ j ∈ s.mats, j.team.gid ≠ 0)
    ∧ (∀ e ∈ s.engs, e.team.gid ≠ 0) ∧ s.early = [] ∧ s.ahead = [] ∧ (∀ p, s.backedOff p = false)
    ∧ ∀ q ∈ s.quads, ∀ l ∈ q.2.l1, l.filling = true → l.by_.map (fun b => b.1.gid) ≠ some 0
/-- The data bytes of a lane of a store: the registers of its group, the lowest first. -/
def Team.storeBytes (t : Team) (w : Width) (c L : Nat) : List Byte := leBytes w.bytes (t.group c w.regs L)

/-- A load of the team in focus that has all its answers, for at most 1,024 lanes, each once (R141). -/
def Load.settledFor (ld : Load) (t : Team) : Prop :=
  ld.team = t.id ∧ t.id.gid ≠ 0 ∧ ld.kind = .load ∧ ld.written = false ∧ ld.redirected = false ∧ ld.keep = []
    ∧ (∀ l ∈ ld.lanes, l.st = .exact ∧ l.bad = none ∧ l.gd = none ∧ l.lane < 1024) ∧ (ld.lanes.map LoadLane.lane).Nodup
/-- After a load has been written: each of its lanes holds its value, tinted where its address or its guard was, and nothing else of the team has changed, but $gorigin where this is the first guess, and no record of another load but those of the values overwritten (R142, R143, R147). -/
def State.wroteLoad (s : State) (ld : Load) (t : State) : Prop :=
  s.sameBytes t ∧ (∀ e ∈ t.loads, e.key = ld.key → e.written = true)
    ∧ (∀ l ∈ ld.lanes, ∀ i, i < ld.regs →
      t.cur.vreg (ld.d + i) l.lane = { val := BitVec.ofNat 32 (l.value / 2 ^ (32 * i)), tint := l.tintAddr || l.tint })
    ∧ (∀ r L, L < 1024 → (r < ld.d ∨ ld.d + ld.regs ≤ r ∨ L ∉ ld.lanes.map LoadLane.lane) → t.cur.vreg r L = s.cur.vreg r L)
    ∧ t.cur = { s.cur with v := t.cur.v, fr := if !s.tintAny && ld.lanes.any LoadLane.tintAddr then { s.cur.fr with gorigin := pcBits ld.pc } else s.cur.fr }
    ∧ (∀ e ∈ t.loads, e.key ≠ ld.key → ∃ x ∈ s.loads, e = x.after ld.team ld.d ld.regs (ld.lanes.map LoadLane.lane))
    ∧ ∀ x ∈ s.loads, x.key ≠ ld.key → x.after ld.team ld.d ld.regs (ld.lanes.map LoadLane.lane) ∈ t.loads
      ∨ (x.after ld.team ld.d ld.regs (ld.lanes.map LoadLane.lane)).ended = true

/-! ### Instructions that leave work to a unit, and events -/

/-- An operation of the asynchronous-issue class that issues now is accepted at once: an outstanding entry has room for it, and no earlier operation of its team waits in WAI (R48, R292). -/
def State.accepts (s : State) : Bool := s.outOk (s.coreOf s.cur.id.gid) (s.kidOf s.cur) && !s.inWai s.cur.id
/-- Every byte reads as before but those of barrier objects on which teams of the group waited, whose waiter bits may clear (R206, R275). -/
def State.sameButWaiters (s : State) (gid : Nat) (t : State) : Prop :=
  ∀ p, (∀ o ∈ s.waitedOn gid, o.place.overlaps 16 p 1 = false) → t.byteAt p = s.byteAt p
/-- Every TLB of the package holds, of each live context, what the walk gives throughout its page (R320). -/
def State.tlbsTrue (s : State) : Prop :=
  ∀ tlb, (∃ c, tlb = (s.coreAt c).tlb) ∨ (∃ q, tlb = (s.quadAt q).tlb) ∨ (∃ d, tlb = (s.dieAt d).tlb) →
    ∀ e ∈ tlb, e.size = sizeBytes (pteSize e.pte) ∧ ∀ c ∈ s.ctxs, c.id = e.ctx → ∀ va, va / e.size = e.page → s.walk c.root va = .ok e.pte

/-- An instruction issues: its team goes on with its registers as they were, no other team changes, and no byte of memory does. -/
def State.issued (s t : State) : Prop := t.cur = s.cur.passed ∧ t.others = s.others ∧ s.sameBytes t
/-- An event leaves every team and every byte of memory alone. -/
def State.calm (s t : State) : Prop := t.cur = s.cur ∧ t.others = s.others ∧ s.sameBytes t
/-- A place of this package. -/
def Place.here (p : Place) : Prop := p.isPeer = false ∧ p ≠ .nowhere
/-- A place of this package with bytes of its own: memory, or a scratchpad of a group. -/
def State.lies (s : State) (p : Place) : Prop :=
  (∃ a, p = .phys a) ∨ ∃ gid sp off, p = .scratch gid sp off ∧ sp ≠ .g ∧ (s.group? gid).isSome = true
/-- A place that takes the bytes of an engine now: memory, or a scratchpad of a group that does not move, where no byte is rejected (R209, R269, R335). -/
def State.takes (s : State) (p : Place) (n : Nat) : Prop :=
  s.rejects p n = false ∧ s.frozen p = none ∧ s.lies p
/-- No guess stands in the scalars listed. -/
def Team.cleanS (t : Team) (l : List (Fin 64)) : Prop := ∀ r ∈ l, (t.sreg r.val).tint = false
/-- The numbers of the accesses in flight are distinct and lie below the next number. -/
def State.numbered (s : State) : Prop := (s.loads.map Load.key).Nodup ∧ ∀ ld ∈ s.loads, ld.key < s.nextKey
/-- Element `e` of tile `d`. -/
def Group.elem (g : Group) (d e : Nat) : Nat := g.tiles.get 0 (4096 * d + e)
/-- Every tile, with its format and its tint, and the weight region are as before. -/
def State.sameTiles (s t : State) : Prop :=
  ∀ gid, (t.group? gid).map (fun g => (g.tiles, g.tileIa, g.tileTint, g.wbuf)) = (s.group? gid).map fun g => (g.tiles, g.tileIa, g.tileTint, g.wbuf)
/-- A matrix instruction stands in its core's queue with the next number of the matrix engine: its team goes on, and no tile, register or byte of memory changes yet (R180, R215). -/
def State.queued (s t : State) (p : MatKind → Prop) : Prop :=
  s.issued t ∧ s.sameTiles t
    ∧ t = { s with cur := t.cur, mats := t.mats, groups := t.groups, loads := t.loads, cores := t.cores, quads := t.quads, dies := t.dies, nextKey := t.nextKey }
    ∧ ∃ j : MatJob, t.mats = s.mats ++ [j] ∧ j.team = s.cur.id ∧ j.core = s.coreOf s.cur.id.gid ∧ j.started = none
      ∧ j.num = some (s.tlNext s.cur.id.gid 17) ∧ p j.kind
/-- The team-guarded instructions whose effects go beyond registers, with their guards (R57). -/
def beyondRegisters (i : Instr) : Option TeamGuard :=
  match i with
  | .tmov o => some o.g
  | .mldw o => some o.g
  | .mldwSave o | .mldwRaw o => some o.g
  | .mgang o => some o.g
  | .binit o => some o.g
  | .binv o => some o.g
  | .bexp o => some o.g
  | .bbind o => some o.g
  | .cpy o => some o.g
  | .cpytLd o | .cpytSt o => some o.g
  | .tlsig o => some o.g
  | .creg o | .cdreg o => some o.g
  | .xsend o => some o.g
  | .xsig o => some o.g
  | .ipin o | .iunpin o => some o.g
  | .launch o => some o.g
  | .enq o | .rsh o => some o.g
  | .trap o | .bkpt o => some o.g
  | _ => none
/-- Their scalar operands in slot order: slot and register (R55). -/
def teamScalars (i : Instr) : List (Nat × Nat) :=
  let bar := fun (present : Bool) (slot : Nat) (r : Fin 64) => if present then [(slot, r.val)] else []
  match i with
  | .tmov o => [(1, o.d.val), (2, o.a.val), (3, o.b.val)] ++ bar o.bar.isSome 4 o.c
  | .mldw o => [(2, o.a.val), (3, o.b.val)]
  | .mldwSave o | .mldwRaw o => [(2, o.a.val), (3, o.b.val), (4, o.c.val)]
  | .binit o => (2, o.a.val) :: match o.n with
    | .reg r => [(3, r.val)]
    | .imm _ => []
  | .binv o => [(2, o.a.val)]
  | .bexp o => [(2, o.a.val), (3, o.b.val)]
  | .bbind o => [(2, o.a.val), (3, o.b.val), (4, o.c.val)]
  | .cpy o => [(1, o.d.val), (2, o.a.val), (3, o.b.val)] ++ bar o.bar.isSome 4 o.c
  | .cpytLd o | .cpytSt o => [(1, o.d.val), (2, o.a.val), (2, o.a.val + 1), (2, o.a.val + 2)] ++ bar o.bar.isSome 3 o.b ++ bar o.map 4 o.c
  | .tlsig o => [(2, o.a.val), (3, o.b.val)]
  | .xsig o => [(2, o.a.val), (3, o.b.val)]
  | .ipin o | .iunpin o => [(2, o.a.val), (3, o.b.val)]
  | .enq o | .rsh o => [(2, o.a.val), (3, o.b.val)]
  | .creg o | .cdreg o => [(2, o.a.val)]
  | .xsend o => [(1, o.d.val), (2, o.a.val), (3, o.b.val)] ++ bar o.bar 4 o.c
  | .launch o => [(2, o.a.val)]
  | _ => []
/-- The lane-guarded instructions whose effects go beyond registers: guard, address, and the registers of their data (R154). -/
def laneOperands (i : Instr) : Option (LaneGuard × AddrOp × Nat × Nat) :=
  match i with
  | .st o | .scat o => some (o.g, o.addr, o.c.val, o.w.regs)
  | .atom o | .red o => some (o.g, o.addr, o.c.val, atomRegs o.w o.op)
  | .xatom o | .xatomNr o => some (o.g, o.addr, o.c.val, atomRegs o.w o.op)
  | .comb o => some (o.g, o.addr, o.c.val, 2)
  | _ => none
def isStore : Instr → Bool
  | .st _ | .scat _ => true
  | _ => false

/-! ### Pages -/

/-- Ranges of physical bytes that do not meet. -/
def separate (a n b m : Nat) : Prop := a + n ≤ b ∨ b + m ≤ a
/-- The level-3 entry of an address lies at `e3`, behind unpoisoned tables of levels 1 and 2 and in no group of a 2 MiB page; neither it nor what the walk reads before it lies in the `n` bytes from `f`, and its own bytes are no other entry's (R316, R317). -/
def State.leads (s : State) (root va e3 f n : Nat) : Prop :=
  let a1 := root + 8 * bitsAt va 42 15
  ∃ e1 e2, s.readPte a1 = .ok e1 ∧ pteLeaf e1 = false ∧ tableOk 1 e1 = true
    ∧ (let a2 := pteNext e1 + 8 * bitsAt va 26 16
      let g := pteNext e2 + 8 * alignDown 32 (bitsAt va 16 10)
      s.readPte a2 = .ok e2 ∧ pteLeaf e2 = false ∧ tableOk 2 e2 = true ∧ e3 = pteNext e2 + 8 * bitsAt va 16 10
        ∧ s.poisoned e3 8 = false ∧ (pteV (s.physWord g) && pteLeaf (s.physWord g) && pteSize (s.physWord g) == 1) = false
        ∧ separate a1 8 e3 8 ∧ separate a2 8 e3 8 ∧ separate a1 32 f n ∧ separate (alignDown 32 a1) 32 f n ∧ separate (alignDown 32 a2) 32 f n
        ∧ separate a2 32 f n ∧ separate (pteNext e2) 8192 f n)
/-- The TLBs that a core's accesses look in (R320). -/
def State.tlbsOf (s : State) (core : Nat) : List (List TlbEntry) :=
  [(s.coreAt core).tlb, (s.quadAt (quadKey core)).tlb, (s.dieAt (pcoreDie core)).tlb]

/-! ### The mailbox -/

/-- A command of the mailbox is pending and may run: its stage is reached, and the ROM alone serves FWSTAGE only (R386, R388, R390). -/
def State.mailed (s : State) (c : MbCmd) (code : Nat) : Prop :=
  s.mailbox.pending = some c ∧ c.code = code ∧ mbStage code ≤ s.stage ∧ (s.firmware.romOnly = false ∨ code = 0x20)
/-- Operand `i` of a command. -/
def MbCmd.arg (c : MbCmd) (i : Nat) : Nat := nth 0 (c.args.map BitVec.toNat) i
/-- The event answers the command with a status, a reason and data in MBRSP, and with a message of vector 0 (R390, R391). -/
def Answers (i : Instr) (s : State) (c : MbCmd) (status reason data : Nat) (p : State → Prop) : Prop :=
  Completes i s fun t =>
    t.mailbox.rsp = BitVec.ofNat 64 (data % 2 ^ 32 * 2 ^ 32 + c.seq % 2 ^ 16 * 2 ^ 16 + reason * 2 ^ 8 + status)
    ∧ t.mailbox.pending = none ∧ t.msix.get 0 0 = s.msix.get 0 0 + 1 ∧ p t
/-- A command that is refused changes nothing but the answer. -/
def Refuses (i : Instr) (s : State) (c : MbCmd) (reason : Nat) : Prop :=
  Answers i s c 1 reason 0 fun t => t = { s with mailbox := t.mailbox, msix := t.msix }
/-- The commands of the mailbox with their codes, and the bits that each operand may have set (R390, R419). -/
def mailCommands (h : Choice) (target : Nat) : List (Instr × Nat × List Nat) :=
  [(.create h, 0x10, [ones 64, ones 57, ones 57, ones 57, ones 57, ones 57, ones 64, ones 57]), (.qreg, 0x11, [ones 19, ones 57]),
   (.qdrop, 0x12, [ones 16, ones 57]), (.recover, 0x13, [ones 16]), (.destroy, 0x14, [ones 16]), (.pretry, 0x18, [ones 16, ones 32]),
   (.pfail, 0x19, [ones 16, ones 32]), (.fwstage, 0x20, [ones 64, ones 64]), (.fwact, 0x21, [1]), (.health, 0x22, []),
   (.hwin, 0x30, [0x1FFFFFFFF033F, 0x1FFFFFFFFFF0000]), (.migrate target, 0x31, [ones 11]), (.halt, 0x32, [ones 16, ones 64, ones 31]),
   (.resume, 0x33, [ones 16, ones 64, ones 31]), (.slice, 0x34, [0x3FF0003])]

end Sys2Proof.Machine
end

