-- ==== Sys2Proof/Certificates/Slice0/Obligations.lean ====
section
/-! DEFINITION. The statements for the provers. -/

open Sys2Proof Sys2Proof.Machine

/-! ### Encoding -/

/-- Decoding the word of a well-formed instruction gives it back, with every operand at every value its encoding admits (R54-R59). -/
def Obligations.EncodeDecode : Prop :=
  ∀ (e : Env) (i : Instr) (w : Word), i.wf e = true → encodeWord i = some w → decodeWord e w = .ok i

/-- A word that decodes is the word of the instruction it decodes to, which is well formed: no bit of a legal word is without meaning (R60). -/
def Obligations.DecodeEncode : Prop :=
  ∀ (e : Env) (w : Word) (i : Instr), decodeWord e w = .ok i → encodeWord i = some w ∧ i.wf e = true

/-! ### Scalar instructions -/

/-- The scalar instructions of two sources (R97, R99, R100): x and y are the sources' bits, vx and vy their values under the type. -/
def Claims.ScalarArithmetic : Prop :=
  ∀ (s : State) (o : SBinOps), (s.cur.tguard o.g).val = true →
    let w := o.ty.bits
    let x := (s.cur.sread w o.a.val).1
    let y := (s.cur.ssrc o.ty o.b).1
    let vx := intValue o.ty x
    let vy := intValue o.ty y
    scalarResult (.sadd o) s o (vx + vy) ∧ scalarResult (.ssub o) s o (vx - vy) ∧ scalarResult (.smul o) s o (vx * vy)
    ∧ scalarResult (.smulh o) s o (vx * vy / 2 ^ w)
    ∧ scalarResult (.sand o) s o (x &&& y : Nat) ∧ scalarResult (.sor o) s o (x ||| y : Nat)
    ∧ scalarResult (.sxor o) s o (x ^^^ y : Nat)
    ∧ scalarResult (.sshl o) s o (if w ≤ y then 0 else (x * 2 ^ y : Nat))
    ∧ scalarResult (.sshr o) s o (if w ≤ y then 0 else (x / 2 ^ y : Nat))
    ∧ scalarResult (.ssar o) s o (Int.bmod x (2 ^ w) / 2 ^ y)
    ∧ scalarResult (.smin o) s o (min vx vy) ∧ scalarResult (.smax o) s o (max vx vy)

/-- The other scalar instructions: moves, immediates, selection, comparison and the label address (R100-R102). -/
def Obligations.ScalarMoves : Prop :=
  (∀ (s : State) (o : SUnOps), (s.cur.tguard o.g).val = true →
    let x := s.cur.sread o.ty.bits o.a.val
    Completes (.smov o) s fun t => s.wroteS t o.d.val
      { val := extended o.ty (intValue o.ty x.1), tint := x.2 || (s.cur.tguard o.g).tint || s.cur.ctlAny })
  ∧ (∀ (s : State) (o : SImmOps), (s.cur.tguard o.g).val = true →
    Completes (.smovi o) s fun t => s.wroteS t o.d.val
      { val := if o.ty.signed then o.imm.signExtend 64 else o.imm.setWidth 64, tint := (s.cur.tguard o.g).tint || s.cur.ctlAny })
  ∧ (∀ (s : State) (o : SSelOps), (s.cur.tguard o.g).val = true →
    let q := s.cur.qreg o.c.val
    let x := s.cur.sread o.ty.bits (if q.val then o.a.val else o.b.val)
    Completes (.ssel o) s fun t => s.wroteS t o.d.val
      { val := extended o.ty (intValue o.ty x.1), tint := q.tint || x.2 || (s.cur.tguard o.g).tint || s.cur.ctlAny })
  ∧ (∀ (s : State) (o : SCmpOps), (s.cur.tguard o.g).val = true →
    let x := s.cur.sread o.ty.bits o.a.val
    let y := s.cur.ssrc16 o.ty o.b
    ∃ b : Bool, (b = true ↔ condOn o.c (intValue o.ty x.1) (intValue o.ty y.1)) ∧
      Completes (.scmp o) s fun t => s.wroteQ t o.d.val
        { val := b, tint := x.2 || y.2 || (s.cur.tguard o.g).tint || s.cur.ctlAny })
  ∧ (∀ (s : State) (o : SBranchOps), (s.cur.tguard o.g).val = true →
    Completes (.slda o) s fun t => s.wroteS t o.s.val
      { val := s.cur.hdrAddr + o.off.signExtend 64, tint := (s.cur.tguard o.g).tint || s.cur.ctlAny })

/-- A scalar instruction under a false guard passes without effect where the guard is untinted, and only tints its destination where it is tinted (R56, R57). -/
def Claims.ScalarGuardedOff : Prop :=
  ∀ (s : State) (o : SBinOps) (i : Instr),
    i ∈ [Instr.sadd o, .ssub o, .smul o, .smulh o, .sand o, .sor o, .sxor o, .sshl o, .sshr o, .ssar o, .smin o, .smax o] →
    (s.cur.tguard o.g).val = false →
    ((s.cur.tguard o.g).tint = false → exec i s = .next s.advance) ∧
    ((s.cur.tguard o.g).tint = true →
      Completes i s fun t => s.wroteS t o.d.val { s.cur.sreg o.d.val with tint := true })

/-- Scalar instructions of two sources: the result of each, and the cases in which a guard that does not hold lets the team pass (R56, R57, R97, R99, R100). -/
def Obligations.ScalarArithmetic : Prop := Claims.ScalarArithmetic ∧ Claims.ScalarGuardedOff

/-! ### Vector integer instructions -/

/-- The vector instructions of two sources, lane by lane, on registers and on pairs (R97, R99, R103). -/
def Claims.VectorArithmetic : Prop :=
  ∀ (s : State) (o : VBinOps),
    let w := o.ty.bits
    let x := fun L => (s.cur.vval o.ty.regs o.a.val L).1
    let y := fun L => (s.cur.vsrc o.ty o.b L).1
    let vx := fun L => intValue o.ty (x L)
    let vy := fun L => intValue o.ty (y L)
    vbinResult (.vadd o) s o (fun L => vx L + vy L) ∧ vbinResult (.vsub o) s o (fun L => vx L - vy L)
    ∧ vbinResult (.vmul o) s o (fun L => vx L * vy L) ∧ vbinResult (.vmulh o) s o (fun L => vx L * vy L / 2 ^ w)
    ∧ vbinResult (.vmin o) s o (fun L => min (vx L) (vy L)) ∧ vbinResult (.vmax o) s o (fun L => max (vx L) (vy L))
    ∧ vbinResult (.vand o) s o (fun L => (x L &&& y L : Nat)) ∧ vbinResult (.vor o) s o (fun L => (x L ||| y L : Nat))
    ∧ vbinResult (.vxor o) s o (fun L => (x L ^^^ y L : Nat))
    ∧ vbinResult (.vshl o) s o (fun L => if w ≤ y L then 0 else (x L * 2 ^ y L : Nat))
    ∧ vbinResult (.vshr o) s o (fun L => if w ≤ y L then 0 else (x L / 2 ^ y L : Nat))
    ∧ vbinResult (.vsar o) s o (fun L => Int.bmod (x L) (2 ^ w) / 2 ^ y L)

/-- The vector instructions of one source, with VMOVI and VBCST (R103). -/
def Obligations.VectorUnary : Prop :=
  (∀ (s : State) (o : VUnOps),
    let w := o.ty.bits
    let x := fun L => (s.cur.vval o.ty.regs o.a.val L).1
    vunResult (.vmov o) s o (fun L => (x L : Nat)) ∧ vunResult (.vnot o) s o (fun L => 2 ^ w - 1 - (x L : Int))
    ∧ vunResult (.vabs o) s o (fun L => |Int.bmod (x L) (2 ^ w)|) ∧ vunResult (.vneg o) s o (fun L => -(x L : Int))
    ∧ vunResult (.vclz o) s o (fun L => (((List.range w).filter fun k => x L < 2 ^ k).length : Nat))
    ∧ vunResult (.vpopc o) s o (fun L => (((List.range w).filter fun k => (x L).testBit k).length : Nat)))
  ∧ (∀ (s : State) (o : VImmOps),
    vectorResult (.vmovi o) s o.g o.ty o.d (fun _ => if o.ty.signed then o.imm.toInt else o.imm.toNat) (fun _ => false))
  ∧ (∀ (s : State) (o : VBcstOps),
    vectorResult (.vbcst o) s o.g o.ty o.d (fun _ => (s.cur.sread o.ty.bits o.a.val).1) (fun _ => (s.cur.sread o.ty.bits o.a.val).2))

/-- VADDS and VSUBS clamp to the range of the type, and set SAT when a lane clamps (R40, R103). -/
def Claims.VectorSaturating : Prop :=
  ∀ (s : State) (o : VBinOps),
    let vx := fun L => intValue o.ty (s.cur.vval o.ty.regs o.a.val L).1
    let vy := fun L => intValue o.ty (s.cur.vsrc o.ty o.b L).1
    let tint := fun L => (s.cur.vval o.ty.regs o.a.val L).2 || (s.cur.vsrc o.ty o.b L).2
    let clamped := fun (z : Nat → Int) (i : Instr) => Completes i s fun t =>
      s.wroteV t o.g o.d.val o.ty.regs (fun L => (reduced o.ty (max (typeMin o.ty) (min (z L) (typeMax o.ty))), tint L))
        (if (s.cur.activeLanes o.g).any (fun L => decide (z L < typeMin o.ty) || decide (typeMax o.ty < z L)) then NFlags.sat else 0)
    clamped (fun L => vx L + vy L) (.vadds o) ∧ clamped (fun L => vx L - vy L) (.vsubs o)

/-- Vector instructions of two sources, wrapping and saturating, with the SAT flag (R40, R97, R99, R103). -/
def Obligations.VectorArithmetic : Prop := Claims.VectorArithmetic ∧ Claims.VectorSaturating

/-- Multiply-add, byte permutation, selection, displacement and bit fields, lane by lane (R103-R106). -/
def Claims.VectorThreeSources : Prop :=
  (∀ (s : State) (o : VTriOps),
    let x := fun L => s.cur.vval o.ty.regs o.a.val L
    let y := fun L => s.cur.vsrc o.ty o.b L
    let z := fun L => s.cur.vsrc o.ty o.c L
    let tint := fun L => (x L).2 || (y L).2 || (z L).2
    vectorResult (.vmad o) s o.g o.ty o.d (fun L => intValue o.ty (x L).1 * intValue o.ty (y L).1 + intValue o.ty (z L).1) tint
    ∧ (o.ty = .b32 → vectorResult (.vperm o) s o.g o.ty o.d
        (fun L => (selBytes (BitVec.ofNat 32 (x L).1) (BitVec.ofNat 32 (y L).1) (BitVec.ofNat 32 (z L).1)).toNat) tint))
  ∧ (∀ (s : State) (o : VSelOps),
    let c := fun L => s.cur.preg o.c.val L
    let x := fun L => if (c L).val then s.cur.vval o.ty.regs o.a.val L else s.cur.vsrc16 o.ty o.b L
    vectorResult (.vsel o) s o.g o.ty o.d (fun L => ((x L).1 : Nat)) (fun L => (x L).2 || (c L).tint))
  ∧ (∀ (s : State) (o : VLeaOps),
    vectorResult (.vlea o) s o.g .i32 o.d
      (fun L => ((s.cur.sval o.a).toNat + (s.cur.vsrc .i32 o.b L).1 * 2 ^ o.k.val : Nat))
      (fun L => (s.cur.sreg o.a.val).tint || (s.cur.vsrc .i32 o.b L).2))

/-- VBFE and VBFI on the field of `l := min(len, 32 - pos)` bits at `pos` (R104). -/
def Claims.BitFields : Prop :=
  ∀ (s : State) (o : VBfOps), o.ty.bits = 32 →
    let pos := fun L => match o.f with
      | .imm p _ => p.val
      | .src b _ => (s.cur.vsrc o.ty b L).1 % 32
    let len := fun L => match o.f with
      | .imm _ n => n.val
      | .src _ c => min (s.cur.vsrc o.ty c L).1 32
    let tint := fun L => match o.f with
      | .imm _ _ => false
      | .src b c => (s.cur.vsrc o.ty b L).2 || (s.cur.vsrc o.ty c L).2
    let l := fun L => min (len L) (32 - pos L)
    let x := fun L => s.cur.vreg o.a.val L
    let d := fun L => s.cur.vreg o.d.val L
    let f : Nat → Nat := fun L => (x L).val.toNat / 2 ^ pos L % 2 ^ l L
    vectorResult (.vbfe o) s o.g o.ty o.d (fun L => if o.ty.signed ∧ l L ≠ 0 then Int.bmod (f L) (2 ^ l L) else (f L : Nat))
      (fun L => (x L).tint || tint L)
    ∧ vectorResult (.vbfi o) s o.g o.ty o.d
      (fun L => (bitsOf 32 (fun b => if pos L ≤ b ∧ b < pos L + l L then (x L).val.getLsbD (b - pos L) else (d L).val.getLsbD b) : Nat))
      (fun L => (x L).tint || (d L).tint || tint L)

/-- Vector instructions of three sources, and the bit fields (R103-R106). -/
def Obligations.VectorFields : Prop := Claims.VectorThreeSources ∧ Claims.BitFields

/-- Lane exchange within a row, reductions over the active lanes in ascending order, and ballots (R107-R109); the tints of VRED, VSCAN and VBAL follow the reading of log 18.
The index of VSHF.idx is one 32-bit register, in its value and its tint, under 64-bit types too: the model's choice of log 58. -/
def Obligations.LaneExchange : Prop :=
  (∀ (s : State) (o : VShfOps),
    let x := fun L => s.cur.vval o.ty.regs o.a.val (shfSource s.cur o.f L)
    let i := fun L => match o.f with
      | .idx v => (s.cur.vsrc .b32 v L).2
      | _ => false
    vectorResult (.vshf o) s o.g o.ty o.d (fun L => ((x L).1 : Nat)) (fun L => (x L).2 || i L))
  ∧ (∀ (s : State) (o : VRedOps),
    let part := fun n => (s.cur.activeLanes o.g).filter (· < n)
    let xs := fun n => (part n).map fun L => (s.cur.vval o.ty.regs o.a.val L).1
    let tint := fun n => (part n).any fun L =>
      (s.cur.vval o.ty.regs o.a.val L).2 || (s.cur.lguard o.g L).tint || s.cur.ctl.getLsbD L
    vectorResult (.vred o) s o.g o.ty o.d (fun _ => combined o.op o.ty (xs s.cur.lanes)) (fun _ => tint s.cur.lanes)
    ∧ vectorResult (.vscan o) s o.g o.ty o.d (fun L => combined o.op o.ty (xs (if o.excl then L else L + 1)))
      (fun L => tint (if o.excl then L else L + 1)))
  ∧ (∀ (s : State) (o : VBalOps),
    let p := fun L b => s.cur.preg o.p.val (32 * (L / 32) + b)
    let on := fun L b => s.cur.active o.g (32 * (L / 32) + b)
    let tint := fun L => (List.range 32).any fun b => on L b &&
      ((p L b).tint || (s.cur.lguard o.g (32 * (L / 32) + b)).tint || s.cur.ctl.getLsbD (32 * (L / 32) + b))
    vectorResult (.vbal o) s o.g .b32 o.d (fun L => (bitsOf 32 (fun b => on L b && (p L b).val) : Nat)) tint)

/-! ### Predicates -/

/-- VCMP and FCMP write their condition into each active lane's bit (R101, R103, R121). -/
def Claims.Comparisons : Prop :=
  (∀ (s : State) (o : VCmpOps), o.d ≠ 0 →
    let x := fun L => s.cur.vval o.ty.regs o.a.val L
    let y := fun L => s.cur.vsrc16 o.ty o.b L
    ∃ b : Nat → Bool, (∀ L, b L = true ↔ condOn o.c (intValue o.ty (x L).1) (intValue o.ty (y L).1)) ∧
      predResult (.vcmp o) s o.g o.d fun L => { val := b L, tint := (x L).2 || (y L).2 })
  ∧ (∀ (s : State) (o : FCmpOps), o.d ≠ 0 →
    let x := fun L => s.cur.fval o.ty o.a.val L
    let y := fun L => s.cur.fsrc o.ty o.b L
    predResult (.fcmp o) s o.g o.d fun L =>
      { val := o.c.holds (o.ty.ff.read s.cur.ftz (x L).1) (o.ty.ff.read s.cur.ftz (y L).1), tint := (x L).2 || (y L).2 })

/-- The predicate instructions in their vector and scalar forms, PANY and PALL (R110, R111). -/
def Claims.Predicates : Prop :=
  (∀ (s : State) (o : PBinOps) (f : Bool → Bool → Bool) (i : Instr),
    (i = .pand o ∧ f = and) ∨ (i = .por o ∧ f = or) ∨ (i = .pxor o ∧ f = xor) →
    let r := fun L : Nat => PCell.mk (f (s.cur.predv o.a L).val (s.cur.predv o.b L).val) ((s.cur.predv o.a L).tint || (s.cur.predv o.b L).tint)
    (∀ d, o.d = .p d → d ≠ 0 → predResult i s o.g d r)
    ∧ (∀ d, o.d = .q d → Completes i s fun t => s.wroteQ t d.val { r 0 with tint := (r 0).tint || s.cur.ctlAny }))
  ∧ (∀ (s : State) (o : PUnOps) (f : Bool → Bool) (i : Instr), (i = .pnot o ∧ f = not) ∨ (i = .pmov o ∧ f = id) →
    let r := fun L : Nat => PCell.mk (f (s.cur.predv o.a L).val) (s.cur.predv o.a L).tint
    (∀ d, o.d = .p d → d ≠ 0 → predResult i s o.g d r)
    ∧ (∀ d, o.d = .q d → Completes i s fun t => s.wroteQ t d.val { r 0 with tint := (r 0).tint || s.cur.ctlAny }))
  ∧ (∀ (s : State) (o : PAnyOps),
    let lanes := s.cur.activeLanes o.g
    let tint := lanes.any (fun L => (s.cur.preg o.a.val L).tint || (s.cur.lguard o.g L).tint) || s.cur.ctlAny
    (∃ b : Bool, (b = true ↔ ∃ L ∈ lanes, (s.cur.preg o.a.val L).val = true) ∧
      Completes (.pany o) s fun t => s.wroteQ t o.d.val { val := b, tint })
    ∧ (∃ b : Bool, (b = true ↔ ∀ L ∈ lanes, (s.cur.preg o.a.val L).val = true) ∧
      Completes (.pall o) s fun t => s.wroteQ t o.d.val { val := b, tint }))

/-- Comparisons and the predicate instructions (R101, R103, R110, R111, R121). -/
def Obligations.CompareAndPredicates : Prop := Claims.Comparisons ∧ Claims.Predicates

/-! ### Floating point -/

/-- Floating arithmetic on the operands' numbers, each result rounded once, with the flags of the active lanes (R118, R119). -/
def Claims.FloatArithmetic : Prop :=
  (∀ (s : State) (o : FBinOps),
    let t := s.cur
    let x := fun L => o.ty.ff.read t.ftz (t.fval o.ty o.a.val L).1
    let y := fun L => o.ty.ff.read t.ftz (t.fsrc o.ty o.b L).1
    let tint := fun L => (t.fval o.ty o.a.val L).2 || (t.fsrc o.ty o.b L).2
    floatResult (.fadd o) s o.g o.d (fun L => fpAdd o.ty.ff o.rm t.ftz (x L) (y L)) tint
    ∧ floatResult (.fsub o) s o.g o.d (fun L => fpAdd o.ty.ff o.rm t.ftz (x L) (y L).negate) tint
    ∧ floatResult (.fmul o) s o.g o.d (fun L => fpMul o.ty.ff o.rm t.ftz (x L) (y L)) tint)
  ∧ (∀ (s : State) (o : FTriOps),
    let t := s.cur
    let rd := o.ty.ff.read t.ftz
    floatResult (.ffma o) s o.g o.d
      (fun L => fpFma o.ty.ff o.rm t.ftz [(rd (t.fval o.ty o.a.val L).1, rd (t.fsrc o.ty o.b L).1)] (rd (t.fsrc o.ty o.c L).1))
      (fun L => (t.fval o.ty o.a.val L).2 || (t.fsrc o.ty o.b L).2 || (t.fsrc o.ty o.c L).2))

/-- Floating instructions on patterns: least and greatest, sign, class and rounding to an integral value; none sets a flag (R119, R120, R122, R123). -/
def Claims.FloatPatterns : Prop :=
  (∀ (s : State) (o : FBinOps),
    let t := s.cur
    let r := fun mx L => (fpMinMax o.ty.ff t.ftz mx (t.fval o.ty o.a.val L).1 (t.fsrc o.ty o.b L).1, (0 : NFlags))
    let tint := fun L => (t.fval o.ty o.a.val L).2 || (t.fsrc o.ty o.b L).2
    floatResult (.fmin o) s o.g o.d (r false) tint ∧ floatResult (.fmax o) s o.g o.d (r true) tint)
  ∧ (∀ (s : State) (o : FUnOps),
    let t := s.cur
    let r := fun f L => (f (t.fval o.ty o.a.val L).1, (0 : NFlags))
    let tint := fun L => (t.fval o.ty o.a.val L).2
    floatResult (.fabs o) s o.g o.d (r (fpSign o.ty.ff t.ftz fun _ => false)) tint
    ∧ floatResult (.fneg o) s o.g o.d (r (fpSign o.ty.ff t.ftz not)) tint
    ∧ floatResult (.fclass o) s o.g o.d (r (fpClass o.ty.ff)) tint
    ∧ floatResult (.frnd o) s o.g o.d (r (fpRound o.ty.ff o.rm t.ftz)) tint)

/-- The packed instructions: both halves of a lane, and the two-element dot product into f32 (R124, R125). -/
def Claims.FloatPacked : Prop :=
  (∀ (s : State) (o : FBinOps),
    let t := s.cur
    let x := fun L h => o.ty.ff.read t.ftz (half o.ty (t.vval 1 o.a.val L).1 h)
    let y := fun L h => o.ty.ff.read t.ftz (half o.ty (t.psrc o.b L).1 h)
    let both := fun (r : Nat → Nat × NFlags) => ((r 0).1 + 2 ^ 16 * (r 1).1, (r 0).2 ||| (r 1).2)
    let tint := fun L => (t.vval 1 o.a.val L).2 || (t.psrc o.b L).2
    floatResult (.hadd2 o) s o.g o.d (fun L => both fun h => fpAdd o.ty.ff o.rm t.ftz (x L h) (y L h)) tint
    ∧ floatResult (.hmul2 o) s o.g o.d (fun L => both fun h => fpMul o.ty.ff o.rm t.ftz (x L h) (y L h)) tint)
  ∧ (∀ (s : State) (o : FTriOps),
    let t := s.cur
    let x := fun L h => o.ty.ff.read t.ftz (half o.ty (t.vval 1 o.a.val L).1 h)
    let y := fun L h => o.ty.ff.read t.ftz (half o.ty (t.psrc o.b L).1 h)
    let z := fun L h => o.ty.ff.read t.ftz (half o.ty (t.psrc o.c L).1 h)
    let both := fun (r : Nat → Nat × NFlags) => ((r 0).1 + 2 ^ 16 * (r 1).1, (r 0).2 ||| (r 1).2)
    let tint := fun L => (t.vval 1 o.a.val L).2 || (t.psrc o.b L).2 || (t.psrc o.c L).2
    floatResult (.hfma2 o) s o.g o.d (fun L => both fun h => fpFma o.ty.ff o.rm t.ftz [(x L h, y L h)] (z L h)) tint
    ∧ floatResult (.fdot2 o) s o.g o.d
      (fun L => fpFma .f32 o.rm t.ftz [(x L 0, y L 0), (x L 1, y L 1)] (FF.f32.read t.ftz (t.psrc o.c L).1)) tint)

/-- Floating arithmetic, the instructions on patterns and the packed ones (R118-R125). -/
def Obligations.FloatArithmetic : Prop := Claims.FloatArithmetic ∧ Claims.FloatPatterns ∧ Claims.FloatPacked

/-- A special function raises its flags at once and leaves a result outstanding for its active lanes; SPECIAL_FUNCTION_RESULT writes it and ends it (R40, R48, R126).
A result that R127 only bounds holds the free value of log 6: the statement holds for every value of it.
The late-answer records that the write abandons are those of the active lanes: a lane under a false tinted guard keeps its value and its record (log 87). -/
def Obligations.SpecialFunctions : Prop :=
  (∀ (s : State) (o : FUnOps) (i : Instr) (op : Nat),
    (i, op) ∈ [(Instr.frcp o, 0x60), (.frsq o, 0x61), (.fsqrt o, 0x62), (.fexp2 o, 0x63), (.flog2 o, 0x64), (.fsinpi o, 0x65),
      (.fcospi o, 0x66), (.ftanh o, 0x67), (.fsigm o, 0x68)] →
    let r := fun L => sfTyped op o.ty s.cur.ftz (s.cur.fval o.ty o.a.val L).1
    Completes i s fun t => ∃ res : SfResult,
      res.key = s.nextKey ∧ res.d = o.d.val ∧ res.act = s.cur.activeLanes o.g
      ∧ (∀ L, L < s.cur.lanes → s.cur.active o.g L = true →
        (L, ({ val := BitVec.ofNat 32 (r L).1, tint := s.cur.taints o.g L (s.cur.fval o.ty o.a.val L).2 } : VCell)) ∈ res.lanes)
      ∧ t.cur = { s.cur.passed with
          sf := s.cur.sf ++ [res],
          sys := { s.cur.sys with nstat := s.cur.sys.nstat ||| s.cur.laneFlags o.g fun L => (r L).2 } }
      ∧ t = { s with cur := t.cur, nextKey := s.nextKey + 1 } ∧ s.sameBytes t)
  ∧ (∀ (s : State) (k : Nat) (r : SfResult), s.cur.sf.find? (fun r => r.key == k) = some r → (r.lanes.map Prod.fst).Nodup →
    Completes (.specialFunctionResult s.cur.id k) s fun t =>
      (∀ L c, (L, c) ∈ r.lanes → t.cur.vreg r.d L = c)
      ∧ (∀ q L, L < 1024 → (∀ p ∈ r.lanes, p.1 < 1024) → (q ≠ r.d ∨ L ∉ r.lanes.map Prod.fst) → t.cur.vreg q L = s.cur.vreg q L)
      ∧ t.cur = { s.cur with v := t.cur.v, sf := s.cur.sf.filter fun r => r.key != k } ∧ t = { s with cur := t.cur, loads := t.loads }
      ∧ s.released t s.cur.id r.d 1 r.act ∧ s.sameBytes t)

/-! ### Conversions -/

/-- CVT, PACK, UNPK, QUANT and DEQ (R128-R132). That a lane of QUANT takes its tint from every active lane of its block, its guard and control tint included, is the reading of log 18. -/
def Obligations.Conversions : Prop :=
  ∀ (s : State) (o : CvtOps),
    let t := s.cur
    (let n := cvtRegs o.st
     let r := fun L => cvtOne o.dt o.st o.rm o.sat t.ftz (t.vval n o.a.val L).1
     Completes (.cvt o) s fun u => s.wroteV u o.g o.d.val (cvtRegs o.dt)
       (fun L => (laneForm o.dt (r L).1, (t.vval n o.a.val L).2)) (t.laneFlags o.g fun L => (r L).2))
    ∧ (let ks := List.range (perLane o.dt)
       let r := fun L k => cvtOne o.dt o.st o.rm o.sat t.ftz (t.vreg (o.a.val + k) L).val.toNat
       Completes (.pack o) s fun u => s.wroteV u o.g o.d.val 1
         (fun L => (ks.foldr (fun k a => (r L k).1 + 2 ^ o.dt.bits * a) 0, ks.any fun k => (t.vreg (o.a.val + k) L).tint))
         (t.laneFlags o.g fun L => ks.foldr (fun k a => a ||| (r L k).2) 0))
    ∧ (let x := fun L => (t.vreg o.a.val L).val.toNat
       Completes (.unpk o) s fun u => s.wroteV u o.g o.d.val (perLane o.st)
         (fun L => (sideBySide 32 ((List.range (perLane o.st)).map fun k =>
           laneForm o.dt (cvtOne o.dt o.st .rn false t.ftz (bitsAt (x L) (k * o.st.bits) o.st.bits)).1), (t.vreg o.a.val L).tint)) 0)
    ∧ (let x := fun L => if t.active o.g L then FF.f32.dec (t.vreg o.a.val L).val.toNat else Sys2Proof.Num.zero
       let row := fun L => (List.range 32).map fun b => 32 * (L / 32) + b
       let sc := fun L => blockScale (mxEmax o.dt) ((row L).map x)
       floatResult (.quant o) s o.g o.d
         (fun L => (256 * scaleByte (sc L) + (blockElem o.dt o.rm (sc L) (x L)).1, (blockElem o.dt o.rm (sc L) (x L)).2))
         (fun L => (row L).any fun M => t.active o.g M && ((t.vreg o.a.val M).tint || (t.lguard o.g M).tint || t.ctl.getLsbD M)))
    ∧ floatResult (.deq o) s o.g o.d (fun L => deqOne o.dt o.st o.rm (t.vreg o.a.val L).val.toNat) (fun L => (t.vreg o.a.val L).tint)

/-! ### Control -/

/-- NOP has no effect: the next instruction of the clause is next, or, after the last one, the header of the clause that follows (R45, R112). -/
def Claims.NopPasses : Prop :=
  ∀ (s : State) (g : TeamGuard) (c : Clause), s.cur.clause = some c →
    Completes (.nop g) s fun t => s.onlyCur t ∧ s.sameBytes t
      ∧ (c.idx + 1 < c.words.length → t.cur = { s.cur with clause := some { c with idx := c.idx + 1 }, seq := s.cur.seq + 1 })
      ∧ (c.words.length ≤ c.idx + 1 → t.cur.clause = none ∧ t.cur.start = 0 ∧ t.cur.pc = c.hdr + BitVec.ofNat 64 (8 * (c.words.length + 1))
        ∧ t.cur.v = s.cur.v ∧ t.cur.s = s.cur.s ∧ t.cur.p = s.cur.p ∧ t.cur.q = s.cur.q ∧ t.cur.mask = s.cur.mask ∧ t.cur.sys = s.cur.sys)

/-- The branches, the counted loop, the call and the return, under a guard that is true and untinted; under a false one each falls through (R50, R58, R112). -/
def Claims.Branches : Prop :=
  ∀ (s : State) (off : Lane) (g : TeamGuard), (s.cur.tguard g).tint = false →
    let target := s.cur.hdrAddr + 8 * off.signExtend 64
    let next := s.cur.nextClause
    ((s.cur.tguard g).val = true →
      Jumps (.bra ⟨g, off⟩) s s.cur target
      ∧ (∀ q sense, (s.cur.qreg q.val).tint = false →
        Jumps (.brq ⟨g, sense, q, off⟩) s s.cur (if xor (s.cur.qreg q.val).val sense then target else next))
      ∧ (∀ r, (s.cur.sreg r.val).tint = false →
        Jumps (.loop ⟨g, r, off⟩) s
          { s.cur with s := s.cur.s.set SCell.zero r.val { val := s.cur.sval r - 1, tint := s.cur.ctlAny } }
          (if s.cur.sval r = 1 then next else target))
      ∧ (∀ r, Jumps (.call ⟨g, r, off⟩) s { s.cur with s := s.cur.s.set SCell.zero r.val { val := next, tint := false } } target)
      ∧ (∀ r, (s.cur.sreg r.val).tint = false →
        if (s.cur.sval r).toNat % 8 = 0 then Jumps (.ret ⟨g, r⟩) s s.cur (s.cur.sval r)
        else Traps (.ret ⟨g, r⟩) s (Trap.of cIllegalClause (s.cur.sval r).toNat)))
    ∧ ((s.cur.tguard g).val = false →
      Jumps (.bra ⟨g, off⟩) s s.cur next ∧ (∀ q sense, Jumps (.brq ⟨g, sense, q, off⟩) s s.cur next)
      ∧ (∀ r, Jumps (.loop ⟨g, r, off⟩) s s.cur next ∧ Jumps (.call ⟨g, r, off⟩) s s.cur next ∧ Jumps (.ret ⟨g, r⟩) s s.cur next)
      ∧ Jumps (.exit g) s s.cur next)

/-- NOP, the branches, the counted loop, the call and the return (R45, R50, R58, R112). -/
def Obligations.BranchesAndPasses : Prop := Claims.NopPasses ∧ Claims.Branches

/-- BRD and JOIN: a region entered pushes the mask and the control tint, an empty untinted one is skipped; JOIN restores them (R92, R93). -/
def Claims.MaskStack : Prop :=
  (∀ (s : State) (o : BrdOps),
    let t := s.cur
    let enters := fun L => t.mask.getLsbD L && (t.lguard o.g L).val && xor (t.preg o.p.val L).val o.sense
    let tinted := fun L => t.mask.getLsbD L && ((t.preg o.p.val L).tint || (t.lguard o.g L).tint)
    let target := t.hdrAddr + 8 * o.off.signExtend 64
    ((∀ L, L < t.lanes → enters L = false ∧ tinted L = false) → Jumps (.brd o) s t target)
    ∧ ((∃ L, L < t.lanes ∧ (enters L = true ∨ tinted L = true)) →
      (32 ≤ t.stack.length → Traps (.brd o) s (Trap.of cStackOver 0))
      ∧ (t.stack.length < 32 → ∃ m c : LaneSet,
        (∀ L, L < 1024 → m.getLsbD L = (decide (L < t.lanes) && enters L) ∧ c.getLsbD L = (t.ctl.getLsbD L || (decide (L < t.lanes) && tinted L)))
        ∧ Jumps (.brd o) s { t with stack := { target, mask := t.mask, ctl := t.ctl } :: t.stack, mask := m, ctl := c } t.nextClause)))
  ∧ (∀ (s : State) (g : TeamGuard), (s.cur.tguard g).val = true → (s.cur.tguard g).tint = false →
    (s.cur.stack = [] → Traps (.join g) s (Trap.of cStackUnder 0))
    ∧ (∀ e rest, s.cur.stack = e :: rest →
      Jumps (.join g) s { s.cur with stack := rest, mask := e.mask, ctl := e.ctl } e.target))

/-- EXIT retires the lanes of the mask: the team goes on at the first entry with lanes left, or enters Exiting (R113). -/
def Claims.ExitLanes : Prop :=
  ∀ (s : State) (g : TeamGuard), (s.cur.tguard g).val = true → (s.cur.tguard g).tint = false → s.cur.ctlMask = false →
    let left := fun e : StackEntry => { e with mask := e.mask &&& ~~~s.cur.mask }
    (∀ l e rest, s.cur.stack = l ++ e :: rest → (∀ x ∈ l, (left x).mask = 0) → (left e).mask ≠ 0 →
      Completes (.exit g) s fun t => t.cur.pc = e.target ∧ t.cur.clause = none ∧ t.cur.mask = (left e).mask ∧ t.cur.ctl = e.ctl
        ∧ t.cur.stack = rest.map left ∧ t.cur.state = s.cur.state ∧ s.onlyCur t ∧ s.sameBytes t
        ∧ t.cur.s = s.cur.s ∧ t.cur.p = s.cur.p ∧ t.cur.q = s.cur.q
        ∧ (∀ r L, L < 1024 → (t.cur.vreg r L).val = (s.cur.vreg r L).val
          ∧ (t.cur.vreg r L).tint = ((s.cur.vreg r L).tint && !s.cur.mask.getLsbD L)))
    ∧ ((∀ x ∈ s.cur.stack, (left x).mask = 0) →
      Completes (.exit g) s fun t => t.cur.state = .exiting ∧ t.cur.mask = 0 ∧ t.cur.ctl = 0 ∧ t.cur.stack = [] ∧ t.cur.clause = none
        ∧ s.onlyCur t ∧ s.sameBytes t)

/-- Divergence: BRD, JOIN and EXIT on the mask stack (R92, R93, R113). -/
def Obligations.MaskAndExit : Prop := Claims.MaskStack ∧ Claims.ExitLanes

/-! ### Traps -/

/-- The fault registers after a trap (R273, R274). -/
def Claims.TrapRegisters : Prop :=
  ∀ (fr : FaultRegs) (tr : Trap) (hm idx : Nat) (pc : Word), tr.cause < 256 → idx < 32 → hm < 4 → tr.sub < 256 →
    let w := fr.write tr hm idx pc
    w.cause.toNat % 256 = tr.cause ∧ w.cause.toNat / 2 ^ 8 % 32 = idx ∧ w.cause.getLsbD 13 = tr.skip ∧ w.cause.toNat / 2 ^ 14 % 4 = hm
    ∧ w.cause.toNat / 2 ^ 16 = tr.sub ∧ (∀ i, w.fpc.getLsbD i = (decide (3 ≤ i) && decide (i ≤ 56) && pc.getLsbD i))
    ∧ w.addr = BitVec.ofNat 64 tr.addr ∧ w.lanes = BitVec.ofNat 64 tr.lanes ∧ w.opnd = BitVec.ofNat 64 tr.opnd ∧ w.gorigin = fr.gorigin

/-- A trap of the guess, software or breakpoint class raised in program mode goes to $tvec in user handler mode, and writes the fault registers alone (R273). -/
def Claims.TrapToUserHandler : Prop :=
  ∀ (s : State) (tr : Trap), tr.cause ∈ [0x01, 0x02, 0x08, 0x09] → s.cur.mode = .program → s.cur.sys.tvec ≠ 0 →
    s.trap tr = { s with cur := { s.cur with
      fr := s.cur.fr.write tr 0 s.cur.instrIdx s.cur.instrAddr, mode := .user, pc := s.cur.sys.tvec, start := 0, clause := none } }

/-- Any other trap outside the system handler, a page or fetch fault apart, goes to the context's system handler; from the user handler it first copies the fault registers into the shadow set (R273, R282).
Poison that the page-table walker met (log 54 gives it WHY 3) is reported besides (R331); no other trap changes anything but the team. -/
def Claims.TrapToSystemHandler : Prop :=
  ∀ (s : State) (tr : Trap) (c : Ctx), s.cur.mode = .program ∨ s.cur.mode = .user →
    ((tr.cause ∉ [0x01, 0x02, 0x08, 0x09, 0x1A, 0x1C]) ∨ (tr.cause ∈ [0x01, 0x02, 0x08, 0x09] ∧ (s.cur.mode = .user ∨ s.cur.sys.tvec = 0))) →
    s.ctx? (s.ctxOf s.cur) = some c →
    let u := { s.cur with
      fr := s.cur.fr.write tr (if s.cur.mode = .user then 1 else 0) s.cur.instrIdx s.cur.instrAddr,
      shadow := if s.cur.mode = .user then s.cur.fr else s.cur.shadow,
      mode := .system, pc := BitVec.ofNat 64 c.handler, start := 0, clause := none }
    (tr.cause ≠ 0x1D ∨ tr.why ≠ 3 → s.trap tr = { s with cur := u })
    ∧ (tr.cause = 0x1D → tr.why = 3 → (s.trap tr).cur = u ∧ ∃ r ∈ (s.trap tr).reports, r.kind = 0x03 ∧ r.cause = 0x1D ∧ r.addr = tr.addr)

/-- A trap raised in the system handler kills the group: its teams are retired and a kill record with cause double-trap is due (R273, R275). -/
def Claims.DoubleTrapKills : Prop :=
  ∀ (s : State) (tr : Trap) (g : Group), s.cur.mode = .system → s.group? s.cur.id.gid = some g → g.state.live = true →
    (s.trap tr).cur.state = .retired ∧ (∀ u ∈ (s.trap tr).others, u.id.gid = s.cur.id.gid → u.state = .retired)
    ∧ (∃ h, (s.trap tr).group? s.cur.id.gid = some h ∧ h.state = .killed ∧ h.killCause = some 0x40)
    ∧ (∃ r ∈ (s.trap tr).reports, r.kind = 0x01 ∧ r.cause = 0x40 ∧ r.ctx = g.ctx)

/-- A page or fetch fault outside the system handler enters no handler yet: the fault registers are written, its team stands at the faulting place without a clause, and what its group parks on is noted (R260, R273, R322). -/
def Claims.FaultsThatPark : Prop :=
  ∀ (s : State) (tr : Trap) (c : Ctx), s.cur.mode = .program ∨ s.cur.mode = .user → tr.cause = 0x1A ∨ tr.cause = 0x1C → s.ctx? (s.ctxOf s.cur) = some c →
    s.trap tr = { s with cur := { s.cur with
      fr := s.cur.fr.write tr (if s.cur.mode = .user then 1 else 0) s.cur.instrIdx s.cur.instrAddr,
      shadow := if s.cur.mode = .user then s.cur.fr else s.cur.shadow, pc := s.cur.instrAddr, start := 0, clause := none,
      faultPark := some { acc := tr.acc, why := tr.why, va := tr.addr, maps := c.maps, posted := false } } }

/-- A trap in a method enters no handler: the method is over, and its first failure is kept, 0x4E for poisoned data and 0x4A for any other cause (R344). -/
def Claims.TrapsInMethods : Prop :=
  ∀ (s : State) (tr : Trap), s.cur.mode = .method → tr.cause ≠ 0x1D ∨ tr.why ≠ 3 → ∃ lane,
    s.trap tr = { s with cur := { s.cur with
      clause := none, state := .exiting,
      method := s.cur.method.map fun m => { m with
        failed := m.failed.orElse fun _ => some { cause := if tr.cause = 0x1D then 0x4E else 0x4A, pc := s.cur.instrAddr, lane } } } }
    ∧ ∀ L, L < 1024 → tr.lanes = flanesOf [L] → lane = L

/-- Entry of a trap: the fault registers, the handler chosen, the shadow set, a page or fetch fault, which parks its group, a failure of a method, and the kill of a group that traps in its system handler (R260, R273-R275, R282, R322, R344). -/
def Obligations.TrapEntry : Prop :=
  Claims.TrapRegisters ∧ Claims.TrapToUserHandler ∧ Claims.TrapToSystemHandler ∧ Claims.FaultsThatPark ∧ Claims.TrapsInMethods ∧ Claims.DoubleTrapKills

/-- TRAP and BKPT raise their trap with SKIP set and the code in $faddr, under a guard that is true and untinted outside control tint (R114, R280). -/
def Claims.SoftwareTraps : Prop :=
  ∀ (s : State) (o : CodeOps), (s.cur.tguard o.g).val = true → (s.cur.tguard o.g).tint = false → s.cur.ctlMask = false →
    Traps (.trap o) s { Trap.of 0x08 o.code.toNat with skip := true } ∧ Traps (.bkpt o) s { Trap.of 0x09 o.code.toNat with skip := true }

/-- RTE leaves the handler: it resumes at the trapping instruction, or after it where SKIP is set, and returns into the user handler, with the shadow set, where the trap arose there (R281, R282). -/
def Claims.ReturnFromTrap : Prop :=
  ∀ (s : State) (g : TeamGuard), s.cur.mode = .user ∨ s.cur.mode = .system → (s.cur.tguard g).val = true → (s.cur.tguard g).tint = false →
    s.cur.ctlMask = false → (s.cur.mode = .system → s.cur.fr.cause.toNat % 256 ≠ 0x3A) →
    let c := s.cur.fr.cause.toNat
    let idx := c / 2 ^ 8 % 32
    let skip := s.cur.fr.cause.getLsbD 13
    let back := s.cur.mode = .system ∧ c / 2 ^ 14 % 4 = 1
    Completes (.rte g) s fun t =>
      t.cur.mode = (if back then .user else .program) ∧ t.cur.fr = (if back then s.cur.shadow else s.cur.fr) ∧ t.cur.clause = none
      ∧ (idx ≠ 31 → t.cur.pc = s.cur.fr.fpc - BitVec.ofNat 64 (8 * (idx + 1)) ∧ t.cur.start = if skip then idx + 1 else idx)
      ∧ (idx = 31 → t.cur.start = 0 ∧ t.cur.pc = if skip then s.cur.fr.fpc + 8 else s.cur.fr.fpc)
      ∧ t.cur.v = s.cur.v ∧ t.cur.s = s.cur.s ∧ t.cur.p = s.cur.p ∧ t.cur.q = s.cur.q ∧ t.cur.sys = s.cur.sys ∧ t.cur.mask = s.cur.mask
      ∧ s.onlyCur t ∧ s.sameBytes t

/-- TRAP and BKPT raise their traps; RTE returns from one (R114, R280-R282). -/
def Obligations.SoftwareTrapsAndReturn : Prop := Claims.SoftwareTraps ∧ Claims.ReturnFromTrap

/-! ### Loads, stores and atomics -/

/-- LD and GATH leave an access in flight with one waiting lane for each active lane, at its address and place; no register changes yet. One without an active lane has nothing to wait for and is over (R134, R136, R141, R143, R162). -/
def Claims.LoadIssues : Prop :=
  ∀ (s : State) (o : LoadOps) (pl : Nat → Place) (i : Instr), i = .ld o ∨ i = .gath o →
    s.cur.method = none → s.cur.cleanAddr o.g o.addr → s.reaches o.g o.sp needR o.w o.addr pl →
    (i = .ld o → s.mapFail o.sp o.w needR ((s.cur.activeLanes o.g).map fun L => (s.cur.memAddr o.addr L).1) = none) →
    (s.cur.sys.gdrill = false ∨ o.limit.val = 0) →
    (s.cur.activeLanes o.g = [] → s.numbered → s.cur.id.gid ≠ 0 → Completes i s fun t => ∃ u, s.wroteV u o.g o.d.val o.w.regs (fun _ => (0, false)) 0
      ∧ t = { u with nextKey := s.nextKey + 1 })
    ∧ (s.cur.activeLanes o.g ≠ [] → Completes i s fun t => ∃ ld : Load, t = { s with cur := s.cur.passed, loads := s.loads ++ [ld], nextKey := s.nextKey + 1 }
      ∧ ld.key = s.nextKey ∧ ld.team = s.cur.id ∧ ld.kind = .load ∧ ld.w = o.w ∧ ld.signed = o.signed ∧ ld.d = o.d.val
      ∧ ld.regs = o.w.regs ∧ ld.limit = o.limit.val ∧ ld.acq = (if o.acq then some o.scope else none) ∧ ld.written = false
      ∧ (ld.lanes.map fun l => (l.lane, l.addr, l.place, l.st, l.tint))
        = (s.cur.activeLanes o.g).map (fun L => (L, (s.cur.memAddr o.addr L).1, pl L, LaneSt.waiting, s.cur.forced o.g L))
      ∧ s.sameBytes t)

/-- In drill mode a load with a limit expires in the cycle of its issue: its lanes have guesses, with records while the core has enough, and the registers hold them at once, tinted; the first guess of a team is noted in $gorigin (R142, R143, R145, R147). -/
def Claims.DrilledLoads : Prop :=
  ∀ (s : State) (o : LoadOps) (pl : Nat → Place) (i : Instr), i = .ld o ∨ i = .gath o →
    s.cur.method = none → s.cur.clean o.g → s.cur.cleanAddr o.g o.addr → s.reaches o.g o.sp needR o.w o.addr pl →
    (i = .ld o → s.mapFail o.sp o.w needR ((s.cur.activeLanes o.g).map fun L => (s.cur.memAddr o.addr L).1) = none) →
    s.cur.sys.gdrill = true → o.limit.val ≠ 0 → s.numbered → s.cur.id.gid ≠ 0 → s.cur.lanes ≤ 1024 → s.cur.activeLanes o.g ≠ [] →
    let core := s.coreOf s.cur.id.gid
    s.recordsUsed core + ((s.cur.activeLanes o.g).map (· / 32)).eraseDups.length * o.w.regs ≤ 256 →
    let guess := fun L => s.guess core (s.ctxOf s.cur) o.sp o.w o.signed (s.cur.memAddr o.addr L).1
    Completes i s fun t => s.sameBytes t
      ∧ (∀ L ∈ s.cur.activeLanes o.g, ∀ k, k < o.w.regs → t.cur.vreg (o.d.val + k) L = { val := BitVec.ofNat 32 (guess L / 2 ^ (32 * k)), tint := true })
      ∧ (∀ r L, L < 1024 → (r < o.d.val ∨ o.d.val + o.w.regs ≤ r ∨ L ∉ s.cur.activeLanes o.g) → t.cur.vreg r L = s.cur.vreg r L)
      ∧ t.cur = { s.cur.passed with v := t.cur.v, fr := if s.tintAny then s.cur.fr else { s.cur.fr with gorigin := pcBits s.cur.instrAddr } }
      ∧ ∃ ld ∈ t.loads, ld.key = s.nextKey ∧ ld.written = true ∧ ∀ l ∈ ld.lanes, l.st = .expired ∧ l.guess = guess l.lane

/-- A load fails as a whole where an active lane's untinted address is misaligned or does not translate: a trap, and no access (R134, R136). -/
def Claims.LoadFaults : Prop :=
  ∀ (s : State) (o : LoadOps) (i : Instr) (L : Nat), i = .ld o ∨ i = .gath o →
    s.cur.method = none → s.cur.cleanAddr o.g o.addr → L ∈ s.cur.activeLanes o.g →
    ((s.cur.memAddr o.addr L).1 % o.w.bytes ≠ 0 ∨ ∃ f, s.locate o.sp needR (s.cur.memAddr o.addr L).1 o.w.bytes = .error f) →
    ∃ tr, Traps i s tr ∧ (∀ M ∈ s.cur.activeLanes o.g, (s.cur.memAddr o.addr M).1 % o.w.bytes ≠ 0 → (∀ N ∈ s.cur.activeLanes o.g, M ≤ N) →
      tr.cause = 0x18)

/-- A handler's LD or ST of the register region, whose tints the device reads or writes beside it, kills its group where that access of the device fails (R271, R275). -/
def Claims.TintMapFailures : Prop :=
  ∀ (s : State) (f : XFail) (va : Nat) (x : Group), s.group? s.cur.id.gid = some x → x.state.live = true → s.cur.method = none →
    let killed := fun (i : Instr) => Completes i s fun t => s.sameButWaiters s.cur.id.gid t
      ∧ (∃ y, t.group? s.cur.id.gid = some y ∧ y.state = .killed ∧ y.killCause = some f.cause)
      ∧ ∃ r ∈ t.reports, r.kind = 0x01 ∧ r.cause = f.cause ∧ r.addr = va ∧ r.ctx = x.ctx ∧ r.team = 0
    (∀ (o : LoadOps) (pl : Nat → Place), s.cur.cleanAddr o.g o.addr → s.reaches o.g o.sp needR o.w o.addr pl →
      s.mapFail o.sp o.w needR ((s.cur.activeLanes o.g).map fun L => (s.cur.memAddr o.addr L).1) = some (f, va) → killed (.ld o))
    ∧ (∀ (o : StoreOps) (pl : Nat → Place), s.cur.clean o.g → s.cur.cleanAddr o.g o.addr → s.cur.cleanData o.g o.c.val o.w.regs →
      s.reaches o.g o.sp needW o.w o.addr pl →
      s.mapFail o.sp o.w needW ((s.cur.activeLanes o.g).map fun L => (s.cur.memAddr o.addr L).1) = some (f, va) → killed (.st o))

/-- A load is issued, in drill mode with its guesses, or fails as a whole (R134, R136, R141-R143, R145, R147, R162, R271, R275).
That the lowest failing lane gives the cause is the model's choice of log 64. -/
def Obligations.LoadIssues : Prop := Claims.LoadIssues ∧ Claims.DrilledLoads ∧ Claims.LoadFaults ∧ Claims.TintMapFailures

/-- The answer of a waiting lane of a local load is the value of its bytes, extended by its width; the write of the destination then puts it into the registers, tinted where the lane's address or guard was (R57, R94, R143, R153, R162).
That the exact value of a lane with a tinted address is written tinted, R153 before R143, is the reading of log 22. -/
def Obligations.LoadCompletes : Prop :=
  (∀ (s : State) (k L : Nat) (r : Reply) (ld : Load) (l : LoadLane),
    s.load? k = some ld → ld.lane? L = some l → ld.kind = .load → l.st = .waiting → l.gd = none → l.performed = false →
    ld.limit = 0 ∨ s.clk ≤ limitEnd ld.issued ld.limit →
    ld.written = false → l.place.isPeer = false → l.place ≠ .nowhere → s.laneOk ld l = true → s.placePoisoned l.place ld.w.bytes = false →
    Completes (.exactAnswerArrival k L r) s fun t => s.sameBytes t ∧ t.cur = s.cur ∧ t.others = s.others
      ∧ ∃ ld' m, t.load? k = some ld' ∧ ld'.lane? L = some m ∧ m.st = .exact ∧ m.bad = none
        ∧ m.value = elemValue ld.w ld.signed (fromBytes (s.placeRead l.place ld.w.bytes)))
  ∧ (∀ (s : State) (k : Nat) (ld : Load), s.load? k = some ld → ld.settledFor s.cur → Completes (.loadDestinationWrite k) s (s.wroteLoad ld))

/-- From its expiry cycle on a load's limit holds no lane any more: a waiting lane whose address is tinted becomes Guess only, and one whose address is not gets a guess and a late-answer record, or, where its row finds too few records free, goes on as under w0 (R138, R141, R142, R145). -/
def Claims.LoadExpiry : Prop :=
  ∀ (s : State) (k : Nat) (ld : Load), s.numbered → s.load? k = some ld → ld.limit ≠ 0 → ld.written = false → limitEnd ld.issued ld.limit ≤ s.clk →
    let guess := fun l : LoadLane => s.guess ld.core ld.ctx ld.sp ld.w ld.signed l.addr
    let after := fun (p : LoadLane → LoadLane → Prop) => Completes (.loadExpiry k) s fun t => s.sameBytes t ∧ t.cur = s.cur ∧ t.others = s.others
      ∧ ∃ ld', t.load? k = some ld' ∧ ld' = { ld with limit := 0, lanes := ld'.lanes }
        ∧ ∀ l ∈ ld.lanes, (l.st ≠ .waiting → l ∈ ld'.lanes)
          ∧ (l.st = .waiting → l.tintAddr = true → { l with st := .guessOnly, guess := guess l } ∈ ld'.lanes)
          ∧ (l.st = .waiting → l.tintAddr = false → ∃ m ∈ ld'.lanes, p l m)
    (s.recordsUsed ld.core + ld.rows.length * ld.regs ≤ 256 → after fun l m => m = { l with st := .expired, guess := guess l })
    ∧ ((∀ l ∈ ld.lanes, ∀ m ∈ ld.lanes, l.lane / 32 = m.lane / 32) → 256 < s.recordsUsed ld.core + ld.regs → after fun l m => m = l)

/-- The late answer of an expired lane fills its record, while one of its registers has not been overwritten or demanded, and gives a GDEM that waits for it the value of its register (R141, R169). -/
def Claims.LateAnswers : Prop :=
  ∀ (s : State) (k L : Nat) (r : Reply) (ld : Load) (l : LoadLane), s.load? k = some ld → ld.lane? L = some l → ld.kind = .load →
    l.st = .expired → l.late = false → l.gd = none → l.performed = false → l.place.isPeer = false → l.place ≠ .nowhere →
    s.laneOk ld l = true → s.placePoisoned l.place ld.w.bytes = false →
    let kept := ld.written = false ∨ ∃ i, i < ld.regs ∧ l.gone.testBit i = false ∧ l.dem.testBit i = false
    let x := elemValue ld.w ld.signed (fromBytes (s.placeRead l.place ld.w.bytes))
    Completes (.lateAnswerArrival k L r) s fun t => s.sameBytes t ∧ t.cur = s.cur ∧ t.others = s.others
      ∧ (kept → ∃ ld' m, t.load? k = some ld' ∧ ld'.lane? L = some m ∧ m.late = true ∧ m.st = .expired ∧ m.bad = none ∧ m.value = x)
      ∧ ∀ e ∈ s.loads, e.kind = .gdem → e.key ≠ k → e.written = false → ∀ m ∈ e.lanes, ∀ i j, m.lane = L → m.st = .waiting →
        m.gd = some { links := [(i, k, j)], got := [], again := [] } →
        ∃ e' ∈ t.loads, e'.key = e.key ∧ { m with st := .exact, gd := some { links := [], got := [(i, x / 2 ^ (32 * j) % 2 ^ 32)], again := [] } } ∈ e'.lanes

/-- A load whose answer is poisoned writes nothing: it gives its team a fault, taken where the team stands, and its context a report with the address that the trap puts into $fpc (R311, R331, R418). -/
def Claims.PoisonedLoads : Prop :=
  ∀ (s : State) (k : Nat) (ld : Load) (l : LoadLane) (rest : List LoadLane), s.load? k = some ld → ld.kind = .load → ld.team = s.cur.id →
    s.cur.id.gid ≠ 0 → ld.written = false → ld.redirected = false → ld.lanes = l :: rest → (∀ m ∈ ld.lanes, m.st = .exact) →
    l.tintAddr = false → l.bad = some 0x1D → s.cur.state ≠ .exiting → s.cur.state ≠ .retired → s.stands ld = true →
    Completes (.poisonConsumed k) s fun t => s.sameBytes t ∧ t.cur = { s.cur with deferred := t.cur.deferred }
      ∧ (∃ d, t.cur.deferred = s.cur.deferred ++ [d] ∧ d.at_ = .stand ∧ d.trap.cause = 0x1D ∧ d.trap.addr = l.addr ∧ d.trap.opnd = 256 * ld.d + 1
        ∧ d.trap.lanes = flanesOf ((ld.lanes.filter fun m => !m.tintAddr && m.bad.isSome).map LoadLane.lane))
      ∧ (∀ e ∈ t.loads, e.key = k → e.written = true)
      ∧ ∃ r ∈ t.reports, r.kind = 0x03 ∧ r.cause = 0x1D ∧ r.ctx = ld.ctx ∧ r.addr = l.addr ∧ r.pc = (pcBits s.cur.standAddr).toNat

/-- A release of the scoreboard lets a held instruction proceed: the oldest special-function result of the team is written, and where there is none, the oldest load of its that has all its answers (R49). -/
def Claims.ScoreboardReleases : Prop :=
  (∀ (s : State) (r : SfResult) (l : List SfResult), s.cur.sf = r :: l → (r.lanes.map Prod.fst).Nodup → (∀ p ∈ r.lanes, p.1 < 1024) →
    (∀ x ∈ l, x.key ≠ r.key) →
    Completes (.scoreboardRelease s.cur.id) s fun t => s.sameBytes t ∧ t.cur = { s.cur with v := t.cur.v, sf := l }
      ∧ (∀ L c, (L, c) ∈ r.lanes → t.cur.vreg r.d L = c)
      ∧ ∀ q L, L < 1024 → (q ≠ r.d ∨ L ∉ r.lanes.map Prod.fst) → t.cur.vreg q L = s.cur.vreg q L)
  ∧ (∀ (s : State) (ld : Load) (before after : List Load), s.cur.sf = [] → s.loads = before ++ ld :: after →
    (∀ e ∈ before, e.key ≠ ld.key ∧ (e.team = s.cur.id → e.written = true ∨ ∃ l ∈ e.lanes, l.st = .waiting)) → ld.settledFor s.cur →
    Completes (.scoreboardRelease s.cur.id) s (s.wroteLoad ld))

/-- A load whose limit has passed gives guesses, with records for its late answers; a late answer fills its record; poisoned data gives a fault and a report in place of the write; a scoreboard release writes what is ready (R49, R138, R141, R142, R169, R311, R331, R418).
The tint of a lane with a tinted address in that write is the reading of log 22. -/
def Obligations.GuessedLoads : Prop := Claims.LoadExpiry ∧ Claims.LateAnswers ∧ Claims.PoisonedLoads ∧ Claims.ScoreboardReleases

/-- ST and SCAT to .g post one write for each active lane, of the bytes of its registers at its place; memory changes when they are performed. Where no outstanding entry is free, or an earlier operation of the team waits for one, the store waits in WAI while its team goes on (R48, R163, R164, R292). -/
def Claims.StorePosts : Prop :=
  ∀ (s : State) (o : StoreOps) (pl : Nat → Place) (i : Instr), i = .st o ∨ i = .scat o → o.sp = .g →
    s.cur.method = none → s.cur.clean o.g → s.cur.cleanAddr o.g o.addr → s.cur.cleanData o.g o.c.val o.w.regs →
    s.reaches o.g o.sp needW o.w o.addr pl → s.cur.activeLanes o.g ≠ [] →
    (i = .st o → s.mapFail o.sp o.w needW ((s.cur.activeLanes o.g).map fun L => (s.cur.memAddr o.addr L).1) = none) →
    Completes i s fun t => t.cur = s.cur.passed ∧ t.mem = s.mem ∧ s.sameBytes t ∧ ∃ q : Post, t.posts = s.posts ++ [q] ∧ q.key = s.nextKey
      ∧ q.team = s.cur.id ∧ q.accepted = s.accepts ∧ q.rel = (if o.rel then some o.scope else none)
      ∧ ∃ more, q.writes = ((s.cur.activeLanes o.g).map fun L =>
          PostWrite.mk (pl L) (s.cur.memAddr o.addr L).1 (s.cur.storeBytes o.w o.c.val L) none false) ++ more
        ∧ (s.cur.mode ≠ .system → more = [])

/-- A store to a scratchpad is performed at once: the bytes of the last lane that covers a byte stand there, and every other byte of memory is as before (R137, R163). -/
def Claims.StoreToScratchpad : Prop :=
  ∀ (s : State) (o : StoreOps) (pl : Nat → Place) (i : Instr), i = .st o ∨ i = .scat o → o.sp ≠ .g →
    s.cur.method = none → s.cur.clean o.g → s.cur.cleanAddr o.g o.addr → s.cur.cleanData o.g o.c.val o.w.regs →
    s.reaches o.g o.sp needW o.w o.addr pl → (∀ L ∈ s.cur.activeLanes o.g, s.placeGuarded (pl L) o.w.bytes = false) → s.quiet →
    Completes i s fun t => t.cur = s.cur.passed
      ∧ (∀ L ∈ s.cur.activeLanes o.g, ∀ k, k < o.w.bytes →
        (∀ M ∈ s.cur.activeLanes o.g, L < M → (pl M).overlaps o.w.bytes ((pl L).plus k) 1 = false) →
        t.byteAt ((pl L).plus k) = ((s.cur.storeBytes o.w o.c.val L).drop k).take 1)
      ∧ (∀ p, (∀ L ∈ s.cur.activeLanes o.g, (pl L).overlaps o.w.bytes p 1 = false) → t.byteAt p = s.byteAt p)

/-- A store to .g is posted, one to a scratchpad is performed at once (R137, R163, R164, R292).
That no operation of a team is accepted before its earlier one in WAI is the model's choice of log 65. -/
def Obligations.Stores : Prop := Claims.StorePosts ∧ Claims.StoreToScratchpad

/-- ATOM leaves an atomic access in flight with its operands, RED posts one; neither changes a register or memory at its issue. One with a lane at a peer acts as XATOM does, whose scope is the pod; without an active lane nothing is left to do (R165, R166, R369). -/
def Claims.AtomicsIssue : Prop :=
  ∀ (s : State) (o : AtomOps) (pl : Nat → Place), s.cur.clean o.g → s.cur.cleanAddr o.g o.addr →
    s.cur.cleanData o.g o.c.val (atomRegs o.w o.op) → s.reaches o.g o.sp needRW o.w o.addr pl →
    (∀ L ∈ s.cur.activeLanes o.g, ∀ gid sp off, pl L = .scratch gid sp off → s.placeGuarded (pl L) o.w.bytes = false) →
    let sc := if (s.cur.activeLanes o.g).any fun L => (pl L).isPeer then Scope.pod else o.scope
    (s.cur.activeLanes o.g ≠ [] → Completes (.atom o) s fun t => t.cur = s.cur.passed ∧ s.sameBytes t ∧ ∃ ld : Load, t.loads = s.loads ++ [ld]
      ∧ ld.key = s.nextKey ∧ ld.team = s.cur.id ∧ ld.kind = .atom o.op ∧ ld.w = o.w ∧ ld.signed = o.signed ∧ ld.d = o.d.val
      ∧ ld.acq = (if o.ord = .acq ∨ o.ord = .acqrel then some sc else none)
      ∧ ld.rel = (if o.ord = .rel ∨ o.ord = .acqrel then some sc else none)
      ∧ (ld.lanes.map fun l => (l.lane, l.addr, l.place, l.st, l.x, l.c))
        = (s.cur.activeLanes o.g).map (fun L => (L, (s.cur.memAddr o.addr L).1, pl L, LaneSt.waiting,
            (s.cur.atomOps o.w o.op o.c.val L).1, (s.cur.atomOps o.w o.op o.c.val L).2)))
    ∧ (s.cur.activeLanes o.g = [] → exec (.red o) s = .next s.advance
      ∧ (s.numbered → s.cur.id.gid ≠ 0 → Completes (.atom o) s fun t => t.cur = { s.cur.passed with v := t.cur.v } ∧ s.sameBytes t
        ∧ ∀ r L, L < 1024 → t.cur.vreg r L = s.cur.vreg r L))
    ∧ (s.cur.activeLanes o.g ≠ [] →
      Completes (.red o) s fun t => t.cur = s.cur.passed ∧ s.sameBytes t ∧ ∃ q : Post, t.posts = s.posts ++ [q]
        ∧ q.accepted = s.accepts ∧ q.key = s.nextKey ∧ q.team = s.cur.id ∧ q.signed = o.signed
        ∧ q.rel = (if o.ord = .rel ∨ o.ord = .acqrel then some sc else none)
        ∧ q.writes = (s.cur.activeLanes o.g).map (fun L => PostWrite.mk (pl L) (s.cur.memAddr o.addr L).1
            (leBytes o.w.bytes (s.cur.atomOps o.w o.op o.c.val L).1) (some o.op) false))

/-- An atomic lane at its home, in memory or in a scratchpad, reads the old value and writes the new one as one step, and so does the write of a reduction, which answers nothing: nothing else in memory changes (R165, R166). -/
def Claims.AtomicAtHome : Prop :=
  let gives := fun (op : AtomOp) (signed : Bool) (w old x c : Nat) =>
    let v := fun y : Nat => if signed then Int.bmod y (2 ^ w) else (y : Int)
    match op with
      | .add => old + x
      | .min => if v x < v old then x else old
      | .max => if v old < v x then x else old
      | .and => old &&& x
      | .or => old ||| x
      | .xor => old ^^^ x
      | .xchg => x
      | .cas => if old = c then x else old
      | .addF32 => atomNew .addF32 signed w old x c
  (∀ (s : State) (k L : Nat) (r : Reply) (ld : Load) (l : LoadLane) (op : AtomOp),
    s.load? k = some ld → ld.lane? L = some l → ld.kind = .atom op → l.st = .waiting → l.gd = none → l.performed = false →
    ld.limit = 0 ∨ s.clk ≤ limitEnd ld.issued ld.limit → s.lies l.place → s.laneOk ld l = true → s.placePoisoned l.place ld.w.bytes = false →
    s.rejects l.place ld.w.bytes = false →
    let old := fromBytes (s.placeRead l.place ld.w.bytes)
    Completes (.exactAnswerArrival k L r) s fun t =>
      t.placeRead l.place ld.w.bytes = leBytes ld.w.bytes (gives op ld.signed (8 * ld.w.bytes) old l.x l.c)
      ∧ (∀ p, l.place.overlaps ld.w.bytes p 1 = false → t.byteAt p = s.byteAt p)
      ∧ (ld.written = false → ∃ ld' m, t.load? k = some ld' ∧ ld'.lane? L = some m ∧ m.st = .exact ∧ m.value = old))
  ∧ (∀ (s : State) (q : Post) (w : PostWrite) (op : AtomOp), s.post? q.key = some q → q.writes = [w] → w.red = some op → w.done = false →
    (∀ a ∈ s.appends, a.key ≠ q.key) → s.isSavePost q.key = false → s.lies w.place → s.writeOk q 0 w = true →
    s.placePoisoned w.place w.data.length = false → s.rejects w.place w.data.length = false →
    let n := w.data.length
    let old := fromBytes (s.placeRead w.place n)
    Completes (.outstandingAck q.key) s fun t =>
      t.placeRead w.place n = leBytes n (gives op q.signed (8 * n) old (fromBytes w.data) 0)
      ∧ (∀ p, w.place.overlaps n p 1 = false → t.byteAt p = s.byteAt p) ∧ t.cur.v = s.cur.v)

/-- ATOM and RED at their issue, and their operations at their homes (R165, R166, R369).
That no operation of a team is accepted before its earlier one in WAI is the model's choice of log 65. -/
def Obligations.Atomics : Prop := Claims.AtomicsIssue ∧ Claims.AtomicAtHome

/-- FIX removes a tint and keeps the value, GTEST reads it, GDROP clears tinted values and counts them, in vector and scalar registers and in predicates of both kinds (R147, R168).
A lane that its guard or control tint tints anew is not counted (R57, R94). -/
def Claims.GuessRegisters : Prop :=
  (∀ (s : State) (g : LaneGuard),
    (∀ i, Completes (.fix ⟨g, .v i⟩) s fun t => s.wroteV t g i.val 1 (fun L => ((s.cur.vreg i.val L).val.toNat, false)) 0)
    ∧ (∀ i, Completes (.fix ⟨g, .s i⟩) s fun t => s.wroteS t i.val { s.cur.sreg i.val with tint := s.cur.ctlAny })
    ∧ (∀ i, i ≠ 0 → Completes (.fix ⟨g, .pred (.p i)⟩) s fun t => s.wroteP t g i.val fun L => { s.cur.preg i.val L with tint := false })
    ∧ (∀ i, Completes (.fix ⟨g, .pred (.q i)⟩) s fun t => s.wroteQ t i.val { s.cur.qreg i.val with tint := s.cur.ctlAny }))
  ∧ (∀ (s : State) (o : GtestOps),
    let tint := fun L : Nat => match o.a with
      | .v i => (s.cur.vreg i.val L).tint
      | .s i => (s.cur.sreg i.val).tint
      | .pred r => (s.cur.predv r L).tint
    (∀ d, o.d = .p d → d ≠ 0 → predResult (.gtest o) s o.g d fun L => { val := tint L, tint := false })
    ∧ (∀ d, o.d = .q d → Completes (.gtest o) s fun t => s.wroteQ t d.val { val := tint 0, tint := s.cur.ctlAny }))
  ∧ (∀ (s : State) (g : LaneGuard),
    let counts := fun (t : State) (n : Nat) => t.cur.sys.gdrop.toNat = min (2 ^ 32 - 1) (s.cur.sys.gdrop.toNat + n)
    let sys := fun t : State => { s.cur.sys with gdrop := t.cur.sys.gdrop }
    let dropped := fun tint : Nat → Bool => ((s.cur.activeLanes g).filter fun L => tint L && !s.cur.taints g L false).length
    (∀ i, Completes (.gdrop ⟨g, .v i⟩) s fun t =>
      (∀ L, L < s.cur.lanes → L < 1024 → t.cur.vreg i.val L =
        if s.cur.active g L then { val := if (s.cur.vreg i.val L).tint then 0 else (s.cur.vreg i.val L).val, tint := s.cur.taints g L false }
        else { val := (s.cur.vreg i.val L).val, tint := s.cur.keeps g L (s.cur.vreg i.val L).tint })
      ∧ s.cur.sameV t.cur i.val 1 ∧ counts t (dropped fun L => (s.cur.vreg i.val L).tint)
      ∧ t.cur = { s.cur.passed with v := t.cur.v, sys := sys t } ∧ s.onlyCurLoads t i.val 1 (s.cur.activeLanes g) ∧ s.sameBytes t)
    ∧ (∀ i, i ≠ 0 → Completes (.gdrop ⟨g, .pred (.p i)⟩) s fun t =>
      (∀ L, L < s.cur.lanes → L < 1024 → t.cur.preg i.val L =
        if s.cur.active g L then { val := !(s.cur.preg i.val L).tint && (s.cur.preg i.val L).val, tint := s.cur.taints g L false }
        else { val := (s.cur.preg i.val L).val, tint := s.cur.keeps g L (s.cur.preg i.val L).tint })
      ∧ s.cur.sameP t.cur i.val ∧ counts t (dropped fun L => (s.cur.preg i.val L).tint)
      ∧ t.cur = { s.cur.passed with p := t.cur.p, sys := sys t } ∧ s.onlyCur t ∧ s.sameBytes t)
    ∧ (∀ i, let c := s.cur.sreg i.val
      Completes (.gdrop ⟨g, .s i⟩) s fun t => t.cur.sreg i.val = { val := if c.tint then 0 else c.val, tint := s.cur.ctlAny } ∧ s.cur.sameS t.cur i.val
        ∧ counts t (if c.tint && !s.cur.ctlAny then 1 else 0) ∧ t.cur = { s.cur.passed with s := t.cur.s, sys := sys t } ∧ s.onlyCur t ∧ s.sameBytes t)
    ∧ (∀ i, let c := s.cur.qreg i.val
      Completes (.gdrop ⟨g, .pred (.q i)⟩) s fun t => t.cur.qreg i.val = { val := !c.tint && c.val, tint := s.cur.ctlAny } ∧ s.cur.sameQ t.cur i.val
        ∧ counts t (if c.tint && !s.cur.ctlAny then 1 else 0) ∧ t.cur = { s.cur.passed with q := t.cur.q, sys := sys t } ∧ s.onlyCur t ∧ s.sameBytes t))

/-- A team-guarded instruction whose effect goes beyond registers: under a false untinted guard it passes, and a tinted guard, control tint in the mask or a tinted scalar operand raises guess-escape before any effect; $fopnd names the first tinted operand (R57, R94, R154, R181). -/
def Claims.TeamOperands : Prop :=
  ∀ (s : State) (i : Instr) (g : TeamGuard), beyondRegisters i = some g →
    ((s.cur.tguard g).val = false → (s.cur.tguard g).tint = false → exec i s = .next s.advance)
    ∧ ((s.cur.tguard g).tint = true ∨ ((s.cur.tguard g).val = true ∧ s.cur.ctlMask = true) → ∃ tr, Traps i s tr ∧ tr.cause = 0x01)
    ∧ (∀ o, (s.cur.tguard g).val = true → (s.cur.tguard g).tint = false → s.cur.ctlAny = false →
      (teamScalars i).find? (fun o => (s.cur.sreg o.2).tint) = some o → ∃ tr, Traps i s tr ∧ tr.cause = 0x01 ∧ tr.opnd = 256 * o.2 + o.1)

/-- A lane-guarded instruction whose effect goes beyond registers traps where an active lane's address or data is tinted, or the guard or control tint of a lane: before any check and any effect, with the first tinted operand in $fopnd and the first row that holds a tinted lane in $flanes. GDEM in its address form does so on a tinted address alone (R57, R94, R154).
A handler's ST of the register region is exempt (R271). -/
def Claims.LaneOperands : Prop :=
  ∀ (s : State),
    (∀ (i : Instr) (g : LaneGuard) (a : AddrOp) (c n : Nat), laneOperands i = some (g, a, c, n) →
      ((isStore i = true → s.cur.method = none) ∧ (∀ o, i = .st o →
        s.cur.activeLanes g = [] ∨ ∃ L ∈ s.cur.activeLanes g, s.tintBit o.sp o.w (s.cur.memAddr a L).1 = none)) →
      let guards := fun L => s.cur.mask.getLsbD L && ((s.cur.lguard g L).tint || ((s.cur.lguard g L).val && s.cur.ctl.getLsbD L))
      let ops := s.cur.addrOps a ++ [s.cur.dataOp c n]
      let traps := fun (x : Nat) => ∃ tr, Traps i s tr ∧ tr.cause = 0x01 ∧ tr.opnd = x
        ∧ tr.lanes = flanesOf (s.cur.laneList.filter fun L => guards L || (s.cur.active g L && ops.any fun o => o.2.2 L))
      ((∃ L, L < s.cur.lanes ∧ guards L = true) → traps (256 * g.p.val))
      ∧ (∀ o, (∀ L, L < s.cur.lanes → guards L = false) → ops.find? (fun o => (s.cur.activeLanes g).any o.2.2) = some o → traps (256 * o.2.1 + o.1)))
    ∧ (∀ (o : GdemAddrOps) x, (s.cur.addrOps o.addr).find? (fun x => (s.cur.activeLanes o.g).any x.2.2) = some x →
      ∃ tr, Traps (.gdemAddress o) s tr ∧ tr.cause = 0x01 ∧ tr.opnd = 256 * x.2.1 + x.1)

/-- No guess crosses a synchronisation point: BARV, BWAIT, PARK in its handler, and FENCE above team scope trap with guess-at-sync while any bit of $tintmask is set (R94, R156). -/
def Claims.GuessAtSync : Prop :=
  ∀ (s : State) (i : Instr) (g : TeamGuard), s.tintAny = true → (s.cur.tguard g).val = true ∨ (s.cur.tguard g).tint = true →
    (∃ o, i = .barv o ∧ o.g = g) ∨ (∃ o, i = .bwait o ∧ o.g = g) ∨ (∃ o, i = .fence o ∧ o.g = g ∧ o.scope ≠ .team)
      ∨ (i = .park g ∧ s.cur.mode = .system ∧ s.cur.fr.cause.toNat % 256 ∈ [0x38, 0x39, 0x1A, 0x1C]) →
    Traps i s (Trap.of 0x02 0)

/-- Where a guess may not go: tinted guards and operands of instructions with effects beyond registers, and $tintmask at a synchronisation (R57, R94, R154, R156, R181). -/
def Obligations.TeamGuards : Prop := Claims.TeamOperands ∧ Claims.LaneOperands ∧ Claims.GuessAtSync

/-- GDEM waits for the records of its tinted lanes: a register whose late answer is held has its value, one whose answer is due waits for it, and under the address form one without a record is read again; the group is written as one access once all of it has come, which is in the cycle of its issue where nothing is due, and a kept answer that is bad is left to fault where its team stands (R143, R169, R418). -/
def Claims.GuessDemands : Prop :=
  let atOnce := fun (s : State) (g : LaneGuard) (d n : Nat) (i : Instr) => Completes i s fun t => s.sameBytes t ∧ t.others = s.others
    ∧ t.cur = { s.cur.passed with v := t.cur.v }
    ∧ (∀ L ∈ s.cur.activeLanes g, ∀ i, i < n → (s.cur.vreg (d + i) L).tint = true → ∀ r l k, s.recordOf s.cur.id (d + i) L = some (r, l, k) →
      t.cur.vreg (d + i) L = { val := BitVec.ofNat 32 (l.value / 2 ^ (32 * k)), tint := s.cur.forced g L })
    ∧ ∀ r L, L < 1024 → (r < d ∨ d + n ≤ r ∨ s.cur.mask.getLsbD L = false ∨ ((s.cur.lguard g L).val = false ∧ (s.cur.lguard g L).tint = false)
        ∨ (s.cur.active g L = true ∧ ((s.cur.vreg r L).tint = false ∨ s.recordOf s.cur.id r L = none))) → t.cur.vreg r L = s.cur.vreg r L
  (∀ (s : State) (o : GdemShortOps), s.cur.id.gid ≠ 0 → s.cur.lanes ≤ 1024 → s.numbered →
    (∀ L ∈ s.cur.activeLanes o.g, (s.cur.vreg o.d.val L).tint = true → ∀ r l k, s.recordOf s.cur.id o.d.val L = some (r, l, k) → l.late = true ∧ l.bad = none) →
    atOnce s o.g o.d.val 1 (.gdemShort o))
  ∧ (∀ (s : State) (o : GdemAddrOps), s.cur.cleanAddr o.g o.addr → s.cur.id.gid ≠ 0 → s.cur.lanes ≤ 1024 → s.numbered →
    (∀ L ∈ s.cur.activeLanes o.g, ∀ i, i < o.w.regs → (s.cur.vreg (o.d.val + i) L).tint = true →
      ∃ r l k, s.recordOf s.cur.id (o.d.val + i) L = some (r, l, k) ∧ l.late = true ∧ l.bad = none) →
    atOnce s o.g o.d.val o.w.regs (.gdemAddress o))
  ∧ (∀ (s : State) (o : GdemShortOps),
    (∀ L ∈ s.cur.activeLanes o.g, ∀ r l k, s.recordOf s.cur.id o.d.val L = some (r, l, k) → l.bad ≠ some 0x52) →
    (∃ L ∈ s.cur.activeLanes o.g, (s.cur.vreg o.d.val L).tint = true ∧ ∃ r l k, s.recordOf s.cur.id o.d.val L = some (r, l, k) ∧ (l.late = false ∨ l.bad.isSome = true)) →
    Completes (.gdemShort o) s fun t => s.issued t ∧ ∃ e : Load, t.loads.getLast? = some e ∧ t.loads.length = s.loads.length + 1
      ∧ e.kind = .gdem ∧ e.team = s.cur.id ∧ e.d = o.d.val ∧ e.regs = 1 ∧ e.written = false
      ∧ (∀ m ∈ e.lanes, m.lane ∈ s.cur.activeLanes o.g ∧ (s.cur.vreg o.d.val m.lane).tint = true)
      ∧ (∀ L ∈ s.cur.activeLanes o.g, (s.cur.vreg o.d.val L).tint = true → ∀ r l k, s.recordOf s.cur.id o.d.val L = some (r, l, k) →
        ∃ m ∈ e.lanes, m.lane = L ∧ (if l.late then
          m.st = .exact ∧ m.bad = l.bad ∧ m.gd = some { links := [], got := [(0, l.value / 2 ^ (32 * k) % 2 ^ 32)], again := [] }
          else m.st = .waiting ∧ m.gd = some { links := [(0, r.key, k)], got := [], again := [] })))
  ∧ (∀ (s : State) (o : GdemAddrOps), s.cur.cleanAddr o.g o.addr →
    (∀ L ∈ s.cur.activeLanes o.g, ∀ i, i < o.w.regs → ∀ r l k, s.recordOf s.cur.id (o.d.val + i) L = some (r, l, k) → l.bad ≠ some 0x52) →
    (∀ L ∈ s.cur.activeLanes o.g, ∃ p, s.checkLane o.sp needR o.w.bytes (s.cur.memAddr o.addr L).1 = .ok p) →
    (∃ L ∈ s.cur.activeLanes o.g, ∃ i, i < o.w.regs ∧ (s.cur.vreg (o.d.val + i) L).tint = true
      ∧ ∀ r l k, s.recordOf s.cur.id (o.d.val + i) L = some (r, l, k) → l.late = false ∨ l.bad.isSome = true) →
    Completes (.gdemAddress o) s fun t => s.issued t ∧ ∃ e : Load, t.loads.getLast? = some e ∧ t.loads.length = s.loads.length + 1
      ∧ e.kind = .gdem ∧ e.team = s.cur.id ∧ e.d = o.d.val ∧ e.regs = o.w.regs ∧ e.w = o.w ∧ e.signed = o.signed ∧ e.written = false
      ∧ ∀ L ∈ s.cur.activeLanes o.g, ∀ i, i < o.w.regs → (s.cur.vreg (o.d.val + i) L).tint = true → ∃ m ∈ e.lanes, ∃ x, m.lane = L ∧ m.gd = some x
        ∧ (∀ r l k, s.recordOf s.cur.id (o.d.val + i) L = some (r, l, k) →
          if l.late then (i, l.value / 2 ^ (32 * k) % 2 ^ 32) ∈ x.got else (i, r.key, k) ∈ x.links ∧ m.st = .waiting)
        ∧ (s.recordOf s.cur.id (o.d.val + i) L = none → i ∈ x.again ∧ m.st = .waiting ∧ m.addr = (s.cur.memAddr o.addr L).1))
  ∧ (∀ (s : State) (k : Nat) (ld : Load), s.load? k = some ld → ld.kind = .gdem → ld.team = s.cur.id → s.cur.id.gid ≠ 0 → ld.written = false →
    ld.redirected = false → ld.keep = [] → (∀ l ∈ ld.lanes, l.st = .exact ∧ l.bad = none ∧ l.lane < 1024) → (ld.lanes.map LoadLane.lane).Nodup →
    Completes (.loadDestinationWrite k) s fun t => s.sameBytes t ∧ t.cur = { s.cur with v := t.cur.v }
      ∧ (∀ l ∈ ld.lanes, ∀ g, l.gd = some g → (g.got.map Prod.fst).Nodup → ∀ r ∈ g.got,
        t.cur.vreg (ld.d + r.1) l.lane = { val := BitVec.ofNat 32 r.2, tint := l.tint })
      ∧ ∀ q L, L < 1024 → L ∉ ld.lanes.map LoadLane.lane → t.cur.vreg q L = s.cur.vreg q L)

/-- GDEM, FIX, GTEST and GDROP (R143, R147, R168, R169, R418). -/
def Obligations.GuessInstructions : Prop := Claims.GuessRegisters ∧ Claims.GuessDemands

/-- PREF touches no register and no memory, and leaves an access in flight for its untinted lanes that translate; TMOV issues with its words, accepted or in WAI; from the end of its limit a TMOV counts as due and a prefetch is abandoned; a recall takes a line's lease and raises its counter (R138, R167, R170-R172).
That no operation of a team is accepted before its earlier one in WAI is the model's choice of log 65. -/
def Obligations.PrefetchAndTiles : Prop :=
  (∀ (s : State) (o : PrefOps),
    let ls := (s.cur.activeLanes o.g).filter fun L => !(s.cur.memAddr o.addr L).2 && (s.checkLane o.sp needR o.w.bytes (s.cur.memAddr o.addr L).1).isOk
    Completes (.pref o) s fun t => s.issued t
      ∧ ((ls = [] ∨ (s.cur.sys.gdrill = true ∧ o.limit.val ≠ 0)) → t.loads = s.loads)
      ∧ (ls ≠ [] → (s.cur.sys.gdrill = false ∨ o.limit.val = 0) → ∃ e : Load, t.loads = s.loads ++ [e] ∧ e.kind = .pref ∧ e.team = s.cur.id
        ∧ e.w = o.w ∧ e.limit = o.limit.val ∧ e.written = true
        ∧ (e.lanes.map fun l => (l.lane, l.addr, l.st)) = ls.map fun L => (L, (s.cur.memAddr o.addr L).1, LaneSt.waiting)))
  ∧ (∀ (s : State) (o : TmovOps) (src dst : List (List (Place × Nat))) (bar : Option ObjLoc × Nat), s.cur.goes o.g →
    s.cur.cleanS ([o.d, o.a, o.b] ++ if o.bar.isSome then [o.c] else []) →
    let sh := tileShape (s.cur.sval o.b)
    let rows := if sh.len = 0 then 0 else sh.rows
    (s.cur.sval o.d).toNat % 8 = 0 → (s.cur.sval o.a).toNat % 8 = 0 →
    s.rectRuns o.ssp needR (s.cur.sval o.a).toNat sh.sstride sh.len rows = .ok src →
    s.rectRuns o.dsp needW (s.cur.sval o.d).toNat sh.dstride sh.len rows = .ok dst →
    (o.dsp ≠ .g → ∀ r ∈ dst, ∀ x ∈ r, s.placeGuarded x.1 x.2 = false) → s.copyBar o.bar o.c = .ok bar →
    Completes (.tmov o) s fun t => s.issued t
      ∧ (rows * sh.len = 0 → s.accepts = true → t.engs = s.engs)
      ∧ (rows * sh.len ≠ 0 ∨ s.accepts = false → ∃ e : EngOp, t.engs = s.engs ++ [e] ∧ e.kind = .tmov ∧ e.team = s.cur.id ∧ e.total = rows * sh.len
        ∧ e.units = tileUnits src dst sh.len ∧ e.bar = bar.1 ∧ e.limit = o.limit.val ∧ e.issued = s.clk ∧ e.fetched = 0 ∧ e.landed = 0
        ∧ e.atDeadline = (s.cur.sys.gdrill && o.limit.val != 0)
        ∧ e.accepted = s.accepts ∧ (s.accepts = true → e.num = s.tlNext s.cur.id.gid 16)))
  ∧ (∀ (s : State) (k : Nat),
    (∀ e, s.eng? k = some e → e.kind = .tmov → e.limit ≠ 0 → limitEnd e.issued e.limit < s.clk →
      Completes (.tmovDeadline k) s fun t => t.eng? k = some { e with atDeadline := true } ∧ t = { s with engs := t.engs })
    ∧ (∀ ld, s.eng? k = none → s.load? k = some ld → ld.kind = .pref → ld.limit ≠ 0 → limitEnd ld.issued ld.limit < s.clk →
      Completes (.tmovDeadline k) s fun t => t.load? k = none ∧ t = { s with loads := s.loads.filter fun x => x.key != k }))
  ∧ (∀ (s : State) (core line : Nat), line ∈ (s.coreAt core).lease →
    let i := line % 256
    Completes (.nearLeaseRecall core line) s fun t => line ∉ (t.coreAt core).lease
      ∧ (∀ x, x ≠ line → (x ∈ (t.coreAt core).lease ↔ x ∈ (s.coreAt core).lease))
      ∧ (t.coreAt core).predictor.get 0 i = min 3 ((s.coreAt core).predictor.get 0 i + 1)
      ∧ (∀ c, c ≠ core → t.coreAt c = s.coreAt c) ∧ t = { s with cores := t.cores })

/-! ### Matrices -/

/-- The matrix instructions stand in their core's queue with what they have read; no tile changes at their issue (R180, R181, R191-R203). -/
def Claims.MatrixIssues : Prop :=
  ∀ (s : State) (g : TeamGuard), (s.cur.tguard g).val = true →
    let t := s.cur
    let gid := t.id.gid
    let lanes := t.matLanes g
    (∀ ia d, Completes (.mzero ⟨g, ia, d⟩) s fun u => s.queued u fun k => k = .zero d.val ia (t.matTint g))
    ∧ (∀ o : MmaOps, o.g = g → ∀ v, o.a = .frag v → (t.sreg o.b.val).tint = true ∨ s.wCheck (t.sval o.b).toNat 16 = none →
      s.tileIa gid o.d.val = false →
      Completes (.mma o) s fun u => s.queued u fun k => ∃ p, k = .mma o.fa o.fb o.shape.k (t.sval o.b).toNat [p] ∧ p.team = t.id ∧ p.d = o.d.val
        ∧ p.win = none ∧ p.frag = (t.frag o.fa o.shape.k v.val).1 ∧ p.skip = (t.sreg o.b.val).tint ∧ p.blind = (t.sreg o.b.val).tint
        ∧ p.tint = (t.matTint g || ((t.frag o.fa o.shape.k v.val).2 || (t.sreg o.b.val).tint)))
    ∧ (∀ (o : MmaOps) (a c : Fin 64) (r : Tlr) (m : Nat) (ls : List LoadLane), o.g = g → o.a = .handle a c → t.cleanS [o.b, a, c] →
      s.wCheck (t.sval o.b).toNat 16 = none → s.tileIa gid o.d.val = false → s.tlr ((t.sval a).toNat % 2 ^ 16) = .ok r →
      r.fmt = some o.fa → 2 ≤ r.rank → r.meshRank s.rank = some m →
      let c0 := (t.sval c).toNat % 2 ^ 32
      let c1 := (t.sval c).toNat / 2 ^ 32
      (o.fa.isMx = true → c0 % 32 = 0) → s.winLanes (winBytes r m o.fa o.shape.k c0 c1) 0 = .ok ls →
      Completes (.mma o) s fun u => ∃ e : Load, u.loads = s.loads ++ [e] ∧ e.kind = .mat ∧ e.team = t.id ∧ e.lanes = ls
        ∧ s.queued u fun k => ∃ p, k = .mma o.fa o.fb o.shape.k (t.sval o.b).toNat [p] ∧ p.d = o.d.val ∧ p.win = some e.key
          ∧ p.skip = false ∧ p.blind = false ∧ p.tint = t.matTint g)
    ∧ (∀ (o : MmaOps) (a c : Fin 64), o.g = g → o.a = .handle a c → (t.sreg a.val).tint = true →
      (t.sreg o.b.val).tint = true ∨ s.wCheck (t.sval o.b).toNat 16 = none → s.tileIa gid o.d.val = false →
      Completes (.mma o) s fun u => u.loads = s.loads ∧ s.queued u fun k => ∃ p, k = .mma o.fa o.fb o.shape.k (t.sval o.b).toNat [p] ∧ p.d = o.d.val
        ∧ p.win = none ∧ p.skip = true ∧ p.blind = (t.sreg o.b.val).tint ∧ p.tint = true)
    ∧ (∀ o : MtrnOps, o.g = g → (t.sreg o.b.val).tint = true ∨ s.wCheck (t.sval o.b).toNat 16 = none → s.tileIa gid o.d.val = true →
      Completes (.mtrn o) s fun u => s.queued u fun k => ∃ p, k = .trn o.shape.k (t.sval o.b).toNat p none ∧ p.d = o.d.val
        ∧ p.frag = (t.frag .i8 o.shape.k o.a.val).1 ∧ p.skip = (t.sreg o.b.val).tint ∧ p.blind = (t.sreg o.b.val).tint
        ∧ p.tint = (t.matTint g || (t.frag .i8 o.shape.k o.a.val).2 || (t.sreg o.b.val).tint))
    ∧ (∀ (o : MtrnDltOps) (x : Group), o.g = g → t.cleanS [o.b, o.c] → s.wCheck (t.sval o.b).toNat 16 = none → s.tileIa gid o.d.val = true →
      s.myGroup = some x → (t.sval o.c).toNat % 8 = 0 → (t.sval o.c).toNat + 64 * o.shape.k ≤ s.spaceSize x .k →
      Completes (.mtrnDlt o) s fun u => s.queued u fun k => ∃ p, k = .trn o.shape.k (t.sval o.b).toNat p (some (o.th.toNat, (t.sval o.c).toNat))
        ∧ p.d = o.d.val ∧ p.frag = (t.frag .i8 o.shape.k o.a.val).1 ∧ p.skip = false ∧ p.blind = false
        ∧ p.tint = (t.matTint g || (t.frag .i8 o.shape.k o.a.val).2))
    ∧ (∀ o : MtrnDltOps, o.g = g → (t.sreg o.c.val).tint = true → (t.sreg o.b.val).tint = true ∨ s.wCheck (t.sval o.b).toNat 16 = none →
      s.tileIa gid o.d.val = true →
      Completes (.mtrnDlt o) s fun u => s.queued u fun k => ∃ p, k = .trn o.shape.k (t.sval o.b).toNat p (some (o.th.toNat, (t.sval o.c).toNat))
        ∧ p.d = o.d.val ∧ p.skip = true ∧ p.blind = (t.sreg o.b.val).tint ∧ p.tint = true)
    ∧ (∀ o : MrdaOps, o.g = g → (t.sreg o.b.val).tint = true
        ∨ ((s.tileIa gid o.a.val = true → o.fmt ≠ .fa48) ∧ (s.tileIa gid o.a.val = false → o.fmt ≠ .i32 ∧ o.fmt ≠ .ia48)) →
      let e0 := (t.sval o.b).toNat / 2 ^ 16 % 2 ^ 12
      let n := if o.span = 0 then 4096 / t.lanes else o.span.toNat
      let done := fun tau => Completes (.mrda o) s fun u => s.queued u fun k =>
        k = .rda o.fmt o.rm o.sat tau o.d.val o.a.val e0 n (lanes.map fun p => (p.1, p.2 || (t.sreg o.b.val).tint))
      (o.noscale = true ∨ tauFmt o.fmt = false → done none)
      ∧ (∀ r, o.noscale = false → tauFmt o.fmt = true → s.tlr ((t.sval o.b).toNat % 2 ^ 16) = .ok r → done (some r.tscale)))
    ∧ (∀ d b, Completes (.mrdaStatus ⟨g, d, b⟩) s fun u => s.queued u fun k => k = .status d.val lanes)
    ∧ (∀ o : MwraOps, o.g = g →
      let n := if o.span = 0 then 4096 / t.lanes else o.span.toNat
      let ia := decide (o.fmt = .ia48 ∨ o.fmt = .i32)
      let whole := decide (n * t.lanes = 4096 ∧ lanes.length = t.lanes)
      let e0 := (t.sval o.b).toNat / 2 ^ 16 % 2 ^ 12
      let m := rawRegs o.fmt
      s.tileIa gid o.d.val = ia ∨ whole = true →
      Completes (.mwra o) s fun u => s.queued u fun k => ∃ tint, k = .wra o.d.val ia
        ((List.range n).flatMap fun r => lanes.map fun p => ((e0 + r * t.lanes + p.1) % 4096, intoTile o.fmt (t.vval m (o.a.val + m * r) p.1).1))
        tint (whole && !tint))

/-- The instructions that move the weight region, and the gang register: each copies the bytes of its operands once its checks hold (R183, R198, R199, R204). -/
def Claims.WeightRegion : Prop :=
  (∀ (s : State) (o : MldwRegionOps) (runs : List (Place × Nat)), s.cur.goes o.g → s.cur.cleanS [o.a, o.b, o.c] →
    let a := (s.cur.sval o.a).toNat
    let off := (s.cur.sval o.b).toNat
    let n := (s.cur.sval o.c).toNat
    a % 8 = 0 → off % 8 = 0 → n % 8 = 0 → s.wCheck off n = none →
    (s.locateRange .g needW a (pagesIn n) n = .ok runs →
      Completes (.mldwSave o) s fun t => s.queued t fun k => k = .save off n a runs none)
    ∧ (s.locateRange .g needR a (pagesIn n) n = .ok runs →
      Completes (.mldwRaw o) s fun t => ∃ e : Load, t.loads = s.loads ++ [e] ∧ e.kind = .mat ∧ e.lanes = wordLanes runs a n
        ∧ s.queued t fun k => k = .ldw off n (some e.key)))
  ∧ (∀ (s : State) (o : MldwOps) (p : Nat) (h : ImgHdr) (runs : List (Place × Nat)), s.cur.goes o.g → s.cur.cleanS [o.a, o.b] → s.quiet → s.numbered →
    let a := (s.cur.sval o.a).toNat
    let off := (s.cur.sval o.b).toNat
    a % 8 = 0 → off % 8 = 0 → s.locateRange .g needR a (pagesIn 16) 16 = .ok [(.phys p, 16)] → s.poisoned p 16 = false →
    imgHdr (s.physWord p).toNat (s.physWord (p + 8)).toNat = some h → s.wCheck off h.len = none →
    s.locateRange .g needR a (pagesIn h.len) h.len = .ok runs →
    Completes (.mldw o) s fun t => ∃ e : Load, t.loads = s.loads ++ [e] ∧ e.kind = .mat ∧ e.lanes = wordLanes runs a h.len
      ∧ s.queued t fun k => k = .ldw off h.len (some e.key))
  ∧ (∀ (s : State) (g : TeamGuard) (m : BitVec 16), s.cur.goes g →
    Completes (.mgang ⟨g, m⟩) s fun t => t.cur = { s.cur.passed with gang := m } ∧ s.sameTiles t ∧ s.sameBytes t ∧ t.others = s.others
      ∧ ∃ j : MatJob, t.mats = s.mats ++ [j] ∧ j.kind = .gang ∧ j.num = some (s.tlNext s.cur.id.gid 17))

/-- The matrix instructions at their issue, and those that move the weight region (R180, R181, R183, R191-R204). -/
def Obligations.MatrixInstructions : Prop := Claims.MatrixIssues ∧ Claims.WeightRegion

/-- MMAG arrives at its group's rendezvous: the first arrival opens it with the gang's mask, and the last makes one operation of all members in ascending team order; a bound of 65,536 cycles fails the members that have arrived (R193-R195). -/
def Obligations.Rendezvous : Prop :=
  (∀ (s : State) (o : MmaOps) (v : Fin 256) (x : Group), (s.cur.tguard o.g).val = true → o.a = .frag v → s.cur.gang ≠ 0 →
    (s.cur.sreg o.b.val).tint = false → s.wCheck (s.cur.sval o.b).toNat 16 = none → s.tileIa s.cur.id.gid o.d.val = false →
    s.myGroup = some x →
    let part := fun p : MatPart => p.team = s.cur.id ∧ p.d = o.d.val ∧ p.win = none ∧ p.frag = (s.cur.frag o.fa o.shape.k v.val).1 ∧ p.skip = false
      ∧ p.num = s.tlNext s.cur.id.gid 17
    let members := fun l : List MatPart => ∀ i, i < 16 → s.cur.gang.getLsbD i = true → ∃ q ∈ l, q.team.idx = i
    (x.latch = none → (∃ i, i < 16 ∧ i ≠ s.cur.id.idx ∧ s.cur.gang.getLsbD i = true) →
      Completes (.mmag o) s fun t => s.issued t ∧ s.sameTiles t ∧ t.mats = s.mats ∧ ∃ (y : Group) (l : Latch) (p : MatPart),
        t.group? s.cur.id.gid = some y ∧ y.latch = some l ∧ l.mask = s.cur.gang ∧ l.fa = o.fa ∧ l.fb = o.fb ∧ l.shape = o.shape
        ∧ l.since = s.clk ∧ l.arrived = [p] ∧ part p)
    ∧ (∀ l, x.latch = some l → l.mask = s.cur.gang → l.fa = o.fa → l.fb = o.fb → l.shape = o.shape → l.handle = false →
      l.sb = some (s.cur.sval o.b) → (∀ q ∈ l.arrived, q.team.idx ≠ s.cur.id.idx) →
      (∀ i, i < 16 → s.cur.gang.getLsbD i = true → i = s.cur.id.idx ∨ ∃ q ∈ l.arrived, q.team.idx = i) →
      Completes (.mmag o) s fun t => s.issued t ∧ s.sameTiles t ∧ ((t.group? s.cur.id.gid).bind Group.latch) = none ∧ ∃ (j : MatJob) (p : MatPart),
        t.mats = s.mats ++ [j] ∧ part p ∧ j.kind = .mma o.fa o.fb o.shape.k (s.cur.sval o.b).toNat (insertPart p l.arrived)
        ∧ members (insertPart p l.arrived)))
  ∧ (∀ (s : State) (x : Group) (l : Latch), s.group? x.gid = some x → x.latch = some l → l.since + 65536 < s.clk →
    Completes (.gangTimeout x.gid) s fun t => ((t.group? x.gid).bind Group.latch) = none ∧ s.sameTiles t ∧ s.sameBytes t
      ∧ (∀ p ∈ l.arrived, p.team = s.cur.id → s.cur.state ≠ .exiting → s.cur.state ≠ .retired →
        ∃ d ∈ t.cur.deferred, d.at_ = .clause ∧ d.trap.cause = 0x25 ∧ d.trap.addr = p.pc.toNat))

/-- The engine of a core starts its first instruction once that one's reads are performed; one whose weight image is invalid kills its group, unless the image's address was a guess (R180, R181, R189, R192, R196). -/
def Claims.MatrixEngineStarts : Prop :=
  ∀ (s : State) (core : Nat) (j : MatJob), s.matHead core = some j → j.started = none →
    (∀ k ∈ j.kind.loads, ∃ ld, s.load? k = some ld ∧ ∀ l ∈ ld.lanes, l.performed = true) →
    let valid := match j.kind with
      | .mma _ fb k off ps => (∃ p ∈ ps, p.blind = false) → s.imgOk j.team.gid off k fb = true
      | .trn k off p _ => p.blind = false → s.imgOk j.team.gid off k .t2 = true
      | _ => True
    (valid → j.kind.isSave = false →
      Completes (.matrixEngineStart core) s fun t => t.matHead core = some { j with started := some s.clk } ∧ t = { s with mats := t.mats })
    ∧ (∀ off n va runs q, valid → j.kind = .save off n va runs q → ∀ x, s.group? j.team.gid = some x →
      Completes (.matrixEngineStart core) s fun t => s.calm t ∧ ∃ p : Post, t.posts = s.posts ++ [p]
        ∧ p.writes.map PostWrite.data = (List.range (n / 8)).map (fun i => (((x.wread off n).drop (8 * i)).take 8))
        ∧ p.writes.map PostWrite.place = (List.range (n / 8)).map (fun i => runPlace runs (8 * i))
        ∧ t.matHead core = some { j with started := some s.clk, kind := .save off n va runs (some p.key) })
    ∧ (¬ valid → ∀ x, s.group? j.team.gid = some x → x.state.live = true →
      (∀ k off p dl, j.kind = .trn k off p dl → p.team.gid = j.team.gid) →
      (∀ fa fb k off ps, j.kind = .mma fa fb k off ps → ∀ p ∈ ps, p.team.gid = j.team.gid) →
      Completes (.matrixEngineStart core) s fun t => s.sameButWaiters j.team.gid t ∧ (∃ y, t.group? j.team.gid = some y ∧ y.state = .killed ∧ y.killCause = some 0x23)
        ∧ ∃ r ∈ t.reports, r.kind = 0x01 ∧ r.cause = 0x23)

/-- The first instruction of a core's queue is done: its occupancy has ended, and it leaves the queue with the effect `p` on its group (R180, R187). -/
def Claims.matrixDone (s : State) (core : Nat) (j : MatJob) (p : State → Group → Prop) : Prop :=
  Completes (.matrixInstructionDone core) s fun t =>
    t.mats = s.mats.filter (fun i => i.key != j.key) ∧ ∃ y, t.group? j.team.gid = some y ∧ p t y
/-- Every tile but `d` is as before, with its format and its tint. -/
def Claims.otherTiles (x y : Group) (d : Nat) : Prop :=
  (∀ i, (i < 4096 * d ∨ 4096 * d + 4096 ≤ i) → y.tiles.get 0 i = x.tiles.get 0 i) ∧ ∀ e, e ≠ d → y.ia e = x.ia e ∧ y.tint e = x.tint e
/-- The weight image at an offset of a group's region (R184, R185). -/
def Claims.imageOf (s : State) (x : Group) (off : Nat) : Option (ImgHdr × List Column) :=
  x.image (((s.kernel? x.kid).map fun k => k.lpb.wbuf).getD 0) off

/-- A matrix instruction leaves the queue once its occupancy has ended, with its effect: tiles cleared, marked, written or accumulated into, the status word read, the weight region loaded or stored (R180, R181, R187, R191-R193, R198, R199, R202, R203). -/
def Claims.MatrixEngineFinishes : Prop :=
  ∀ (s : State) (core c : Nat) (j : MatJob) (x : Group), s.matHead core = some j → j.started = some c → c + j.kind.occupancy ≤ s.clk →
    s.group? j.team.gid = some x →
    let after := fun (p : State → Group → Prop) => Claims.matrixDone s core j fun t y => s.sameBytes t ∧ p t y
    let only := fun (y : Group) (d : Nat) => Claims.otherTiles x y d
    let noRegs := fun t : State => ∀ u : TeamId, (t.team? u).map Team.v = (s.team? u).map Team.v
    (∀ d ia tint, j.kind = .zero d ia tint → after fun t y =>
      (∀ e, e < 4096 → y.elem d e = 0) ∧ y.ia d = ia ∧ y.tint d = tint ∧ only y d ∧ noRegs t)
    ∧ (∀ d, j.kind = .mark d → after fun t y => y.tiles = x.tiles ∧ y.tileIa = x.tileIa ∧ y.tint d = true ∧ (∀ e, e ≠ d → y.tint e = x.tint e) ∧ noRegs t)
    ∧ (∀ d ia els tint clear, j.kind = .wra d ia els tint clear → (els.map Prod.fst).Nodup → (∀ p ∈ els, p.1 < 4096) → after fun t y =>
      (∀ p ∈ els, y.elem d p.1 = p.2) ∧ (∀ e, e < 4096 → e ∉ els.map Prod.fst → y.elem d e = x.elem d e)
      ∧ y.ia d = ia ∧ y.tint d = (if tint then true else if clear then false else x.tint d) ∧ only y d ∧ noRegs t)
    ∧ (∀ fa fb k off ps h cols, j.kind = .mma fa fb k off ps → (∀ p ∈ ps, p.team.gid = j.team.gid ∧ p.win = none ∧ p.skip = false) →
      Claims.imageOf s x off = some (h, cols) →
      let made := fun (d : Nat) (l : List MatPart) => l.foldl (fun b p => if p.d = d then (macTile k b (fragRows fa k p.frag) cols).1 else b) (x.tile d)
      after fun t y => (∀ p ∈ ps, ∀ e, e < 4096 → y.elem p.d e = nth 0 (made p.d ps) e) ∧ y.tileIa = x.tileIa
        ∧ (∀ i, (∀ p ∈ ps, i < 4096 * p.d ∨ 4096 * p.d + 4096 ≤ i) → y.tiles.get 0 i = x.tiles.get 0 i)
        ∧ (∀ d, y.tint d = (x.tint d || ps.any fun p => p.d == d && p.tint)) ∧ noRegs t
        ∧ ∀ a p b, ps = a ++ p :: b → p.team = s.cur.id → (∀ q ∈ a ++ b, q.team ≠ p.team) →
          t.cur.sys = { s.cur.sys with mflags := s.cur.sys.mflags ||| (macTile k (made p.d a) (fragRows fa k p.frag) cols).2 })
    ∧ (∀ d lanes, j.kind = .status d lanes → j.team = s.cur.id → (lanes.map Prod.fst).Nodup → (∀ p ∈ lanes, p.1 < 1024) → after fun t y =>
      y.tiles = x.tiles ∧ y.tileIa = x.tileIa ∧ y.tileTint = x.tileTint
      ∧ ∀ p ∈ lanes, (t.cur.vreg d p.1).tint = p.2 ∧ ∀ i, i < 8 →
        (t.cur.vreg d p.1).val.getLsbD i = x.ia i ∧ (t.cur.vreg d p.1).val.getLsbD (8 + i) = x.tint i)
    ∧ (∀ off n k ld, j.kind = .ldw off n (some k) → s.load? k = some ld → (∀ l ∈ ld.lanes, l.bad = none) → after fun t y =>
      y.tiles = x.tiles ∧ y.wread off (8 * ld.lanes.length) = matBytes ld ∧ noRegs t
      ∧ (∀ i, (i < off ∨ off + 8 * ld.lanes.length ≤ i) → y.wbuf.get none i = x.wbuf.get none i))
    ∧ (j.kind = .gang → ∀ n, j.num = some n → after fun t y => y.tiles = x.tiles ∧ y.wbuf = x.wbuf ∧ noRegs t
      ∧ y.tline 17 = (x.tline 17).finish n)
    ∧ (∀ off n va runs k q, j.kind = .save off n va runs (some k) → s.post? k = some q → (∀ w ∈ q.writes, w.done = true) → ∀ m, j.num = some m →
      after fun t y => t.posts = s.posts.filter (fun q => q.key != k) ∧ y.tiles = x.tiles ∧ y.wbuf = x.wbuf ∧ noRegs t
        ∧ y.tline 17 = (x.tline 17).finish m)

/-- MMA of a window: its rows come from the bytes that the engine has read; one that met poison accumulates nothing and reports it (R189, R192, R331). -/
def Claims.WindowSums : Prop :=
  ∀ (s : State) (core c : Nat) (j : MatJob) (x : Group) (fa fb : Fmt) (k off w : Nat) (p : MatPart) (ld : Load), s.matHead core = some j →
    j.started = some c → c + j.kind.occupancy ≤ s.clk → s.group? j.team.gid = some x → j.kind = .mma fa fb k off [p] → p.team = j.team →
    p.win = some w → p.skip = false → s.load? w = some ld →
    let same := fun (t : State) (y : Group) => s.sameBytes t ∧ t.loads = s.loads.filter (fun ld => ld.key != w) ∧ y.tileIa = x.tileIa
      ∧ y.tint p.d = (p.tint || x.tint p.d) ∧ Claims.otherTiles x y p.d ∧ ∀ u : TeamId, (t.team? u).map Team.v = (s.team? u).map Team.v
    (∀ h cols, (∀ l ∈ ld.lanes, l.bad = none) → Claims.imageOf s x off = some (h, cols) →
      let r := macTile k (x.tile p.d) (winRows fa k ld.lanes) cols
      Claims.matrixDone s core j fun t y => same t y ∧ (∀ e, e < 4096 → y.elem p.d e = nth 0 r.1 e)
        ∧ (s.cur.id = p.team → t.cur.sys = { s.cur.sys with mflags := s.cur.sys.mflags ||| r.2 }))
    ∧ (∀ l, (ld.lanes.find? fun l => l.bad.isSome) = some l → Claims.matrixDone s core j fun t y => same t y ∧ y.tiles = x.tiles
        ∧ (s.cur.id = p.team → t.cur.sys = s.cur.sys)
        ∧ ∃ r ∈ t.reports, r.kind = 0x03 ∧ r.cause = 0x1D ∧ r.addr = l.addr ∧ r.pc = p.pc.toNat ∧ r.ctx = x.ctx)

/-- MTRN over a tile, and MTRN.dlt: a row none of whose elements differs from its previous activation by more than the threshold is skipped, the others accumulate their differences and write their activations back (R196, R197).
That a reserved t2 code sets TR even where every row is skipped is the model's choice of log 85. -/
def Claims.TernarySums : Prop :=
  ∀ (s : State) (core c : Nat) (j : MatJob) (x : Group) (k off : Nat) (p : MatPart) (dlt : Option (Nat × Nat)) (h : ImgHdr) (cols : List Column),
    s.matHead core = some j → j.started = some c → c + j.kind.occupancy ≤ s.clk → s.group? j.team.gid = some x → j.kind = .trn k off p dlt →
    p.team = j.team → p.skip = false → p.frag.length = 64 * k → Claims.imageOf s x off = some (h, cols) →
    let act := fun i n : Nat => toSigned 8 (nth 0 p.frag (k * i + n))
    let result := fun (t : State) (y : Group) (rows : List (Option (List Int))) =>
      let r := trnTile k (x.tile p.d) rows cols
      (∀ e, e < 4096 → y.elem p.d e = nth 0 r.1 e) ∧ y.tileIa = x.tileIa ∧ y.tint p.d = (p.tint || x.tint p.d) ∧ Claims.otherTiles x y p.d
        ∧ (∀ u : TeamId, (t.team? u).map Team.v = (s.team? u).map Team.v)
        ∧ (s.cur.id = p.team → t.cur.sys = { s.cur.sys with
            mflags := s.cur.sys.mflags ||| (r.2 ||| if cols.any Column.bad then NFlags.tr else 0) })
    (dlt = none → Claims.matrixDone s core j fun t y => s.sameBytes t
      ∧ result t y ((List.range 64).map fun i => some ((List.range k).map (act i))))
    ∧ (∀ th a, dlt = some (th, a) → (p.tint = false → ∀ i, i < 64 * k → s.placeGuarded (.scratch j.team.gid .k (a + i)) 1 = false) →
      let prev := fun i n : Nat => toSigned 8 (x.k.mem.get 0 (a + k * i + n)).toNat
      let skips := fun i => decide (∀ n, n < k → (act i n - prev i n).natAbs ≤ th)
      Claims.matrixDone s core j fun t y =>
        result t y ((List.range 64).map fun i => if skips i then none else some ((List.range k).map fun n => act i n - prev i n))
        ∧ (∀ i n, i < 64 → n < k → t.byteAt (.scratch j.team.gid .k (a + k * i + n)) =
          if p.tint || skips i then s.byteAt (.scratch j.team.gid .k (a + k * i + n)) else [BitVec.ofInt 8 (act i n)])
        ∧ (∀ q, (∀ i, i < 64 * k → q ≠ .scratch j.team.gid .k (a + i)) → t.byteAt q = s.byteAt q))

/-- MRDA delivers a window of a tile into registers: each element rounded into the result format with its flags, tinted by the lane and the tile; every other register keeps its value (R43, R200, R201). -/
def Claims.TileReads : Prop :=
  ∀ (s : State) (core c : Nat) (j : MatJob) (x : Group) (fmt : Fmt) (rm : Rm) (sat : Bool) (tau : Option Lane) (d a e0 nreg : Nat) (lanes : List (Nat × Bool)),
    s.matHead core = some j → j.started = some c → s.group? j.team.gid = some x → j.kind = .rda fmt rm sat tau d a e0 nreg lanes → j.team = s.cur.id →
    (lanes.map Prod.fst).Nodup → (∀ p ∈ lanes, p.1 < 1024) → c ≤ s.clk →
    let n := rawRegs fmt
    let el := fun r L : Nat => rdaElem fmt rm sat s.cur.ftz tau (x.ia a) (nth 0 (x.tile a) ((e0 + r * s.cur.lanes + L) % 4096))
    Claims.matrixDone s core j fun t y => s.sameBytes t ∧ y.tiles = x.tiles ∧ y.tileIa = x.tileIa ∧ y.tileTint = x.tileTint
      ∧ (∀ r i p, r < nreg → i < n → p ∈ lanes → t.cur.vreg (d + n * r + i) p.1 =
          { val := BitVec.ofNat 32 ((el r p.1).1 / 2 ^ (32 * i)), tint := p.2 || x.tint a })
      ∧ (∀ q L, L < 1024 → (q < d ∨ d + n * nreg ≤ q ∨ L ∉ lanes.map Prod.fst) → t.cur.vreg q L = s.cur.vreg q L)
      ∧ t.cur.sys = { s.cur.sys with nstat := t.cur.sys.nstat }
      ∧ (∀ i, t.cur.sys.nstat.getLsbD i = (s.cur.sys.nstat.getLsbD i
          || (List.range nreg).any fun r => lanes.any fun p => (el r p.1).2.getLsbD i))

/-- The matrix engine starts and finishes an instruction (R43, R180, R181, R187, R189, R191-R193, R196-R203).
That a tensor scale is never flushed and that .sat changes nothing beside e4m3 and e5m2 are the model's choices of logs 83 and 84, the report of a window byte that is denied or lost that of log 91, and a reserved t2 code under skipped rows that of log 85. -/
def Obligations.MatrixEngine : Prop :=
  Claims.MatrixEngineStarts ∧ Claims.MatrixEngineFinishes ∧ Claims.WindowSums ∧ Claims.TernarySums ∧ Claims.TileReads

/-! ### Barriers -/

/-- The barrier instructions on an object that lies on this package (R210, R211, R222-R226). -/
def Claims.BarrierInstructions : Prop :=
  ∀ (s : State) (g : TeamGuard) (ob : ObjSpace) (a : Fin 64) (loc : ObjLoc), s.cur.goes g → s.cur.cleanS [a] → s.tintAny = false →
    s.objAt ob (s.cur.sval a).toNat = .ok loc → (∀ r x, loc ≠ .peer r x) → (∀ x, loc = .phys x → s.gRoom ob.sp = true ∧ s.regOver x 16 = none) →
    s.barDue loc = false →
    let others := fun t : State => ∀ p, loc.place.overlaps 16 p 1 = false → t.byteAt p = s.byteAt p ∧ t.placeGuarded p 1 = s.placeGuarded p 1
    (∀ (i : BinitN) (n : Nat), n = (match i with
        | .reg b => (s.cur.sval b).toNat
        | .imm x => x.toNat) → (∀ b, i = .reg b → (s.cur.sreg b.val).tint = false) → 1 ≤ n → n ≤ 65535 →
      (∀ b, s.bar? loc = some b → b.fl = true ∨ b.w = false) →
      (∀ gid sp off, loc = .scratch gid sp off → ∀ x, s.group? gid = some x → ∀ r ∈ x.held, r.sp ≠ sp ∨ r.off ≠ off) →
      Completes (.binit ⟨g, ob, a, i⟩) s fun t => t.cur = s.cur.passed ∧ others t ∧ t.bar? loc
        = some { inb := 0, outb := 0, exp := n, pend := n, gen := 0, bk := 0, w := false, fl := false, bid := 0 })
    ∧ (Completes (.binv ⟨g, ob, a⟩) s fun t => t.bar? loc = none ∧ others t
      ∧ t.cur.v = s.cur.v ∧ t.cur.s = s.cur.s ∧ t.cur.q = s.cur.q ∧ t.cur.p = s.cur.p)
    ∧ (∀ b d, s.bar? loc = some b → b.fl = false → 1 < b.pend → relDone s s.cur.id s.cur.seq (some (objScope ob)) = true →
      Completes (.barv ⟨g, ob, d, a⟩) s fun t => t.bar? loc = some { b with pend := b.pend - 1 } ∧ others t
        ∧ t.cur.sreg d.val = { val := BitVec.ofNat 64 b.gen, tint := false } ∧ s.cur.sameS t.cur d.val ∧ t.cur.v = s.cur.v ∧ t.cur.q = s.cur.q)
    ∧ (∀ b c out, s.bar? loc = some b → b.fl = false → (s.cur.sreg c.val).tint = false →
      let n := (s.cur.sval c).toNat
      let x : Int := (if out then b.outb else b.inb) + n
      n < 2 ^ 32 → x < 2 ^ 31 → x ≠ 0 →
      Completes (.bexp ⟨g, ob, out, a, c⟩) s fun t => t.cur = s.cur.passed ∧ others t
        ∧ t.bar? loc = some (if out then { b with outb := x } else { b with inb := x }))
    ∧ (∀ b c d, s.bar? loc = some b → b.fl = false →
      let phase := (s.cur.sval c).toNat % 16
      (b.gen ≠ phase → Completes (.bwait ⟨g, ob, some d, a, c⟩) s fun t => s.heardQ t d.val { val := false, tint := false })
      ∧ (b.gen = phase → Completes (.bwait ⟨g, ob, some d, a, c⟩) s fun t => t.cur.state = .blocked ∧ t.cur.clause = none ∧ others t
        ∧ t.bar? loc = some { b with w := true } ∧ ∃ w, t.cur.wait = some w ∧ w.obj = loc ∧ w.phase = phase ∧ w.q = some d ∧ w.answer = none
        ∧ w.hdr = s.cur.hdrAddr ∧ w.idx = s.cur.instrIdx))
    ∧ (∀ b c (d : Fin 4), s.bar? loc = some b → (s.cur.sreg c.val).tint = false →
      Completes (.btest ⟨g, ob, d, a, c⟩) s fun t => s.heardQ t d.val { val := b.fl || decide (b.gen ≠ (s.cur.sval c).toNat % 16), tint := false })

/-- The arrival that completes a phase: the next phase begins with the arrivals it expects, and the object's waiters are answered; a team whose answer is in goes on behind its BWAIT (R89, R211, R225). -/
def Claims.BarrierPhases : Prop :=
  (∀ (s : State) (g : TeamGuard) (ob : ObjSpace) (a d : Fin 64) (loc : ObjLoc) (b : BarObj), s.cur.goes g → s.tintAny = false →
    s.objAt ob (s.cur.sval a).toNat = .ok loc → (∀ r x, loc ≠ .peer r x) → (∀ x, loc = .phys x → s.gRoom ob.sp = true ∧ s.regOver x 16 = none) →
    s.barDue loc = false → s.bar? loc = some b → b.fl = false → b.pend = 1 → b.inb = 0 → b.outb = 0 → b.bk = 0 → relDone s s.cur.id s.cur.seq (some (objScope ob)) = true →
    Completes (.barv ⟨g, ob, d, a⟩) s fun t => t.cur.sreg d.val = { val := BitVec.ofNat 64 b.gen, tint := false }
      ∧ t.bar? loc = some { b with gen := (b.gen + 1) % 16, pend := b.exp, bk := 0, bid := 0, w := false }
      ∧ ∀ u ∈ s.others, ∀ w, u.state = .blocked → u.wait = some w → w.obj = loc → w.answer = none → { u with wait := some { w with answer := some none } } ∈ t.others)
  ∧ (∀ (s : State) (w : WaitFor), s.cur.wait = some w → s.cur.state = .blocked →
    (w.answer = some none → Completes (.bwaitWake s.cur.id) s fun t => t.cur.state = .pending ∧ t.cur.wait = none ∧ s.sameBytes t
      ∧ (w.idx + 1 < w.count → t.cur.pc = w.hdr ∧ t.cur.start = w.idx + 1)
      ∧ (w.count ≤ w.idx + 1 → t.cur.pc = w.hdr + BitVec.ofNat 64 (8 * (w.count + 1)) ∧ t.cur.start = 0 ∧ (w.hint = true → t.cur.yielding = some []))
      ∧ (∀ q, w.q = some q → t.cur.qreg q.val = { val := false, tint := false }) ∧ t.cur.v = s.cur.v ∧ t.cur.s = s.cur.s)
    ∧ (∀ c q, w.answer = some (some c) → w.q = some q → Completes (.bwaitWake s.cur.id) s fun t => t.cur.state = .pending ∧ t.cur.wait = none
      ∧ t.cur.qreg q.val = { val := true, tint := false } ∧ t.cur.fr.cause.toNat % 256 = 0x2E ∧ s.sameBytes t))

/-- BBIND arms a comparison for an object, an engine that counts bytes lowers the object's count, or waits while the object's group moves, and the notice of a comparison that came true satisfies its binding (R208, R211, R213, R227, R269).
That a count also waits while a group parks is the model's reading of log 97. -/
def Claims.BarrierBindings : Prop :=
  (∀ (s : State) (o : BbindOps) (loc : ObjLoc) (b : BarObj) (cond : BindCond) (bid : Nat), s.cur.goes o.g → s.cur.cleanS [o.a, o.b, o.c] →
    s.objAt o.o (s.cur.sval o.a).toNat = .ok loc → (∀ r x, loc ≠ .peer r x) → (∀ r x, cond ≠ .peer r x) → s.gRoom o.o.sp = true →
    (∀ x, loc = .phys x → s.regOver x 16 = none) →
    s.bindCond o.o.sp o.kind (s.cur.sval o.b) (s.cur.sval o.c) = .ok cond → s.condDue cond = false → s.barDue loc = false → s.bindHeld s.nextKey = false →
    s.bindRoom loc cond = some bid →
    s.bar? loc = some b → b.fl = false → b.bk = 0 → (∀ x ∈ s.binds, x.key ≠ s.nextKey ∧ x.obj ≠ loc) →
    b.pend ≠ 0 ∨ b.inb ≠ 0 ∨ b.outb ≠ 0 ∨ s.condHolds cond = false →
    Completes (.bbind o) s fun t => t.cur = s.cur.passed ∧ t.bar? loc = some { b with bk := bindCode o.kind, bid := bid }
      ∧ ∃ x ∈ t.binds, x.key = s.nextKey ∧ x.obj = loc ∧ x.kind = o.kind ∧ x.cond = cond ∧ x.bid = bid ∧ x.satisfied = s.condHolds cond)
  ∧ (∀ (s : State) (c : BarCount) (b : BarObj), s.counts.find? (fun x => x.key == c.key) = some c → (∀ r x, c.obj ≠ .peer r x) →
    (∀ x, c.obj = .phys x → s.regOver x 16 = none) → s.countHeld c.obj = false → s.bar? c.obj = some b → b.fl = false →
    let x : Int := (if c.out then b.outb else b.inb) - c.n
    0 ≤ x + 2 ^ 31 → x ≠ 0 →
    Completes (.barrierBytesCounted c.key) s fun t => t.bar? c.obj = some (if c.out then { b with outb := x } else { b with inb := x })
      ∧ t.counts = s.counts.filter (fun y => y.key != c.key) ∧ t.cur = s.cur ∧ t.others = s.others)
  ∧ (∀ (s : State) (c : BarCount), s.counts.find? (fun x => x.key == c.key) = some c → (∀ r x, c.obj ≠ .peer r x) → s.countHeld c.obj = true →
    Completes (.barrierBytesCounted c.key) s fun t => t = { s with counts := t.counts } ∧ { c with held := true } ∈ t.counts)
  ∧ (∀ (s : State) (x : Binding) (b : BarObj), s.binds.find? (fun y => y.key == x.key) = some x → x.fired = true → (∀ r y, x.obj ≠ .peer r y) →
    s.bar? x.obj = some b → b.fl = false → b.bk ≠ 0 → b.pend ≠ 0 →
    Completes (.bindingFire x.key) s fun t => t.bar? x.obj = some b ∧ (∃ y ∈ t.binds, y.key = x.key ∧ y.satisfied = true ∧ y.obj = x.obj)
      ∧ t.cur = s.cur ∧ t.others = s.others)

/-- The barrier instructions, the phases of an object and its bindings (R89, R208, R210, R211, R213, R222-R227).
That a count for an object of a group that is saved is held is the reading of log 97. -/
def Obligations.Barriers : Prop := Claims.BarrierInstructions ∧ Claims.BarrierPhases ∧ Claims.BarrierBindings

/-! ### Copies, timelines and fences -/

/-- CPY and CPYT issue with their ranges and move no byte yet; one that its engine can take is accepted with the next number of its timeline, and one that it cannot waits in WAI while its team goes on (R48, R215, R218, R219, R228, R229). -/
def Claims.CopyInstructions : Prop :=
  (∀ (s : State) (o : CpyOps) (src dst : List (Place × Nat)) (bar : Option ObjLoc × Nat), s.cur.goes o.g →
    s.cur.cleanS ([o.d, o.a, o.b] ++ if o.bar.isSome then [o.c] else []) →
    let d := (s.cur.sval o.d).toNat
    let a := (s.cur.sval o.a).toNat
    let n := (s.cur.sval o.b).toNat
    n ≤ 2 ^ 24 → n % 8 = 0 → d % 8 = 0 → a % 8 = 0 → s.copyRange o.ssp needR a n = .ok src → s.copyRange o.dsp needW d n = .ok dst →
    (o.dsp ≠ .g → ∀ x ∈ dst, s.placeGuarded x.1 x.2 = false) → s.copyBar o.bar o.c = .ok bar →
    let free := decide ((s.chanOps (s.coreOf s.cur.id.gid) o.chan.val).length < 16) && s.accepts
    Completes (.cpy o) s fun t => s.issued t
      ∧ (n = 0 → free = true → t.engs = s.engs)
      ∧ (n ≠ 0 ∨ free = false → ∃ e : EngOp, t.engs = s.engs ++ [e] ∧ e.kind = .cpy o.chan.val ∧ e.team = s.cur.id ∧ e.src = src ∧ e.dst = dst
        ∧ e.total = n ∧ e.fetched = 0 ∧ e.landed = 0 ∧ e.bar = bar.1 ∧ e.out = o.out ∧ e.accepted = free
        ∧ (free = true → e.num = s.tlNext s.cur.id.gid o.chan.val)))
  ∧ (∀ (s : State) (o : CpytOps) (ld : Bool) (i : Instr) (r : Tlr) (m bits : Nat) (us : List EngUnit) (bar : Option ObjLoc × Nat) (x : Group),
    (i = .cpytLd o ∧ ld = true) ∨ (i = .cpytSt o ∧ ld = false) → s.cur.goes o.g → s.myGroup = some x →
    s.cur.cleanS ([o.d] ++ (if o.bar.isSome then [o.b] else []) ++ if o.map then [o.c] else []) →
    (∀ k, k < 3 → (s.cur.sreg (o.a.val + k)).tint = false) →
    let sd := (s.cur.sval o.d).toNat
    let h := (s.cur.sreg o.a.val).val.toNat % 2 ^ 16
    let c0 := (s.cur.sreg (o.a.val + 1)).val.toNat % 2 ^ 32
    let c1 := (s.cur.sreg (o.a.val + 1)).val.toNat / 2 ^ 32
    let w2 := (s.cur.sreg (o.a.val + 2)).val.toNat
    let n0 := w2 % 2 ^ 16
    let n1 := w2 / 2 ^ 16 % 2 ^ 16
    let pitch := w2 / 2 ^ 32
    let map := (s.cur.sval o.c).toNat
    s.cpytTlr h c0 c1 n0 n1 = .ok (r, m, bits) →
    let len := n0 * bits / 8
    let span := (n1 - 1) * pitch + len
    let need := if ld then needR else needW
    let ps := winPieces r m bits c0 c1 n0 n1 pitch
    n1 * len ≠ 0 → sd % 8 = 0 → pitch % 8 = 0 → (1 < n1 → len ≤ pitch) →
    (o.map = true → span ≤ 65536 ∧ map % 16 = 0 ∧ map + 16 ≤ s.spaceSize x .k ∧ (s.maps (s.coreOf s.cur.id.gid)).length < 8) →
    (∃ runs, s.copyRange o.sp (if ld then needW else needR) sd span = .ok runs) →
    (ld = true → ∀ p ∈ ps, s.placeGuarded (.scratch s.cur.id.gid o.sp (sd + p.off)) p.bytes = false) →
    s.firstFail need ps = none → s.pieceSides need o.sp s.cur.id.gid sd ld ps = .ok us → s.copyBar o.bar o.b = .ok bar →
    Completes i s fun t => t.cur = s.cur.passed ∧ t.others = s.others ∧ (o.map = false ∨ s.accepts = false → s.sameBytes t)
      ∧ (∀ p, (Place.scratch s.cur.id.gid .k map).overlaps 16 p 1 = false → t.byteAt p = s.byteAt p)
      ∧ ∃ e : EngOp, t.engs = s.engs ++ [e] ∧ e.kind = (if ld then .cpytLd else .cpytSt) ∧ e.team = s.cur.id
        ∧ e.units = us ∧ e.total = n1 * len ∧ e.bar = bar.1 ∧ e.map = (if o.map then some map else none)
        ∧ e.accepted = s.accepts ∧ (s.accepts = true → e.num = s.tlNext s.cur.id.gid 16) ∧ e.fetched = 0 ∧ e.landed = 0)

/-- A count of `n` bytes is on its way to the barrier of an operation, where that counts them on this side; else no count is new (R208). -/
def Claims.counted (s t : State) (e : EngOp) (out : Bool) (n : Nat) : Prop :=
  (e.out ≠ out ∨ e.bar = none → t.counts = s.counts)
  ∧ ∀ obj, e.out = out → e.bar = some obj → ∃ c, t.counts = s.counts ++ [c] ∧ c.op = e.key ∧ c.obj = obj ∧ c.out = out ∧ c.n = n ∧ c.held = false

/-- A channel reads the next 8 bytes of its oldest unfinished copy, and writes the oldest that it has read, those of earlier copies before them; each is a step of its own, and nothing else in memory changes (R215, R218). -/
def Claims.ChannelMoves : Prop :=
  (∀ (s : State) (e : EngOp) (chan : Nat), s.eng? e.key = some e → e.kind = .cpy chan → e.fetched < e.total →
    ((s.chanOps e.core chan).find? fun x => decide (x.fetched < x.total)) = some e →
    let a := runPlace e.src e.fetched
    a ≠ .nowhere → s.engReadOk e a 8 = true → s.engRoom (runPlace e.dst e.fetched) (8 * e.flight.length + 8) = true →
    (∀ x ∈ s.chanOps e.core chan, ∀ p ∈ x.flying, p.overlaps 8 a 8 = false) →
    Completes (.copyChannelWord ⟨e.key, false⟩) s fun t => s.calm t ∧ Claims.counted s t e true 8
      ∧ t.eng? e.key = some { e with fetched := e.fetched + 8, flight := e.flight ++ [(s.placeRead a 8, s.placePoisoned a 8)] })
  ∧ (∀ (s : State) (e : EngOp) (chan : Nat) (data : List Byte) (rest : List (List Byte × Bool)) (b : Place) (more : List Place),
    s.eng? e.key = some e → e.kind = .cpy chan → e.flight = (data, false) :: rest → e.flying = b :: more → data.length = 8 →
    ((s.chanOps e.core chan).find? fun x => !x.flight.isEmpty) = some e →
    s.engWriteOk e b 8 = true → s.takes b 8 →
    Completes (.copyChannelWord ⟨e.key, true⟩) s fun t => t.placeRead b 8 = data ∧ (∀ p, b.overlaps 8 p 1 = false → t.byteAt p = s.byteAt p)
      ∧ t.cur = s.cur ∧ t.others = s.others ∧ Claims.counted s t e false 8
      ∧ t.eng? e.key = some { e with flight := rest, landed := e.landed + 8 })

/-- The block engine reads and writes its units in any order, a TMOV writing once all its units are read and an overlapped one after those before it: a load takes zero for the bits outside the extents, a store leaves them; and an operation with all its bytes written completes on its timeline (R171, R215, R220, R229). -/
def Claims.BlockMoves : Prop :=
  (∀ (s : State) (e : EngOp) (i : Nat) (u : EngUnit), s.eng? e.key = some e → e.accepted = true → e.kind = .tmov ∨ e.kind = .cpytLd ∨ e.kind = .cpytSt →
    e.units[i]? = some u → u.got = false → s.engReadOk e u.src u.bytes = true → (e.kind = .cpytSt → e.map = none) →
    let reads := fun (data : List Byte) (bad : Bool) => Completes (.blockTransferBytes ⟨e.key, false⟩ i) s fun t =>
      s.calm t ∧ Claims.counted s t e true u.bytes
        ∧ t.eng? e.key = some { e with fetched := e.fetched + u.bytes, units := e.units.set i { u with data, bad, got := true } }
    (e.kind ≠ .tmov → u.mask = 0 → reads (List.replicate u.bytes 0) false)
    ∧ (e.kind = .tmov ∨ (e.kind = .cpytSt ∧ u.mask ≠ 0) → u.src ≠ .nowhere → reads (s.placeRead u.src u.bytes) (s.placePoisoned u.src u.bytes))
    ∧ (e.kind = .cpytLd → u.mask ≠ 0 → u.src ≠ .nowhere →
      reads (leBytes u.bytes (fromBytes (s.placeRead u.src u.bytes) &&& u.mask)) (s.placePoisoned u.src u.bytes)))
  ∧ (∀ (s : State) (e : EngOp) (i : Nat) (u : EngUnit), s.eng? e.key = some e → e.accepted = true → e.units[i]? = some u → u.got = true → u.done = false →
    u.bad = false → u.data.length = u.bytes → s.engWriteOk e u.dst u.bytes = true → s.takes u.dst u.bytes →
    (e.kind = .tmov → e.unitFree i u = true ∧ ∀ v ∈ e.units, v.got = true) →
    let lands := fun (p : State → Prop) => Completes (.blockTransferBytes ⟨e.key, true⟩ i) s fun t => p t
      ∧ t.cur = s.cur ∧ t.others = s.others ∧ Claims.counted s t e false u.bytes
      ∧ t.eng? e.key = some { e with units := e.units.set i { u with done := true }, landed := e.landed + u.bytes }
    let only := fun t : State => ∀ p, u.dst.overlaps u.bytes p 1 = false → t.byteAt p = s.byteAt p
    (e.kind = .tmov ∨ e.kind = .cpytLd → e.map = none → lands fun t => t.placeRead u.dst u.bytes = u.data ∧ only t)
    ∧ (e.kind = .cpytSt → u.mask < 2 ^ (8 * u.bytes) → lands fun t => only t ∧ ∀ j, j < 8 * u.bytes →
      (fromBytes (t.placeRead u.dst u.bytes)).testBit j = if u.mask.testBit j then (fromBytes u.data).testBit j
        else (fromBytes (s.placeRead u.dst u.bytes)).testBit j)
    ∧ (∀ m c, e.kind = .cpytLd → e.map = some m → u.chunk = some c → (s.group? e.team.gid).isSome = true →
      (∀ j v, e.units[j]? = some v → j ≠ i → v.chunk = some c → v.done = true) →
      lands fun t => ∃ y, t.byteAt (.scratch e.team.gid .k (m + c / 8)) = [y] ∧ y.getLsbD (c % 8) = true))
  ∧ (∀ (s : State) (e : EngOp) (x : Group), s.eng? e.key = some e → e.accepted = true → e.kind ≠ .xsend → e.landed = e.total → e.fetched = e.total →
    (∀ c ∈ s.counts, c.op ≠ e.key) → s.group? e.team.gid = some x → (x.tline (engNumber e.kind)).value + 1 = e.num →
    (x.tline (engNumber e.kind)).done = [] →
    Completes (.engineOperationComplete e.key) s fun t => t.eng? e.key = none ∧ s.calm t
      ∧ (t.tline e.team.gid (engNumber e.kind)).value = e.num ∧ (∀ n, n ≠ engNumber e.kind → t.tline e.team.gid n = s.tline e.team.gid n))

/-- CPY and CPYT at their issue, and the engines that move their bytes (R171, R215, R218-R220, R228, R229).
That no operation of a team is accepted before its earlier one in WAI is the model's choice of log 65. -/
def Obligations.Copies : Prop := Claims.CopyInstructions ∧ Claims.ChannelMoves ∧ Claims.BlockMoves

/-- CHTEST, CHWP and TLRD read chunk maps, write pointers and timelines; TLSIG posts a maximum (R214-R217, R230, R231). -/
def Claims.Timelines : Prop :=
  (∀ (s : State) (o : ChtestOps) (x : Group), (s.cur.tguard o.g).val = true → s.cur.cleanS [o.a, o.b] → s.myGroup = some x →
    let m := (s.cur.sval o.a).toNat
    let b := (s.cur.sval o.b).toNat
    m % 16 = 0 → m + 16 ≤ s.spaceSize x .k → s.earlierHit s.cur.id s.cur.seq (.scratch s.cur.id.gid .k m) 16 = false → s.acqHold s.cur.id s.cur.seq = false →
    let bytes := readMap x.k.mem m 16
    ∃ v : Bool, (v = true ↔ ∀ i, b % 128 ≤ i → i ≤ b / 2 ^ 8 % 128 → ∃ y, bytes[i / 8]? = some y ∧ y.getLsbD (i % 8) = true) ∧
      Completes (.chtest o) s fun t => s.wroteQ t o.d.val { val := v, tint := (s.cur.tguard o.g).tint || s.cur.ctlAny })
  ∧ (∀ (s : State) (o : ChwpOps), (s.cur.tguard o.g).val = true → (s.cur.sreg o.a.val).tint = false → s.acqHold s.cur.id s.cur.seq = false →
    let n := (s.cur.sval o.a).toNat
    let tl := s.tline s.cur.id.gid o.chan.val
    let tint := (s.cur.tguard o.g).tint || s.cur.ctlAny
    (n ≤ tl.value ∨ n ∈ tl.done → Completes (.chwp o) s fun t => s.wroteS t o.d.val { val := BitVec.allOnes 64, tint })
    ∧ (∀ e, tl.value < n → n ∉ tl.done → (s.engs.find? fun e => e.team.gid == s.cur.id.gid && e.kind == .cpy o.chan.val && e.accepted && e.num == n) = some e →
      Completes (.chwp o) s fun t => s.wroteS t o.d.val { val := BitVec.ofNat 64 e.landed, tint })
    ∧ (tl.value < n → n ∉ tl.done → (∀ e ∈ s.engs, e.team.gid = s.cur.id.gid → e.kind = .cpy o.chan.val → e.accepted = true → e.num ≠ n) →
      Completes (.chwp o) s fun t => s.wroteS t o.d.val { val := 0, tint }))
  ∧ (∀ (s : State) (o : TlrdOps) (n : Nat), (s.cur.tguard o.g).val = true → (s.cur.sreg o.a.val).tint = false → n < 22 →
    s.acqHold s.cur.id s.cur.seq = false → s.cur.sval o.a = BitVec.ofNat 64 (2 ^ 63 + n) →
    Completes (.tlrd o) s fun t => s.wroteS t o.d.val
      { val := BitVec.ofNat 64 (s.tline s.cur.id.gid n).value, tint := (s.cur.tguard o.g).tint || s.cur.ctlAny })
  ∧ (∀ (s : State) (o : TlrdOps) (p : Nat), (s.cur.tguard o.g).val = true → (s.cur.sreg o.a.val).tint = false → s.quiet → s.numbered →
    let va := (s.cur.sval o.a).toNat
    va < 2 ^ 57 → va % 8 = 0 → s.locateRange .g needR va (pagesIn 8) 8 = .ok [(.phys p, 8)] → s.poisoned p 8 = false →
    Completes (.tlrd o) s fun t => t.cur.sreg o.d.val = { val := s.physWord p, tint := (s.cur.tguard o.g).tint || s.cur.ctlAny }
      ∧ s.cur.sameS t.cur o.d.val ∧ t.cur = { s.cur.passed with s := t.cur.s } ∧ t.loads = s.loads ∧ s.sameBytes t)
  ∧ (∀ (s : State) (o : TlsigOps) (x : Xlat), s.cur.goes o.g → s.cur.cleanS [o.a, o.b] →
    let va := (s.cur.sval o.a).toNat
    va < 2 ^ 57 → va % 8 = 0 → s.locate .g needW va 8 = .ok x →
    Completes (.tlsig o) s fun t => s.issued t ∧ ∃ q : Post, t.posts = s.posts ++ [q] ∧ q.team = s.cur.id ∧ q.accepted = s.accepts
      ∧ q.rel = (if o.rel then some o.scope else none)
      ∧ q.writes = [{ place := x.place, va, data := leBytes 8 (s.cur.sval o.b).toNat, red := some .max, done := false }])

/-- Under a false guard BTEST, CHTEST, CHWP and TLRD read nothing: the destination keeps its value, which a tinted guard tints (R57).
That R57 and not R233's false result holds there is the reading of log 47. -/
def Claims.GuardedOff : Prop :=
  ∀ (s : State) (g : TeamGuard), (s.cur.tguard g).val = false →
    let q := fun (d : Fin 4) => PCell.mk (s.cur.qreg d.val).val ((s.cur.qreg d.val).tint || (s.cur.tguard g).tint)
    let r := fun (d : Fin 64) => SCell.mk (s.cur.sreg d.val).val ((s.cur.sreg d.val).tint || (s.cur.tguard g).tint)
    (∀ ob d a b, Completes (.btest ⟨g, ob, d, a, b⟩) s fun t => s.wroteQ t d.val (q d))
    ∧ (∀ d a b, Completes (.chtest ⟨g, d, a, b⟩) s fun t => s.wroteQ t d.val (q d))
    ∧ (∀ c d a, Completes (.chwp ⟨g, c, d, a⟩) s fun t => s.wroteS t d.val (r d))
    ∧ (∀ acq sc d a, Completes (.tlrd ⟨g, acq, sc, d, a⟩) s fun t => s.wroteS t d.val (r d))

/-- FENCE is complete once every earlier access of its team is performed at its scope; until then it stays open while its team goes on, and stands before the later accesses, as an acquire, a release or both (R232). -/
def Claims.Fences : Prop :=
  ∀ (s : State) (o : FenceOps), s.cur.goes o.g → s.tintAny = false → (∀ ld ∈ s.loads, ld.team = s.cur.id → ld.written = false ∨ ld.limit = 0 ∨ ld.kind = .pref) →
    (s.fenceDone s.cur.id s.cur.seq o.scope = true → exec (.fence o) s = .next s.advance)
    ∧ (s.fenceDone s.cur.id s.cur.seq o.scope = false →
      Completes (.fence o) s fun t => s.onlyCur t ∧ s.sameBytes t ∧ t.cur = { s.cur.passed with fences := t.cur.fences }
        ∧ { seq := s.cur.seq, scope := o.scope, acq := o.acq, rel := o.rel } ∈ t.cur.fences
        ∧ ∀ f ∈ s.cur.fences, s.fenceDone s.cur.id f.seq f.scope = false → f ∈ t.cur.fences)

/-- Chunk maps, timelines and FENCE, and their guards (R57, R214-R217, R230-R232).
That no operation of a team is accepted before its earlier one in WAI is the model's choice of log 65, and the result under a false tinted guard the reading of log 47. -/
def Obligations.TimelinesAndFences : Prop := Claims.Timelines ∧ Claims.GuardedOff ∧ Claims.Fences

/-! ### Combiner objects -/

/-- CREG registers an object whose descriptor and ranges hold, or is refused with the reason in the record; CDREG frees a registration; outside a method CREP is illegal, in one it gives the replies of its lanes (R333, R337-R339, R343, R348-R350). -/
def Obligations.CombinerRegistration : Prop :=
  (∀ (s : State) (o : CregOps) (p rp : Nat) (runs code : List (Place × Nat)), s.cur.goes o.g → s.cur.ctlAny = false → s.cur.cleanS [o.a] →
    s.quiet → s.numbered → s.tlbsTrue →
    let a := (s.cur.sval o.a).toNat
    a % 64 = 0 → s.locateRange .g needR a (pagesIn 64) 64 = .ok [(.phys p, 64)] → s.poisoned p 64 = false →
    let d := regDesc ((List.range 8).map fun i => (s.physWord (p + 8 * i)).toNat)
    s.locateRange .g needRW d.base (pagesIn d.size) d.size = .ok runs → s.locateRange .g needX d.method (pagesIn 8) 8 = .ok code →
    s.locateRange .g needW d.record (pagesIn 64) 64 = .ok [(.phys rp, 64)] → s.rejects (.phys rp) 64 = false →
    ∀ ph, runPlace runs 0 = .phys ph → rp + 64 ≤ ph ∨ ph + d.size ≤ rp →
    let why := s.regWhy d ph (s.coMsu ph)
    (why = 0 → Completes (.creg o) s fun t => t.cur.qreg o.d.val = { val := true, tint := false } ∧ t.physWord rp = 1
      ∧ (∀ q, (Place.phys rp).overlaps 64 q 1 = false → t.byteAt q = s.byteAt q) ∧ t.cur.s = s.cur.s ∧ t.cur.v = s.cur.v
      ∧ ∃ r, t.combRegs = s.combRegs ++ [r] ∧ r.msu = s.coMsu ph ∧ r.ctx = s.ctxOf s.cur ∧ r.base = d.base ∧ r.size = d.size ∧ r.phys = ph
        ∧ r.method = d.method ∧ r.gwin = d.gwin ∧ r.regs = d.regs ∧ r.record = .phys rp ∧ r.state = .live ∧ r.commits = 0)
    ∧ (why ≠ 0 → Completes (.creg o) s fun t => t.cur.qreg o.d.val = { val := false, tint := false } ∧ t.combRegs = s.combRegs
      ∧ t.physWord rp = 0x4F03 ∧ t.physWord (rp + 8) = BitVec.ofNat 64 why
      ∧ ∀ q, (Place.phys rp).overlaps 64 q 1 = false → t.byteAt q = s.byteAt q))
  ∧ (∀ (s : State) (o : CregOps) (x : Xlat), s.cur.goes o.g → s.cur.ctlAny = false → s.cur.cleanS [o.a] →
    let a := (s.cur.sval o.a).toNat
    let mine := fun r : CombReg => r.ctx == s.ctxOf s.cur && r.base == a && r.state != .draining
    a % 256 = 0 → s.locate .g needW a 1 = .ok x →
    (s.combRegs.find? mine = none → Completes (.cdreg o) s fun t => s.wroteQ t o.d.val { val := false, tint := false })
    ∧ (∀ r, s.combRegs.find? mine = some r → (∀ z ∈ s.combRegs, z.key = r.key → z = r) →
      Completes (.cdreg o) s fun t => t.cur.qreg o.d.val = { val := true, tint := false } ∧ s.cur.sameQ t.cur o.d.val
        ∧ (r.state = .broken ∨ s.regBusy r = false → ∀ z ∈ t.combRegs, z.key ≠ r.key)
        ∧ (r.state = .live → s.regBusy r = true → { r with state := .draining } ∈ t.combRegs)
        ∧ ∀ z ∈ s.combRegs, z.key ≠ r.key → z ∈ t.combRegs))
  ∧ (∀ (s : State) (o : CrepOps), s.cur.method = none → Traps (.crep o) s (Trap.illegal 7 0))
  ∧ (∀ (s : State) (o : CrepOps) (m : MethodCtx), s.cur.method = some m → s.cur.goes o.g → s.cur.ctlAny = false →
    Completes (.crep o) s fun t => s.onlyCur t ∧ ∃ n, t.cur = { s.cur.passed with method := some n } ∧ n = { m with replies := n.replies }
      ∧ ∀ L, L < s.cur.lanes → (s.cur.mask.getLsbD L = true → n.replies.get 0 L = BitVec.ofNat 64 (s.cur.group o.a.val 2 L))
        ∧ (s.cur.mask.getLsbD L = false → n.replies.get 0 L = m.replies.get 0 L))

/-- COMB sends one request for each active lane to the home of its address, and takes its number; the replies are written, pair and status, once every lane has one (R340, R347). -/
def Claims.CombinerRequests : Prop :=
  (∀ (s : State) (o : CombOps) (pl : Nat → Nat), s.cur.clean o.g → s.cur.ctlAny = false → s.cur.cleanAddr o.g o.addr → s.cur.cleanData o.g o.c.val 2 →
    (∀ L ∈ s.cur.activeLanes o.g, s.combLane (s.cur.memAddr o.addr L).1 = .ok (.phys (pl L))) →
    (s.cur.activeLanes o.g = [] → Completes (.comb o) s fun t => s.issued t ∧ t.combs = s.combs ∧ t.combPackets = s.combPackets)
    ∧ (s.cur.activeLanes o.g ≠ [] → Completes (.comb o) s fun t => s.issued t ∧ ∃ c : Comb, t.combs = s.combs ++ [c] ∧ c.key = s.nextKey
      ∧ c.team = s.cur.id ∧ c.d = o.d.val ∧ c.status = o.status.val ∧ c.lanes = s.cur.activeLanes o.g ∧ c.replies = []
      ∧ c.num = s.tlNext s.cur.id.gid 20
      ∧ ∀ L ∈ s.cur.activeLanes o.g, ∃ p ∈ t.combPackets, ∃ q ∈ p.reqs, p.team = s.cur.id ∧ p.comb = c.key ∧ p.msu = s.coMsu (pl L)
        ∧ q.comb = c.key ∧ q.lane = L ∧ q.va = (s.cur.memAddr o.addr L).1 ∧ q.phys = pl L
        ∧ q.arg = BitVec.ofNat 64 (s.cur.group o.c.val 2 L) ∧ q.ctx = s.ctxOf s.cur))
  ∧ (∀ (s : State) (c : Comb), s.combs.find? (fun x => x.key == c.key) = some c → c.team = s.cur.id → c.redirected = false →
    c.lanes.Nodup → (∀ L ∈ c.lanes, L < 1024 ∧ ∃ p ∈ c.replies, p.1 = L) →
    Completes (.combinerReplyWrite c.key) s fun t => t.combs = s.combs.filter (fun x => x.key != c.key) ∧ s.sameBytes t
      ∧ (∀ L ∈ c.lanes, let r := c.replies.get (0, false) L
        t.cur.vreg c.d L = { val := BitVec.ofNat 32 r.1.toNat, tint := false }
        ∧ t.cur.vreg (c.d + 1) L = { val := BitVec.ofNat 32 (r.1.toNat / 2 ^ 32), tint := false }
        ∧ (c.status ≠ 0 → t.cur.preg c.status L = { val := r.2, tint := false }))
      ∧ (∀ q L, L < 1024 → ((q ≠ c.d ∧ q ≠ c.d + 1) ∨ L ∉ c.lanes) → t.cur.vreg q L = s.cur.vreg q L)
      ∧ t.cur = { s.cur with v := t.cur.v, p := t.cur.p })

/-- A packet enters the queue of its home; requests outside a registration get a failure; the home forms a skein whose method team holds the requests in its lanes; a write that falls on a registered object is reported, and its bytes there are not written (R335, R339-R342). -/
def Claims.CombinerHomes : Prop :=
  (∀ (s : State) (p : CombPacket), s.combPackets.find? (fun q => q.key == p.key) = some p →
    (∀ q ∈ s.combPackets, q.team = p.team → q.msu = p.msu → p.seq ≤ q.seq) →
    (∀ q ∈ s.combPackets, q.comb = p.comb → q.msu = p.msu → p.key ≤ q.key) →
    (s.msuAt p.msu).queue.length + p.reqs.length ≤ 256 → relDone s p.team p.seq (some .pkg) = true → s.acqHold p.team p.seq = false →
    let covers := fun (q : CombReq) (r : CombReg) => r.ctx == q.ctx && decide (r.base ≤ q.va) && decide (q.va < r.base + r.size)
    (∀ r, r.state = .live → (∀ q ∈ p.reqs, s.combRegs.find? (covers q) = some r) →
      Completes (.combinerRequestArrival p.key) s fun t => s.calm t ∧ t.combPackets = s.combPackets.filter (fun q => q.key != p.key)
        ∧ (t.msuAt p.msu).queue = (s.msuAt p.msu).queue ++ p.reqs.map fun q => { q with reg := r.key, at_ := 2 * s.clk })
    ∧ (∀ q, p.reqs = [q] → s.combRegs.find? (covers q) = none →
      Completes (.combinerRequestArrival p.key) s fun t => s.calm t ∧ t.msus = s.msus
        ∧ ∀ c ∈ t.combs, c.key = q.comb → c.replies.get (0, false) q.lane = (0xFFFFFFFF00000048, true)))
  ∧ (∀ (s : State) (msu : Nat) (q0 : CombReq) (r : CombReg), (s.msuAt msu).skein = none →
    (s.msuAt msu).queue.find? (fun q => s.combRegs.any fun r => r.key == q.reg && s.qualifies r) = some q0 →
    s.combRegs.find? (fun r => r.key == q0.reg) = some r →
    let take := ((s.msuAt msu).queue.filter fun q => q.reg == r.key).take 32
    Completes (.skeinForm msu) s fun t => s.sameBytes t ∧ t.cur = s.cur
      ∧ (t.msuAt msu).skein = some { reg := r.key, reqs := take, start := 2 * s.clk }
      ∧ (t.msuAt msu).queue = (s.msuAt msu).queue.filter (fun q => !take.contains q)
      ∧ ∃ u : Team, t.others = s.others ++ [u] ∧ u.id = { gid := 0, idx := r.msu } ∧ u.mode = .method ∧ u.state = .active ∧ u.lanes = 32
        ∧ u.pc = BitVec.ofNat 64 r.method ∧ u.regs = r.regs
        ∧ (u.sreg 0).val = BitVec.ofNat 64 r.base ∧ (u.sreg 1).val = BitVec.ofNat 64 r.size ∧ (u.sreg 2).val = BitVec.ofNat 64 take.length
        ∧ (u.sreg 3).val = BitVec.ofNat 64 r.commits
        ∧ ∀ (i : Nat) (q : CombReq), take[i]? = some q → u.mask.getLsbD i = true
          ∧ u.vreg 0 i = { val := BitVec.ofNat 32 q.arg.toNat, tint := false }
          ∧ u.vreg 1 i = { val := BitVec.ofNat 32 (q.arg.toNat / 2 ^ 32), tint := false }
          ∧ u.vreg 2 i = { val := BitVec.ofNat 32 (q.va - r.base), tint := false }
          ∧ u.vreg 3 i = { val := BitVec.ofNat 32 q.origin, tint := false })
  ∧ (∀ (s : State) (q : Post) (i a : Nat) (w : PostWrite), s.post? q.key = some q → q.writes[i]? = some w → w.done = false → q.told = false → w.place = .phys a →
    (s.regOver a w.data.length).isSome = true → s.writeOk q i w = true →
    (∀ j v, j < i → q.writes[j]? = some v → v.done = true) →
    Completes (.combinerGuardReject q.key) s fun t => t.cur = s.cur ∧ t.others = s.others
      ∧ (∃ r ∈ t.reports, r.kind = 0x02 ∧ r.cause = 0x41 ∧ r.addr = w.va)
      ∧ (∀ p, w.place.overlaps w.data.length p 1 = false → t.byteAt p = s.byteAt p)
      ∧ (∀ b, a ≤ b → b < a + w.data.length → (s.regOver b 1).isSome = true → t.byte b = s.byte b)
      ∧ (w.red = none → ∀ i x, w.data[i]? = some x → s.regOver (a + i) 1 = none → s.guarded (a + i) 1 = false → t.byte (a + i) = x)
      ∧ (w.red ≠ none → s.sameBytes t)
      ∧ ∃ x, t.post? q.key = some x ∧ x.writes = q.writes.set i { w with done := true })

/-- COMB from its issue to its replies, and what a home does with a request (R335, R339-R342, R347). -/
def Obligations.CombinerRequests : Prop := Claims.CombinerRequests ∧ Claims.CombinerHomes

/-- A method that returns commits its stores and gives its replies; one that fails writes nothing, gives its requests the cause and breaks its object (R339, R343, R344). -/
def Obligations.CombinerMethods : Prop :=
  (∀ (s : State) (msu : Nat) (k : Skein) (u : Team) (m : MethodCtx), (s.msuAt msu).skein = some k → s.team? { gid := 0, idx := msu } = some u →
    u.method = some m → u.state = .exiting → m.failed = none → SMap.wf none m.stores = true →
    (k.reqs.map fun q => (q.comb, q.lane)).Nodup →
    (∀ r ∈ s.combRegs, r.key = k.reg → ∃ rp, r.record = .phys rp ∧ (rp + 64 ≤ m.phys ∨ m.phys + m.size ≤ rp)) →
    Completes (.methodReturn msu) s fun t => (t.msuAt msu).skein = none
      ∧ (∀ off b, off < m.size → m.stores.get none off = some b → t.byte (m.phys + off) = b)
      ∧ (∀ (i : Nat) (q : CombReq), k.reqs[i]? = some q → ∀ c ∈ t.combs, c.key = q.comb → c.replies.get (0, false) q.lane = (m.replies.get 0 i, false))
      ∧ (s.cur.id ≠ u.id → t.cur = s.cur ∧ ∀ v ∈ t.others, v.id ≠ u.id))
  ∧ (∀ (s : State) (msu cause : Nat) (k : Skein) (i : Instr) (r : CombReg), (s.msuAt msu).skein = some k →
    (i = .methodFault msu ∧ ∃ m f, (s.team? { gid := 0, idx := msu }).bind Team.method = some m ∧ m.failed = some f ∧ f.cause = cause)
      ∨ (i = .methodTimeout msu ∧ cause = 0x4D ∧ k.start + 1048576 ≤ 2 * s.clk) →
    (k.reqs.map fun q => (q.comb, q.lane)).Nodup → (∀ q ∈ (s.msuAt msu).queue, ∀ p ∈ k.reqs, q.comb ≠ p.comb ∨ q.lane ≠ p.lane) →
    s.combRegs.find? (fun x => x.key == k.reg) = some r → r.state = .live →
    Completes i s fun t => (t.msuAt msu).skein = none
      ∧ (∀ p, r.record.overlaps 64 p 1 = false → t.byteAt p = s.byteAt p)
      ∧ (∀ q ∈ k.reqs, ∀ c ∈ t.combs, c.key = q.comb → c.replies.get (0, false) q.lane = (BitVec.ofNat 64 (0xFFFFFFFF00000000 + cause), true))
      ∧ (∃ x ∈ t.combRegs, x.key = k.reg ∧ x.state = .broken ∧ x.cause = cause)
      ∧ (∀ q ∈ (t.msuAt msu).queue, q.reg ≠ r.key))

/-! ### The pod fabric -/

/-- XFETCH and XATOM leave a remote access in flight, XATOM.nr, XSIG and XSEND post one, which waits in WAI where it cannot be accepted at once; no register and no local byte changes at their issue. One without an active lane has nothing to wait for (R48, R366-R371).
That no operation of a team is accepted before its earlier one in WAI is the model's choice of log 65. -/
def Obligations.FabricInstructions : Prop :=
  (∀ (s : State) (o : XfetchOps) (pl : Nat → Place), s.cur.cleanAddr o.g o.addr → s.reaches o.g .g needR o.w o.addr pl →
    (∀ L ∈ s.cur.activeLanes o.g, (pl L).isPeer = true) → (s.cur.sys.gdrill = false ∨ o.limit.val = 0) →
    (s.cur.activeLanes o.g = [] → s.numbered → s.cur.id.gid ≠ 0 → Completes (.xfetch o) s fun t => ∃ u,
      s.wroteV u o.g o.d.val o.w.regs (fun _ => (0, false)) 0 ∧ t = { u with nextKey := s.nextKey + 1 })
    ∧ (s.cur.activeLanes o.g ≠ [] → Completes (.xfetch o) s fun t => s.issued t ∧ ∃ ld : Load, t.loads = s.loads ++ [ld] ∧ ld.team = s.cur.id ∧ ld.kind = .load ∧ ld.w = o.w
      ∧ ld.signed = o.signed ∧ ld.d = o.d.val ∧ ld.limit = o.limit.val ∧ ld.acq = (if o.acq then some .pod else none) ∧ ld.relaxed = o.rlx
      ∧ (ld.lanes.map fun l => (l.lane, l.addr, l.place, l.st))
        = (s.cur.activeLanes o.g).map (fun L => (L, (s.cur.memAddr o.addr L).1, pl L, LaneSt.waiting))))
  ∧ (∀ (s : State) (o : XatomOps) (pl : Nat → Place), s.cur.clean o.g → s.cur.cleanAddr o.g o.addr →
    s.cur.cleanData o.g o.c.val (atomRegs o.w o.op) → s.reaches o.g .g needRW o.w o.addr pl → (∀ L ∈ s.cur.activeLanes o.g, (pl L).isPeer = true) →
    (s.cur.activeLanes o.g = [] → exec (.xatomNr o) s = .next s.advance
      ∧ (s.numbered → s.cur.id.gid ≠ 0 → Completes (.xatom o) s fun t => t.cur = { s.cur.passed with v := t.cur.v } ∧ s.sameBytes t
        ∧ ∀ r L, L < 1024 → t.cur.vreg r L = s.cur.vreg r L))
    ∧ (s.cur.activeLanes o.g ≠ [] → Completes (.xatom o) s fun t => s.issued t ∧ ∃ ld : Load, t.loads = s.loads ++ [ld] ∧ ld.team = s.cur.id ∧ ld.kind = .atom o.op
      ∧ ld.d = o.d.val ∧ ld.acq = (if o.ord = .acq ∨ o.ord = .acqrel then some .pod else none)
      ∧ ld.rel = (if o.ord = .rel ∨ o.ord = .acqrel then some .pod else none)
      ∧ (ld.lanes.map fun l => (l.lane, l.place, l.st, l.x, l.c))
        = (s.cur.activeLanes o.g).map (fun L => (L, pl L, LaneSt.waiting, (s.cur.atomOps o.w o.op o.c.val L).1, (s.cur.atomOps o.w o.op o.c.val L).2)))
    ∧ (s.cur.activeLanes o.g ≠ [] →
      Completes (.xatomNr o) s fun t => s.issued t ∧ ∃ q : Post, t.posts = s.posts ++ [q] ∧ q.team = s.cur.id ∧ q.signed = o.signed
        ∧ q.accepted = s.accepts ∧ q.relaxed = o.rlx
        ∧ q.rel = (if o.ord = .rel ∨ o.ord = .acqrel then some .pod else none)
        ∧ q.writes = (s.cur.activeLanes o.g).map (fun L => PostWrite.mk (pl L) (s.cur.memAddr o.addr L).1
            (leBytes o.w.bytes (s.cur.atomOps o.w o.op o.c.val L).1) (some o.op) false)))
  ∧ (∀ (s : State) (o : XsigOps) (r pa : Nat) (x : Xlat), s.cur.goes o.g → s.cur.cleanS [o.a, o.b] →
    let a := (s.cur.sval o.a).toNat
    a % (if o.op = .cnt then 16 else 8) = 0 → s.locate .g needRW a 8 = .ok x → x.place = .peer r pa →
    (o.op = .cnt → (s.cur.sval o.b).toNat < 2 ^ 32) →
    Completes (.xsig o) s fun t => s.issued t ∧ ∃ q : Post, t.posts = s.posts ++ [q] ∧ q.team = s.cur.id ∧ q.accepted = s.accepts
      ∧ (s.accepts = true → q.num = some (19, s.tlNext s.cur.id.gid 19)) ∧ q.rel = (if o.rel then some .pod else none) ∧ q.relaxed = o.rlx
      ∧ q.writes = [{ place := .peer r pa, va := a, data := leBytes 8 (s.cur.sval o.b).toNat, red := none, done := false }]
      ∧ q.sig = some (o.op, if o.ordf then some ((List.range 16).map fun i => s.pathSeq.get 0 (16 * r + i)) else none))
  ∧ (∀ (s : State) (o : XsendOps) (src dst rest : List (Place × Nat)) (r pa n0 path : Nat) (bar : Option ObjLoc × Nat), s.cur.goes o.g →
    s.cur.cleanS ([o.d, o.a, o.b] ++ if o.bar then [o.c] else []) →
    let d := (s.cur.sval o.d).toNat
    let a := (s.cur.sval o.a).toNat
    let n := (s.cur.sval o.b).toNat
    a % 8 = 0 → d % 8 = 0 → n ≤ 2 ^ 24 → n % 8 = 0 → n ≠ 0 → s.sendRuns true none a (pagesIn n) n = .ok src →
    s.sendRuns false none d (pagesIn n) n = .ok dst → dst = (.peer r pa, n0) :: rest → s.sendBar o r = .ok bar → s.viaOk o.path r = true → s.sendPath o.path r = path →
    Completes (.xsend o) s fun t => s.issued t ∧ ∃ e : EngOp, t.engs = s.engs ++ [e] ∧ e.kind = .xsend ∧ e.team = s.cur.id ∧ e.src = src ∧ e.dst = dst
      ∧ e.total = n ∧ e.tgt = r ∧ e.by_ = o.path ∧ e.bar = bar.1 ∧ e.accepted = s.accepts
      ∧ (s.accepts = true → e.num = s.tlNext s.cur.id.gid 19 ∧ e.path = path ∧ e.offset = s.pathSeq.get 0 (16 * r + path)
        ∧ t.pathSeq.get 0 (16 * r + path) = e.offset + n)
      ∧ (s.accepts = false → t.pathSeq = s.pathSeq))

/-- The ports and the routes: each event leaves its port in the state the spec gives it, and every row of the route table at what the links give (R351-R357). -/
def Obligations.PortsAndRoutes : Prop :=
  ∀ (s : State) (p : Nat), p < 16 → (s.cabled p).isSome = true →
    let x := s.portAt p
    let move := fun (same : Port → Port → Prop) (i : Instr) (st : PortState) (lanes : Nat) => Completes i s fun t => (t.portAt p).state = st
      ∧ (t.portAt p).lanes = lanes ∧ (∀ q, q ≠ p → same (s.portAt q) (t.portAt q))
      ∧ (∀ r, r < t.podSize → r ≠ t.rank → t.route.get 16 r = t.row r) ∧ t.cur.v = s.cur.v ∧ t.cur.s = s.cur.s
    let moves := move Eq
    let trains := fun inc => move fun a b => b = { a with pinc := if b.pinc = a.pinc then a.pinc else inc % 256 }
    let inTime := s.clk < x.since + 94000000
    (x.state = .down ∨ x.state = .failed → moves (.portEnable p true) .training 0) ∧ moves (.portEnable p false) .down 0
    ∧ (∀ lanes inc, x.state = .training →
      (lanes < 8 ∨ ¬ inTime → moves (.linkTrainingResult p lanes inc) .detoured 0)
      ∧ (8 ≤ lanes → lanes < 16 → inTime → trains inc (.linkTrainingResult p lanes inc) .degraded 8)
      ∧ (16 ≤ lanes → inTime → trains inc (.linkTrainingResult p lanes inc) .trained 16)
      ∧ (16 ≤ lanes → inTime → Completes (.linkTrainingResult p lanes inc) s fun t => ∀ r, s.cabled p = some r → t.override.get none r = none)
      ∧ (8 ≤ lanes → inTime → Completes (.linkTrainingResult p lanes inc) s fun t => ∀ q, q < 16 → s.cabled q = s.cabled p → (t.portAt q).pinc = inc % 256))
    ∧ (x.state = .trained ∨ x.state = .degraded → moves (.linkError p .crc) .training 0 ∧ moves (.linkError p .eye) .training 0
      ∧ Completes (.flitReplay p) s fun t => t = { s with ports := t.ports } ∧ (t.portAt p).replays = min (x.replays + 1) (2 ^ 32 - 1)
        ∧ (t.portAt p).state = x.state)
    ∧ (∀ left, (x.state = .trained → moves (.linkError p (.laneLost left)) .degraded 8)
      ∧ (x.state = .degraded → left < 8 → moves (.linkError p (.laneLost left)) .detoured 0))
    ∧ (x.state = .detoured → x.lanes = 0 → (8 ≤ x.tries → moves (.detourRetry p) .failed 0
        ∧ (ErrUnit.port p ∉ s.harvest → Completes (.detourRetry p) s fun t => t.harvest = s.harvest ++ [.port p] ∧ t.msix.get 0 2 = s.msix.get 0 2 + 1))
      ∧ (x.tries < 8 → x.since + 940000000 ≤ s.clk → moves (.detourRetry p) .training 0))
    ∧ (∀ tgt links force, tgt < s.podSize → tgt ≠ s.rank → Completes (.routeChange tgt links force) s fun t => s.calm t ∧ t.peerLinks = links
      ∧ t.override.get none tgt = force ∧ t.ports = s.ports ∧ ∀ r, r < t.podSize → r ≠ t.rank → t.route.get 16 r = t.row r)

/-- A package learns incarnations, counts and drops stale packets, keeps its aperture table, and performs a posted packet whose bytes are allowed, after its team's earlier posted bytes on its path; one that is denied or stale leaves every byte as it was (R255, R359-R362, R364).
That the first incarnation learned of a rank loses nothing is the reading of log 28, and how a packet shows its team's earlier bytes that of log 105. -/
def Claims.FabricTarget : Prop :=
  (∀ (s : State) (r inc : Nat), r < s.podSize → r ≠ s.rank →
    (s.peerInc.get none r = none → Completes (.incarnationLearned r inc) s fun t => t.peerInc.get none r = some (inc % 256)
      ∧ (∀ q, q < 16 → t.portAt q = if s.cabled q = some r then { s.portAt q with pinc := inc % 256 } else s.portAt q)
      ∧ t = { s with peerInc := t.peerInc, ports := t.ports })
    ∧ (∀ old, s.peerInc.get none r = some old → old ≠ inc % 256 → Completes (.incarnationLearned r inc) s fun t =>
      t.peerInc.get none r = some (inc % 256) ∧ (∀ path, path < 16 → t.pathSeq.get 0 (16 * r + path) = 0 ∧ t.landed.get 0 (16 * r + path) = 0)
      ∧ (∀ h ∈ t.holds, h.tgt ≠ r) ∧ (∀ b ∈ t.binds, b.owner ≠ r) ∧ (∀ h ∈ t.heldSignals, h.src ≠ r)))
  ∧ (∀ (s : State) (port : Nat) (p : Packet), port < 16 → s.fresh p = false → Completes (.stalePacketDrop port p) s fun t =>
    (t.portAt port).stale = min ((s.portAt port).stale + 1) 255 ∧ t = { s with ports := t.ports })
  ∧ (∀ (s : State) (i : Nat) (e : Option Aperture), i < 64 → Completes (.apertureTableWrite i e) s fun t =>
    t.apertures.get none i = e ∧ (∀ j, j ≠ i → t.apertures.get none j = s.apertures.get none j) ∧ t = { s with apertures := t.apertures })
  ∧ (∀ (s : State) (p : Packet) (a : Nat) (bs : List Byte), 6 ≤ s.stage → p.tgt = s.rank → p.src ≠ s.rank → p.src < s.podSize →
    p.body = .posted a bs →
    (s.fresh p = false → Completes (.fabricPacketArrival p) s fun t => s.calm t)
    ∧ (s.fresh p = true → p.relaxed = false → (∃ r ∈ p.after, s.landed.get 0 (16 * p.src + p.path) < r.2 ∧ s.landedMore = []) →
      exec (.fabricPacketArrival p) s = .next s)
    ∧ (s.fresh p = true → s.packetRoom p = true → s.heldSignals = [] →
      (s.allowed p.src a bs.length true = false → Completes (.fabricPacketArrival p) s fun t => s.calm t)
      ∧ (s.allowed p.src a bs.length true = true → s.regOver a bs.length = none → s.guarded a bs.length = false →
        Completes (.fabricPacketArrival p) s fun t => t.physRead a bs.length = bs ∧ t.cur = s.cur ∧ t.others = s.others
          ∧ ∀ q, (Place.phys a).overlaps bs.length q 1 = false → t.byteAt q = s.byteAt q)))

/-- What comes back to a source: a dropped range of an XSEND waits for a grant, a grant opens at its start and lapses after 8,192 cycles, an acknowledgement counts bytes off and the last one completes the operation; denied bytes are reported (R358-R360, R364, R367). -/
def Claims.FabricSource : Prop :=
  ∀ (s : State) (e : EngOp), s.eng? e.key = some e → e.kind = .xsend →
    (∀ lo n, n ≠ 0 → lo + n ≤ e.total → meets lo (lo + n) e.acked = false → s.rangeSent e lo (lo + n) = true →
      (meets lo (lo + n) e.dropped = false → Completes (.dropNotice e.key lo n) s fun t =>
        t.eng? e.key = some { e with dropped := (lo, lo + n) :: e.dropped } ∧ t = { s with engs := t.engs })
      ∧ (s.grantOpen e lo (lo + n) = true → rangeSum e.acked + n < e.total → Completes (.fabricAck e.key lo n false) s fun t => s.calm t
        ∧ ∃ x, t.eng? e.key = some x ∧ x.acked = (lo, lo + n) :: e.acked ∧ x.landed = e.landed + n)
      ∧ (s.grantOpen e lo (lo + n) = true → rangeSum e.acked + n = e.total → Completes (.fabricAck e.key lo n false) s fun t => s.calm t
        ∧ t.eng? e.key = none)
      ∧ (s.grantOpen e lo (lo + n) = true → Completes (.fabricAck e.key lo n true) s fun t => s.calm t
        ∧ ∃ r ∈ t.reports, r.kind = 0x07 ∧ r.cause = 0x53 ∧ r.addr = e.va + lo ∧ r.ctx = e.ctx))
    ∧ (∀ start budget, e.dropped ≠ [] → e.grant = none → budget ≤ rangeSum e.dropped → Completes (.reservationGrant e.key start budget) s fun t =>
      t.eng? e.key = some { e with grant := some (s.clk + 16 * start, budget) } ∧ t = { s with engs := t.engs })
    ∧ (∀ start budget, e.grant = some (start, budget) → start + 8192 ≤ s.clk → Completes (.grantWindowExpiry e.key) s fun t =>
      t.eng? e.key = some { e with grant := none } ∧ t = { s with engs := t.engs })

/-- What a target and a source of fabric operations do with what arrives (R255, R358-R362, R364, R367).
That the first incarnation learned of a rank loses nothing is the reading of log 28, and how a packet shows its team's earlier bytes that of log 105. -/
def Obligations.FabricOperations : Prop := Claims.FabricTarget ∧ Claims.FabricSource

/-! ### System instructions and clauses -/

/-- SRD reads a system register into a scalar or into every lane of the mask, and SWR writes one under its access; either waits at $nstat for the flags of the team's queued MRDA (R40, R274, R278, R283).
That SWR to $flanes and $fopnd changes nothing and does not trap is the reading of log 41. -/
def Obligations.SystemRegisters : Prop :=
  (∀ (s : State) (g : TeamGuard) (n : Byte), (s.cur.tguard g).val = true → sysNum n.toNat = true → s.flagsDue n.toNat = false →
    (∀ d, 1 < n.toNat → Completes (.srd ⟨g, .s d, n⟩) s fun t => s.wroteS t d.val { val := s.sysReg n.toNat, tint := (s.cur.tguard g).tint || s.cur.ctlAny })
    ∧ (∀ d, n.toNat ≤ 1 → Traps (.srd ⟨g, .s d, n⟩) s (Trap.illegal 2 n.toNat))
    ∧ (∀ d, Completes (.srd ⟨g, .v d, n⟩) s fun t =>
      (∀ L, L < s.cur.lanes → L < 1024 → t.cur.vreg d.val L = if s.cur.mask.getLsbD L then
          { val := if n.toNat = 0 then BitVec.ofNat 32 L else if n.toNat = 1 then BitVec.ofNat 32 (L / 32) else (s.sysReg n.toNat).setWidth 32,
            tint := (s.cur.tguard g).tint || s.cur.ctl.getLsbD L }
        else s.cur.vreg d.val L)
      ∧ s.cur.sameV t.cur d.val 1 ∧ t.cur = { s.cur.passed with v := t.cur.v } ∧ s.onlyCurLoads t d.val 1 (s.cur.laneList.filter fun L => s.cur.mask.getLsbD L) ∧ s.sameBytes t))
  ∧ (∀ (s : State) (o : SrdOps), (s.cur.tguard o.g).val = true → sysNum o.n.toNat = true → s.flagsDue o.n.toNat = true → exec (.srd o) s = .next s)
  ∧ (∀ (s : State) (n : Nat), s.flagsDue n = true ↔ n = 0x1B ∧ ∃ j ∈ s.mats, j.team = s.cur.id ∧ ∃ f rm sat tau d a e0 m ls, j.kind = .rda f rm sat tau d a e0 m ls)
  ∧ (∀ s : State, s.sysReg 0x02 = BitVec.ofNat 64 s.cur.id.idx ∧ s.sysReg 0x07 = BitVec.ofNat 64 s.rank ∧ s.sysReg 0x10 = s.cur.sys.tvec
    ∧ s.sysReg 0x11 = s.cur.fr.cause ∧ s.sysReg 0x12 = s.cur.fr.fpc ∧ s.sysReg 0x13 = s.cur.fr.addr ∧ s.sysReg 0x14 = s.cur.fr.lanes
    ∧ s.sysReg 0x15 = s.cur.fr.opnd ∧ s.sysReg 0x18 = s.cur.fr.gorigin ∧ s.sysReg 0x19 = (if s.cur.sys.gdrill then 1 else 0)
    ∧ s.sysReg 0x1A = s.cur.sys.gdrop.setWidth 64 ∧ s.sysReg 0x1B = s.cur.sys.nstat.setWidth 64
    ∧ (5 ≤ s.stage → s.sysReg 0x09 = BitVec.ofNat 64 (s.clk - s.clkBase))
    ∧ ∀ g, s.myGroup = some g → s.sysReg 0x03 = BitVec.ofNat 64 g.index ∧ s.sysReg 0x04 = BitVec.ofNat 64 g.lcore
      ∧ s.sysReg 0x05 = BitVec.ofNat 64 (s.pcore g.lcore % 288 / 4) ∧ s.sysReg 0x06 = BitVec.ofNat 64 (s.pcore g.lcore / 288))
  ∧ (∀ (s : State) (g : TeamGuard) (n : Byte) (a : Fin 64), s.cur.goes g → s.cur.cleanS [a] →
    let x := s.cur.sval a
    let bits := x &&& 0x01FFFFFFFFFFFFF8
    let u := s.cur.passed
    (sysWr n.toNat = false → Traps (.swr ⟨g, n, a⟩) s (Trap.illegal 1 n.toNat))
    ∧ (sysWr n.toNat = true → s.flagsDue n.toNat = true → exec (.swr ⟨g, n, a⟩) s = .next s)
    ∧ (sysWr n.toNat = true → s.flagsDue n.toNat = false → Completes (.swr ⟨g, n, a⟩) s fun t => s.onlyCur t ∧ s.sameBytes t
      ∧ t.cur = { u with sys := t.cur.sys, fr := t.cur.fr }
      ∧ t.cur.sys = { u.sys with
          tvec := if n = 0x10 then bits else u.sys.tvec, gdrill := if n = 0x19 then x.getLsbD 0 else u.sys.gdrill,
          gdrop := if n = 0x1A then x.setWidth 32 else u.sys.gdrop, nstat := if n = 0x1B then u.sys.nstat &&& ~~~(x.setWidth 5) else u.sys.nstat }
      ∧ t.cur.fr.addr = (if n = 0x13 then x else u.fr.addr) ∧ t.cur.fr.fpc = (if n = 0x12 then bits else u.fr.fpc)
      ∧ t.cur.fr.lanes = u.fr.lanes ∧ t.cur.fr.opnd = u.fr.opnd ∧ t.cur.fr.gorigin = u.fr.gorigin
      ∧ (n = 0x11 → ∀ i, i < 64 → t.cur.fr.cause.getLsbD i = if i = 13 then x.getLsbD 13 else u.fr.cause.getLsbD i)
      ∧ (n = 0x12 → ∀ i, i < 64 → t.cur.fr.cause.getLsbD i = if 8 ≤ i ∧ i ≤ 12 then true else if i = 13 then false else u.fr.cause.getLsbD i)
      ∧ (n ≠ 0x11 → n ≠ 0x12 → t.cur.fr.cause = u.fr.cause)))

/-- TRAP.kill kills the handler's group with the cause it handles, PARK saves its team, the last one with the group's record, and YIELD ends the clause and gives the core to a ready pending team; TRAP.kill outside a handler and PARK outside a park's handler are illegal (R264, R267, R275, R280, R284, R285).
That PARK is allowed under cause 0x1C too is the reading of log 46.
The bytes of the group's record, and that PARK waits for the stores of the handlers into the save area, are the model's choice of log 100. -/
def Obligations.SystemTransfers : Prop :=
  ∀ (s : State) (g : TeamGuard), s.cur.goes g →
    (∀ code, s.cur.mode = .program ∨ s.cur.mode = .method → Traps (.trapKill ⟨g, code⟩) s (Trap.illegal 5 0))
    ∧ (∀ code x, s.cur.mode = .user ∨ s.cur.mode = .system → s.group? s.cur.id.gid = some x → x.state.live = true →
      let cause := s.cur.fr.cause.toNat % 256
      Completes (.trapKill ⟨g, code⟩) s fun t => s.sameButWaiters s.cur.id.gid t ∧ t.cur.state = .retired
        ∧ (∃ y, t.group? s.cur.id.gid = some y ∧ y.state = .killed ∧ y.killCause = some cause)
        ∧ ∃ r ∈ t.reports, r.kind = 0x01 ∧ r.cause = cause ∧ r.kcode = code.toNat ∧ r.ctx = x.ctx)
    ∧ (let c := s.cur.fr.cause.toNat % 256
      (s.cur.mode ≠ .system ∨ c ∉ [0x38, 0x39, 0x1A, 0x1C] → Traps (.park g) s (Trap.illegal 7 0))
      ∧ (s.cur.mode = .system → c ∈ [0x38, 0x39, 0x1A, 0x1C] → s.tintAny = false → Completes (.park g) s fun t => t.cur.state = .saved
        ∧ t.cur.inSet = false ∧ t.cur.clause = none ∧ t.cur.v = s.cur.v ∧ t.cur.s = s.cur.s
        ∧ (∀ x, s.group? s.cur.id.gid = some x → (∃ u ∈ s.others, u.id.gid = s.cur.id.gid ∧ u.state ≠ .saved ∧ u.state ≠ .retired) →
          t = { s with cur := t.cur }))
      ∧ (s.cur.mode = .system → c ∈ [0x38, 0x39, 0x1A, 0x1C] → s.tintAny = false →
        ∀ x ar pa, s.group? s.cur.id.gid = some x → x.state = .saving → (∀ u ∈ s.others, u.id.gid = s.cur.id.gid → u.state = .saved ∨ u.state = .retired) →
          (∀ ld ∈ s.loads, ld.team.gid = s.cur.id.gid → ld.redirected = false) → (∀ k ∈ s.combs, k.team.gid = s.cur.id.gid → k.redirected = false) →
          s.saveArea x = some ar → s.savesDue x ar = false → s.saveFail x needW = none → ar.d = 0 →
          let record := s.recordBytes x
          ar.base % 65536 + record.length ≤ 65536 → s.devPlace x.ctx ar.base needNone = .ok pa →
          Completes (.park g) s fun t => t.cur.state = .saved ∧ t.others = s.others ∧ t.physRead pa record.length = record
            ∧ (∀ z, (z < pa ∨ pa + record.length ≤ z) → t.byte z = s.byte z)
            ∧ ∃ y, t.group? s.cur.id.gid = some y ∧ y.state = (if x.cause = .migrate then .moving else .parked) ∧ y.hasImage = true))
    ∧ (s.yieldTo = none → Completes (.yield g) s fun t => t.cur.pc = s.cur.nextClause ∧ t.cur.clause = none ∧ t.cur.yielding = some []
      ∧ t.cur.v = s.cur.v ∧ t.cur.s = s.cur.s ∧ s.onlyCur t ∧ s.sameBytes t)
    ∧ (∀ n : Team, s.yieldTo = some n → n.id ≠ s.cur.id → (∀ u ∈ s.others, u.id ≠ s.cur.id) → Completes (.yield g) s fun t =>
      t.cur.pc = s.cur.nextClause ∧ t.cur.clause = none ∧ t.cur.inSet = false ∧ t.cur.state = .pending ∧ s.sameBytes t
      ∧ ∃ u ∈ t.others, u.id = n.id ∧ u.inSet = true ∧ u.state = .active)

/-- The checks of a clause: it passes exactly where its header and its words meet each of them (R46, R50, R51, R61, R62). -/
def Claims.ClauseChecks : Prop :=
  ∀ (a : Nat) (h : Word) (ws : List Word),
    (clauseFault a h ws = none ↔
      h.toNat / 2 ^ 60 = 0xC ∧ 1 ≤ h.toNat / 2 ^ 55 % 32 ∧ h.toNat / 2 ^ 55 % 32 ≤ 24 ∧ h.toNat % 2 ^ 42 = 0
      ∧ ∀ (i : Nat) (w : Word), ws[i]? = some w → w.toNat / 2 ^ 60 ≠ 0xC
        ∧ (∀ b, engineBit (w.toNat / 2 ^ 56) = some b → h.getLsbD b = true) ∧ (isControl (w.toNat / 2 ^ 56) = true → i + 1 = ws.length))
    ∧ ∀ x, clauseFault a h ws = some x → x = a ∨ ∃ i, i < ws.length ∧ x = a + 8 * (i + 1)

/-- A core starts the clause of the team that its issue unit chooses, or traps on it; one that waited on the matrix engine sees the flags of the matrix instructions before it; the entry rule fills a free position; a line that arrives is installed, and one that arrives poisoned gives its team a fault (R40, R51-R53, R63, R64, R66, R252, R263, R264). -/
def Claims.ClauseStarts : Prop :=
  (∀ (s s1 : State) (p : Nat) (id : TeamId), s.slotBusy p = false → (s.fetchAll p).arbitrate p = some (s1, id) →
    let u := s1.focus id
    u.cur.dueFault = none →
    (∀ tr, u.fetched u.cur = .bad tr → exec (.clauseStart p) s = .next (u.trapAt tr u.cur.pc 31))
    ∧ (∀ h ws, u.fetched u.cur = .words h ws →
      let pc := u.cur.pc.toNat
      (clauseFault pc h ws = none → u.waits u.cur h = false → u.cur.start < ws.length →
        Completes (.clauseStart p) s fun t => s.sameBytes t ∧ t.cur = { u.cur with
            clause := some { hdr := u.cur.pc, header := h, words := ws, idx := u.cur.start }, start := 0,
            age := 0, issuedAt := (u.coreAt (u.coreOf u.cur.id.gid)).issues + 1, yielding := none,
            sys := if h.getLsbD 46 then { u.cur.sys with nstat := u.cur.sys.nstat ||| u.cur.sys.mflags, mflags := 0 } else u.cur.sys }
          ∧ ∀ v ∈ u.others, v.id ≠ u.cur.id → { v with yielding := v.yielding.map fun l => u.cur.id :: l } ∈ t.others)
      ∧ (∀ a, clauseFault pc h ws = some a → exec (.clauseStart p) s
        = .next (((u.fetchLine u.cur (pc / 256)).fetchLine u.cur ((pc + 8 * ws.length) / 256)).trapAt (Trap.of 0x11 a) u.cur.pc 31))))
  ∧ (∀ (s : State) (p : Nat) (n : Team), (s.noteReady p).nextPending p = some n →
    (((s.noteReady p).teams.filter fun t => (s.noteReady p).onCore p t && t.inSet).length < 8) →
    Completes (.activeSetEntry p) s fun t => (∃ u, t.team? n.id = some u ∧ u.inSet = true ∧ u.state = .active) ∧ s.sameBytes t
      ∧ t.cur.v = s.cur.v ∧ t.cur.s = s.cur.s ∧ t.cur.pc = s.cur.pc)
  ∧ (∀ (s : State) (q ctx line : Nat) (f : CodeLine), s.l1Line q ctx line = some f → f.filling = true →
    (s.codePlace (some (4 * q)) ctx line = none → Completes (.codeFillArrival q ctx line) s fun t => s.calm t ∧ t.l1Line q ctx line = none)
    ∧ (∀ a, s.codePlace (some (4 * q)) ctx line = some a → s.fillHeld f a = false →
      (s.poisoned a 256 = false → (∀ l ∈ (s.quadAt q).l1, l.is ctx line = true → l = f) →
        Completes (.codeFillArrival q ctx line) s fun t => s.calm t
          ∧ (∃ l, t.l1Line q ctx line = some l ∧ l.filling = false ∧ l.bytes = s.physRead a 256 ∧ l.pins = f.pins)
          ∧ (∀ w, f.wants = [w] → ∃ l, t.l0Line w.1 ctx line = some l ∧ l.bytes = s.physRead a 256))
      ∧ (∀ c, s.poisoned a 256 = true → f.wants = [(c, some s.cur.id)] → s.leaving s.cur.id = false →
        Completes (.codeFillArrival q ctx line) s fun t => t.l1Line q ctx line = none ∧ s.sameBytes t ∧ t.cur = { s.cur with deferred := t.cur.deferred }
          ∧ (∃ d, t.cur.deferred = s.cur.deferred ++ [d] ∧ d.at_ = .stand ∧ d.trap.cause = 0x1D ∧ d.trap.addr = 256 * line)
          ∧ ∃ r ∈ t.reports, r.kind = 0x03 ∧ r.ctx = ctx ∧ r.addr = 256 * line ∧ r.pc = s.cur.pc.toNat)))

/-- The checks of a clause and its start (R40, R46, R50, R51, R53, R61-R64, R66, R263, R264). -/
def Obligations.Clauses : Prop := Claims.ClauseChecks ∧ Claims.ClauseStarts

/-- IPREF asks for each line of its range that translates and that neither the core's L0 nor its quad's L1 holds, and copies one that the L1 holds into the L0; it skips the others, does nothing under a tint, and takes 1 to 256 lines (R66, R286). -/
def Claims.CodePrefetch : Prop :=
  ∀ (s : State) (o : IprefOps),
    let n := (s.cur.sval o.b).toNat
    let first := (s.cur.sval o.a).toNat / 256
    let core := s.coreOf s.cur.id.gid
    let q := core / 4
    let ctx := s.ctxOf s.cur
    let lies := fun line => ∃ x a, s.codeAt s.cur (256 * line) = .ok x ∧ x.place = .phys a
    let asked := fun (t : State) line => ∃ l, t.l1Line q ctx line = some l ∧ l.filling = true ∧ l.pins = 0 ∧ l.wants = [(core, none)]
      ∧ l.by_ = some (s.cur.id, s.cur.seq)
    ((s.cur.tguard o.g).val = false ∨ (s.cur.tguard o.g).tint = true ∨ s.cur.ctlMask = true ∨ (s.cur.sreg o.a.val).tint = true
      ∨ (s.cur.sreg o.b.val).tint = true → exec (.ipref o) s = .next s.advance)
    ∧ (s.cur.goes o.g → s.cur.cleanS [o.a, o.b] →
      (n = 0 ∨ 256 < n → Traps (.ipref o) s (Trap.illegal 3 o.b.val))
      ∧ (1 ≤ n → n ≤ 256 → Completes (.ipref o) s fun t => s.issued t
        ∧ (∀ line, (∀ i, i < n → line ≠ first + i) → t.l1Line q ctx line = s.l1Line q ctx line)
        ∧ (n = 1 →
          (lies first → s.l0Line core ctx first = none → s.l1Line q ctx first = none → asked t first)
          ∧ (¬ lies first → t.l1Line q ctx first = s.l1Line q ctx first)
          ∧ (lies first → s.l0Line core ctx first = none → ∀ l, s.l1Line q ctx first = some l → l.filling = false →
            ∃ m, t.l0Line core ctx first = some m ∧ m.bytes = l.bytes))
        ∧ (s.tlbsTrue →
          (∀ i, i < n → lies (first + i) → s.l0Line core ctx (first + i) = none → s.l1Line q ctx (first + i) = none → asked t (first + i))
          ∧ (∀ i, i < n → ¬ lies (first + i) → t.l1Line q ctx (first + i) = s.l1Line q ctx (first + i)))))

/-- IPIN gives each line of its range one more pin, an absent line by asking for it, and IUNPIN takes one from each; the predicate says whether every line took its part. A line has at most 15 pins, a set at most 6 pinned lines and an L1 at most 1,024 (R66, R286).
That IUNPIN leaves a line still Filling alone is the reading of log 70. -/
def Claims.CodePins : Prop :=
  ∀ (s : State) (o : IpinOps), s.cur.goes o.g → s.cur.cleanS [o.a, o.b] →
    let n := (s.cur.sval o.b).toNat
    let first := (s.cur.sval o.a).toNat / 256
    let q := s.coreOf s.cur.id.gid / 4
    let ctx := s.ctxOf s.cur
    let pinned := (s.quadAt q).l1.filter fun l => l.pins != 0
    let inSet := fun line => (pinned.filter fun l => l.line % 256 == line % 256).length
    let after := fun (i : Instr) (b : Bool) (p : Nat → Option CodeLine → Prop) => Completes i s fun t =>
      t.cur = { s.cur.passed with q := t.cur.q } ∧ s.cur.sameQ t.cur o.d.val ∧ t.cur.qreg o.d.val = { val := b, tint := s.cur.ctlAny } ∧ s.sameBytes t
      ∧ (∀ line, t.l1Line q ctx line = s.l1Line q ctx line ∨ (first ≤ line ∧ line < first + n)) ∧ ∀ i, i < n → p (first + i) (t.l1Line q ctx (first + i))
    let more := fun (line : Nat) (m : Option CodeLine) => match s.l1Line q ctx line with
      | none => ∃ l, m = some l ∧ l.filling = true ∧ l.pins = 1 ∧ l.wants = [] ∧ l.by_ = some (s.cur.id, s.cur.seq)
      | some l => m = some { l with pins := l.pins + 1 }
    (n = 0 ∨ 256 < n → Traps (.ipin o) s (Trap.illegal 3 o.b.val) ∧ Traps (.iunpin o) s (Trap.illegal 3 o.b.val))
    ∧ (1 ≤ n → n ≤ 256 →
      (∀ tr, s.lineFail s.cur first n = some tr → Traps (.ipin o) s tr)
      ∧ (s.lineFail s.cur first n = none → pinned.length + n ≤ 1024 →
        (∀ i, i < n → match s.l1Line q ctx (first + i) with
          | none => inSet (first + i) < 6
          | some l => l.pins < 15 ∧ (l.pins ≠ 0 ∨ inSet (first + i) < 6)) →
        after (.ipin o) true more)
      ∧ (s.lineFail s.cur first n = none → n = 1 →
        (s.l1Line q ctx first = none → 6 ≤ inSet first ∨ 1024 ≤ pinned.length → after (.ipin o) false fun _ m => m = none)
        ∧ (∀ l, s.l1Line q ctx first = some l → 15 ≤ l.pins ∨ (l.pins = 0 ∧ (6 ≤ inSet first ∨ 1024 ≤ pinned.length)) →
          after (.ipin o) false fun _ m => m = some l))
      ∧ ∃ b : Bool, (b = true ↔ ∀ i, i < n → ∃ l, s.l1Line q ctx (first + i) = some l ∧ l.filling = false ∧ l.pins ≠ 0) ∧
        after (.iunpin o) b fun line m => m = (s.l1Line q ctx line).map fun l => if l.filling = true ∨ l.pins = 0 then l else { l with pins := l.pins - 1 })

/-- The cache instructions IPREF, IPIN and IUNPIN (R66, R286). -/
def Obligations.CodePins : Prop := Claims.CodePrefetch ∧ Claims.CodePins

/-! ### Groups -/

/-- The placer makes the next group of the first kernel in order resident where it fits, with its areas, zero allocations and teams as they are created (R88, R179, R261, R262, R290). -/
def Claims.Placement : Prop :=
  ∀ (s : State) (c : Choice) (k : Kernel) (rest : List Kernel) (i l save const : Nat) (x : Ctx), 7 ≤ s.stage → s.placeOrder = k :: rest →
    s.nextGroup k = some (.inr i) → s.bestCore k.lpb = some l → s.ctx? k.ctx = some x → (∀ g ∈ s.groups, g.gid < s.nextKey) →
    poolPlace x.save x.saveSize (s.areas k.ctx Group.saveAddr Lpb.saveSize) k.lpb.saveSize c.save = some save →
    poolPlace x.const x.constSize (s.areas k.ctx Group.constAddr Lpb.constSize) k.lpb.constSize c.const = some const →
    Completes (.groupPlacement c) s fun t => t.cur = s.cur
      ∧ (∃ g, t.group? s.nextKey = some g ∧ g.kid = k.kid ∧ g.ctx = k.ctx ∧ g.index = i ∧ g.state = .resident ∧ g.lcore = l ∧ g.saveAddr = some save
        ∧ g.constAddr = some const ∧ g.k = Scratch.zero ∧ g.q = Scratch.zero ∧ g.d = Scratch.zero ∧ g.tiles = [] ∧ g.tileTint = [])
      ∧ t.others.length = s.others.length + k.lpb.teams
      ∧ ∀ j, j < k.lpb.teams → ∃ u ∈ t.others, u.id = { gid := s.nextKey, idx := j } ∧ u.state = .pending ∧ u.mode = .program
        ∧ u.pc = BitVec.ofNat 64 k.lpb.code ∧ u.lanes = k.lpb.lanes ∧ u.regs = k.lpb.regs ∧ u.stack = [] ∧ u.ctl = 0
        ∧ (u.sreg 0).val = BitVec.ofNat 64 const ∧ (∀ r, r ≠ 0 → u.sreg r = SCell.zero) ∧ (∀ r L, u.vreg r L = VCell.zero)
        ∧ (∀ L, L < 1024 → u.mask.getLsbD L = decide (L < u.lanes))

/-- A group parks: a request is honoured at a blocking point and stands until then, an ended slice asks for a park, a page fault parks at once with its notice, the park trap writes the team's image and enters the handler with the save area, or kills the group whose save area fails the device's access, and a wake condition queues the group again (R260, R266-R268, R275, R322, R323).
The bytes of a slot image are the model's choice of log 100, and that the park trap waits for queued matrix instructions that set flags is the reading of log 101. -/
def Obligations.Parking : Prop :=
  (∀ (s : State) (g : Group), s.group? g.gid = some g → g.state = .resident →
    (s.blockingPoint g.gid = true → Completes (.parkRequest g.gid .debugger) s fun t => s.sameButWaiters g.gid t
      ∧ (s.cur.id.gid = g.gid → s.cur.state = .blocked → s.cur.faultPark = none → t.cur.state = .active)
      ∧ (∃ h, t.group? g.gid = some h ∧ h.state = .saving ∧ h.cause = .park ∧ h.latch = none)
      ∧ (s.cur.id.gid = g.gid → s.cur.state ≠ .retired → s.cur.state ≠ .exiting → s.cur.faultPark = none → t.cur.parkDue = some 0x38))
    ∧ (s.blockingPoint g.gid = false → Completes (.parkRequest g.gid .debugger) s fun t => s.calm t
      ∧ ∃ h, t.group? g.gid = some h ∧ h.state = .resident ∧ h.parkAsked = some .debugger)
    ∧ (g.residentSince + s.slice (((s.kernel? g.kid).map Kernel.prio).getD 0) ≤ s.clk → g.parkAsked = none →
      Completes (.timeSliceExpiry g.gid) s fun t => s.calm t ∧ ∃ h, t.group? g.gid = some h ∧ h.state = .resident ∧ h.parkAsked = some .slice)
    ∧ (∀ f c, s.cur.id.gid = g.gid → s.cur.faultPark = some f → f.posted = false → s.ctx? g.ctx = some c → c.maps = f.maps →
      (∀ n ∈ s.notices, n.ctx = g.ctx → n.region = f.va / 65536 → n.resolved = true) →
      Completes (.pageFaultPark g.gid) s fun t => s.sameButWaiters g.gid t
        ∧ (∃ h, t.group? g.gid = some h ∧ h.state = .saving ∧ h.cause = .page ∧ h.wakes = [.page g.ctx (f.va / 65536)])
        ∧ t.cur.faultPark = some { f with posted := true }
        ∧ ∃ n ∈ t.notices, n.ctx = g.ctx ∧ n.region = f.va / 65536 ∧ n.va = f.va ∧ n.acc = f.acc ∧ n.why = f.why ∧ n.waiters = [g.gid] ∧ n.resolved = false))
  ∧ (∀ (s : State) (g : Group) (c : Ctx) (a : Nat), s.group? g.gid = some g → g.state = .saving → g.saveAddr = some a → s.ctx? g.ctx = some c →
    g.cause = .migrate ∨ s.enginesDue g.gid = false → s.saveFail g needW = none → s.cur.id.gid = g.gid → (∀ u ∈ s.others, u.id ≠ s.cur.id) →
    s.cur.parkDue = some 0x38 → s.cur.faultPark = none → s.cur.wait = none → s.cur.clause = none → s.cur.start = 0 → s.cur.state = .active →
    s.numbered → SMap.wf SCell.zero s.cur.s = true →
    (∀ ld ∈ s.loads, ld.team = s.cur.id → ld.kind = .load → ld.written = false → ld.limit = 0) → s.matFlags s.cur.id = false →
    (∀ u ∈ s.others, u.id.gid = g.gid → u.trapDue = false) →
    ∀ pa, let va := a + 0x8000 + 0x4000 * s.cur.id.idx
      let image := s.cur.image.bytes
      va % 65536 + image.length ≤ 65536 → s.devPlace g.ctx va needNone = .ok pa →
    Completes (.parkTrap g.gid) s fun t => t.physRead pa image.length = image
      ∧ (∀ p, (Place.phys pa).overlaps image.length p 1 = false → t.byteAt p = s.byteAt p) ∧ t.cur.mode = .system ∧ t.cur.pc = BitVec.ofNat 64 c.handler ∧ t.cur.fr.cause.toNat % 256 = 0x38
      ∧ t.cur.fr.addr = BitVec.ofNat 64 a ∧ t.cur.fr.fpc = s.cur.pc &&& 0x01FFFFFFFFFFFFF8 ∧ t.cur.stack = [] ∧ t.cur.ctl = 0
      ∧ (∀ L, L < 1024 → t.cur.mask.getLsbD L = decide (L < s.cur.lanes)) ∧ t.cur.v = s.cur.v
      ∧ (∀ r, t.cur.sreg r = { (s.cur.sreg r) with tint := false })
      ∧ t.cur.parkDue = none ∧ t.cur.state = .active
      ∧ (∀ ld ∈ t.loads, ld.team = s.cur.id → ld.kind ≠ .mat → ld.kind ≠ .pref →
        (ld.written = false → ld.redirected = true) ∧ (ld.written = true → ∀ l ∈ ld.lanes, l.st ≠ .expired))
      ∧ ∃ h, t.group? g.gid = some h ∧ (s.cur.id.idx, s.cur.image) ∈ h.images)
  ∧ (∀ (s : State) (g : Group) (c : Ctx) (a va : Nat) (f : XFail), s.group? g.gid = some g → g.state = .saving → g.saveAddr = some a →
    s.ctx? g.ctx = some c → g.cause = .migrate ∨ s.enginesDue g.gid = false → s.saveFail g needW = some (f, va) → s.cur.id.gid = g.gid →
    s.cur.parkDue = some 0x38 → s.cur.clause = none → s.cur.start = 0 → s.cur.state = .active → s.matFlags s.cur.id = false →
    Completes (.parkTrap g.gid) s fun t => t.cur.state = .retired ∧ (∃ h, t.group? g.gid = some h ∧ h.state = .killed ∧ h.killCause = some f.cause)
      ∧ ∃ r ∈ t.reports, r.kind = 0x01 ∧ r.cause = f.cause ∧ r.addr = va ∧ r.team = 0)
  ∧ (∀ (s : State) (g : Group), s.group? g.gid = some g → g.state = .parked → g.awake = true ∨ (∃ w ∈ g.wakes, s.wakeHolds g.gid w = true) →
    Completes (.wakeCondition g.gid) s fun t => t.cur = s.cur ∧ t.others = s.others ∧ s.sameButWaiters g.gid t ∧ ∃ h, t.group? g.gid = some h ∧ h.state = .queued ∧ h.wakes = [] ∧ h.awake = false)
  ∧ (∀ (s : State) (ld : Load) (l : LoadLane) (g : Group) (u : Team) (va mb pa pm : Nat), s.load? ld.key = some ld → ld.redirected = true →
    ld.lanes = [l] → l.st = .exact → l.bad = none → l.gd = none → ld.regs = 1 → s.group? ld.team.gid = some g → g.state = .saving → s.team? ld.team = some u → u.state = .saved →
    s.saveSlot g u ld.d l.lane = some (va, mb) → va % 65536 ≤ 65532 → s.devPlace g.ctx va needW = .ok pa → s.devPlace g.ctx va needNone = .ok pa →
    (∃ m, s.devPlace g.ctx (mb % 2 ^ 60) needRW = .ok m ∧ s.poisoned m 1 = false) →
    ((∃ v ∈ s.teamsOf ld.team.gid, v.state ≠ .saved ∧ v.state ≠ .retired)
      ∨ ∃ e ∈ s.loads, e.key ≠ ld.key ∧ e.team.gid = ld.team.gid ∧ e.redirected = true ∧ e.written = false) →
    let x := leBytes 4 (l.value % 2 ^ 32)
    (s.physWrite pa x).devPlace g.ctx (mb % 2 ^ 60) needNone = .ok pm → (pm < pa ∨ pa + 4 ≤ pm) →
    Completes (.redirectedValueWrite ld.key) s fun t => t.physRead pa 4 = x ∧ (∀ y ∈ t.loads, y.key ≠ ld.key) ∧ t.cur.v = s.cur.v
      ∧ (∀ z, (z < pa ∨ pa + 4 ≤ z) → z ≠ pm → t.byte z = s.byte z))

/-- A migration reserves its target and saves the groups of its core as a whole, or is refused and reported; when all are Moving the core map is rewritten and they restore: their teams start at the handler with cause restore, and a save area whose device part was overwritten leaves the restore undefined (R269, R270, R272).
That a refused request is reported as a pair in State.refusals is the reading of log 33.
That a restore left undefined is a fault is the reading of log 43. -/
def Obligations.MigrationAndRestore : Prop :=
  (∀ (s : State) (l target : Nat),
    ((∃ g ∈ s.groupsOf l, ∀ k, s.kernel? g.kid = some k → k.lpb.mig = false) ∨ s.idleCore target = false ∨ (∃ r ∈ s.reserved, r.1 = l) →
      exec (.migrationRequest l target) s = .next { s with refusals := s.refusals ++ [(l, target)] })
    ∧ (s.groupsOf l = [] → s.idleCore target = true → (∀ r ∈ s.reserved, r.1 ≠ l) →
      exec (.migrationRequest l target) s = .next { s with reserved := s.reserved ++ [(l, target)] })
    ∧ (∀ g k, s.groupsOf l = [g] → s.group? g.gid = some g → g.state = .resident → s.kernel? g.kid = some k → k.lpb.mig = true → s.idleCore target = true →
      (∀ r ∈ s.reserved, r.1 ≠ l) → Completes (.migrationRequest l target) s fun t => t.reserved = s.reserved ++ [(l, target)] ∧ s.sameButWaiters g.gid t
        ∧ ∃ h, t.group? g.gid = some h ∧ h.state = .saving ∧ h.cause = .migrate))
  ∧ (∀ (s : State) (l m target : Nat), s.reserved.find? (fun r => r.1 == l) = some (l, target) → s.lcoreAt target = some m → m ≠ l →
    (∀ g ∈ s.groupsOf l, g.state = .moving) →
    Completes (.coreMapRewrite l) s fun t => t.pcore l = target ∧ t.pcore m = s.pcore l ∧ (∀ c, c ≠ l → c ≠ m → t.pcore c = s.pcore c)
      ∧ t.cur = s.cur ∧ t.others = s.others ∧ t.mem = s.mem ∧ (∀ r ∈ t.reserved, r.1 ≠ l)
      ∧ ∀ g ∈ s.groupsOf l, ∃ h ∈ t.groups, h.gid = g.gid ∧ h.state = .restoring ∧ h.k = Scratch.zero ∧ h.images = g.images)
  ∧ (∀ (s : State) (g : Group) (c : Ctx) (a : Nat), s.group? g.gid = some g → g.state = .restoring → s.ctx? g.ctx = some c → g.saveAddr = some a →
    s.cur.id.gid = g.gid → s.cur.state = .saved → Completes (.restoreStart g.gid) s fun t => t.cur.state = .pending ∧ t.cur.mode = .system
      ∧ t.cur.pc = BitVec.ofNat 64 c.handler ∧ t.cur.fr.cause.toNat % 256 = 0x3A ∧ t.cur.fr.addr = BitVec.ofNat 64 a ∧ t.cur.ctl = 0 ∧ t.cur.stack = []
      ∧ (∀ L, L < 1024 → t.cur.mask.getLsbD L = decide (L < s.cur.lanes)) ∧ s.sameBytes t ∧ t.groups = s.groups)
  ∧ (∀ (s : State) (g : Group), s.group? g.gid = some g → g.state = .restoring → g.imageLost = true → s.cur.id.gid = g.gid →
    s.cur.state = .exiting → s.busy s.cur = false → s.uncounted s.cur.id = false → s.cur.sys.gdrop = 0 →
    (∀ u ∈ s.others, u.id.gid = g.gid → (u.restored = true ∨ u.state = .retired) ∧ u.id ≠ s.cur.id) →
    exec (.teamRetire s.cur.id) s = .fault .restoreUndefined)

/-- A team without outstanding work, each of its operations counted, retires; a group all of whose teams have retired leaves the machine and counts at its kernel; a killed group is queued again while its kernel allows a retry (R89, R260, R276, R291, R292).
That an Exiting team waits for its uncounted operations is the reading of log 102. -/
def Claims.Retirement : Prop :=
  (∀ (s : State) (g : Group), s.group? s.cur.id.gid = some g → g.state = .resident → s.cur.state = .exiting → s.busy s.cur = false →
    s.uncounted s.cur.id = false → s.cur.sys.gdrop = 0 → Completes (.teamRetire s.cur.id) s fun t => t.cur.state = .retired ∧ t.cur.inSet = false ∧ t.groups = s.groups ∧ t.mem = s.mem
      ∧ t.cur.v = s.cur.v)
  ∧ (∀ (s : State) (g : Group) (k : Kernel), s.group? g.gid = some g → g.state = .resident → s.kernel? g.kid = some k →
    (∀ u ∈ s.teams, u.id.gid = g.gid → u.state = .retired) →
    Completes (.groupRetire g.gid) s fun t => t.group? g.gid = none
      ∧ (∀ z, (∀ o ∈ s.waitedOn g.gid, o.place.overlaps 16 (.phys z) 1 = false) → t.byte z = s.byte z) ∧ (∀ u ∈ t.others, u.id.gid ≠ g.gid)
      ∧ ∃ j, t.kernel? g.kid = some j ∧ j.retired = k.retired + 1
        ∧ j.state = (if k.state = .running ∧ k.total ≤ k.retired + 1 then .draining else k.state))
  ∧ (∀ (s : State) (g : Group) (k : Kernel) (c : Ctx), s.group? g.gid = some g → s.kernel? g.kid = some k → s.ctx? g.ctx = some c →
    (g.state = .killed → k.lpb.idem = true → g.retry < k.lpb.retry → k.state = .running → c.state = .active →
      Completes (.groupKill g.gid) s fun t => t.mem = s.mem ∧ (∃ h ∈ t.groups, h.kid = g.kid ∧ h.index = g.index ∧ h.state = .queued ∧ h.retry = g.retry + 1
        ∧ h.saveAddr = g.saveAddr) ∧ ∃ j, t.kernel? g.kid = some j ∧ j.retries = k.retries + 1)
    ∧ (g.state = .resident → k.state ≠ .running →
      Completes (.groupKill g.gid) s fun t => s.sameButWaiters g.gid t ∧ ∃ h, t.group? g.gid = some h ∧ h.state = .killed ∧ h.killCause = some k.cause))

/-- A group from its placement to its retirement or kill (R88, R89, R179, R260-R262, R276, R290, R291). -/
def Obligations.Groups : Prop := Claims.Placement ∧ Claims.Retirement

/-! ### Kernels and queues -/

/-- A kernel is accepted, drains and signals: KERNEL_ACCEPT takes it to Running, or to Signalling with code 3 in a faulted context or 2 for an invalid LPB; it signals once no core holds an outstanding entry for it; KERNEL_SIGNAL writes its status word, or raises its timeline to the maximum, and ends it (R288, R291-R293). -/
def Claims.KernelLife : Prop :=
  ∀ (s : State) (k : Kernel) (c : Ctx), s.kernel? k.kid = some k → s.ctx? k.ctx = some c →
    let becomes := fun (i : Instr) (j : Kernel) => Completes i s fun t => t.kernel? k.kid = some j ∧ t = { s with kernels := t.kernels }
    (k.state = .accepted →
      (c.state = .faulted → becomes (.kernelAccept k.kid) { k with state := .signalling, code := 3 })
      ∧ (c.state = .active → s.lpbValid k = true → becomes (.kernelAccept k.kid) { k with state := .running })
      ∧ (c.state = .active → s.lpbValid k = false → becomes (.kernelAccept k.kid) { k with state := .signalling, code := 2 }))
    ∧ (s.noneOut k.kid = false → exec (.kernelDrained k.kid) s = .next s)
    ∧ (s.noneOut k.kid = true →
      (k.state = .draining → becomes (.kernelDrained k.kid) { k with state := .signalling, code := 0 })
      ∧ (k.state = .erroring → k.total ≤ k.retired → becomes (.kernelDrained k.kid) { k with state := .signalling, code := 1 }))
    ∧ (∀ a, k.state = .signalling → k.lpb.stAddr ≠ 0 → k.lpb.tlAddr = 0 → s.qePlace k.ctx k.lpb.stAddr needW = some a → s.rejects (.phys a) 8 = false →
      Completes (.kernelSignal k.kid) s fun t => t.kernel? k.kid = some { k with state := .done }
        ∧ t.physWord a = BitVec.ofNat 64 (min k.retries 0xFFFF * 2 ^ 32 + (if k.code = 1 then k.cause % 256 else 0) * 2 ^ 8 + k.code)
        ∧ (∀ p, (Place.phys a).overlaps 8 p 1 = false → t.byteAt p = s.byteAt p) ∧ t.cur = s.cur ∧ t.others = s.others
        ∧ ∀ q, k.cmd = some q → ∀ x ∈ t.cmds, x.key = q → x.status ≠ none)
    ∧ (∀ a, k.state = .signalling → k.lpb.stAddr = 0 → k.lpb.tlAddr ≠ 0 → k.lpb.tlAddr % 8 = 0 → s.qePlace k.ctx k.lpb.tlAddr needW = some a →
      s.rejects (.phys a) 8 = false → s.poisoned a 8 = false →
      Completes (.kernelSignal k.kid) s fun t => t.kernel? k.kid = some { k with state := .done }
        ∧ t.physWord a = BitVec.ofNat 64 (max (s.physWord a).toNat k.lpb.tlVal)
        ∧ (∀ p, (Place.phys a).overlaps 8 p 1 = false → t.byteAt p = s.byteAt p) ∧ t.cur = s.cur ∧ t.others = s.others)
    ∧ (∀ a b, k.state = .signalling → k.lpb.stAddr ≠ 0 → k.lpb.tlAddr ≠ 0 → k.lpb.tlAddr % 8 = 0 → s.qePlace k.ctx k.lpb.stAddr needW = some a →
      s.rejects (.phys a) 8 = false →
      let s0 := s.qePut k.ctx k.lpb.stAddr k.status
      s0.qePlace k.ctx k.lpb.tlAddr needW = some b → s0.rejects (.phys b) 8 = false → s0.poisoned b 8 = false → a = b ∨ a + 8 ≤ b ∨ b + 8 ≤ a →
      Completes (.kernelSignal k.kid) s fun t => t.kernel? k.kid = some { k with state := .done }
        ∧ (a ≠ b → t.physWord a = BitVec.ofNat 64 k.status ∧ t.physWord b = BitVec.ofNat 64 (max (s.physWord b).toNat k.lpb.tlVal))
        ∧ (a = b → t.physWord a = BitVec.ofNat 64 (max (k.status % 2 ^ 64) k.lpb.tlVal))
        ∧ (∀ p, (Place.phys a).overlaps 8 p 1 = false → (Place.phys b).overlaps 8 p 1 = false → t.byteAt p = s.byteAt p)
        ∧ t.cur = s.cur ∧ t.others = s.others)
    ∧ (k.state = .signalling → k.lpb.stAddr = 0 → k.lpb.tlAddr = 0 → Completes (.kernelSignal k.kid) s fun t => s.calm t
      ∧ t.kernel? k.kid = some { k with state := .done })
    ∧ (k.state = .signalling → k.lpb.stAddr ≠ 0 → k.lpb.tlAddr = 0 → s.qePlace k.ctx k.lpb.stAddr needW = none →
      Completes (.kernelSignal k.kid) s fun t => s.calm t ∧ t.kernel? k.kid = some { k with state := .done }
        ∧ ∃ r ∈ t.reports, r.kind = 0x10 ∧ r.addr = k.lpb.stAddr ∧ r.ctx = k.ctx)
    ∧ (k.state = .signalling → k.lpb.stAddr = 0 → k.lpb.tlAddr ≠ 0 → k.lpb.tlAddr % 8 ≠ 0 ∨ s.qePlace k.ctx k.lpb.tlAddr needW = none →
      Completes (.kernelSignal k.kid) s fun t => s.calm t ∧ t.kernel? k.kid = some { k with state := .done }
        ∧ ∃ r ∈ t.reports, r.kind = 0x10 ∧ r.addr = k.lpb.tlAddr ∧ r.ctx = k.ctx)

/-- A report reaches the error record: its entry and SEQ are written while fewer than 63 entries are unread, and else it is counted as lost; a report of a fatal kind faults an active context and its running kernels (R307-R312). -/
def Claims.ErrorRecord : Prop :=
  ∀ (s : State) (r : Report), s.reports.find? (fun x => x.key == r.key) = some r →
    (s.ctx? r.ctx = none → Completes (.errorRecordEntry r.key) s fun t => t = { s with reports := s.reports.filter fun x => x.key != r.key })
    ∧ (∀ (c : Ctx) (a b : Nat), s.ctx? r.ctx = some c → c.state = .active → c.errAddr % 65536 = 0 →
      let seq := (s.physWord a).toNat % 2 ^ 32
      let unread := (2 ^ 32 + seq - (s.physWord (a + 16)).toNat % 2 ^ 32) % 2 ^ 32
      let entry := (r.words false seq).flatMap (leBytes 8)
      s.devPlace c.slot c.errAddr needNone = .ok a → s.devPlace c.slot (c.errAddr + 16) needNone = .ok (a + 16) →
      s.devPlace c.slot (c.errAddr + 64 * (1 + seq % 63)) needNone = .ok b → (b + 64 ≤ a ∨ a + 64 ≤ b) →
      (s.devWrite c.slot (c.errAddr + 64 * (1 + seq % 63)) entry).devPlace c.slot c.errAddr needNone = .ok a →
      fatalKind r.kind = false → unread < 63 →
      Completes (.errorRecordEntry r.key) s fun t => t.physRead b 64 = entry ∧ t.physWord a = BitVec.ofNat 64 ((seq + 1) % 2 ^ 32)
        ∧ (∀ x, (x < a ∨ a + 8 ≤ x) → (x < b ∨ b + 64 ≤ x) → t.byte x = s.byte x) ∧ t.cur = s.cur ∧ t.others = s.others ∧ t.ctxs = s.ctxs
        ∧ t.reports = s.reports.filter (fun x => x.key != r.key))
    ∧ (∀ (c : Ctx) (a : Nat), s.ctx? r.ctx = some c → c.state = .active → c.errAddr % 65536 = 0 →
      let seq := (s.physWord a).toNat % 2 ^ 32
      let old := (s.physWord (a + 16)).toNat
      s.devPlace c.slot c.errAddr needNone = .ok a → s.devPlace c.slot (c.errAddr + 16) needNone = .ok (a + 16) →
      s.devPlace c.slot (c.errAddr + 20) needNone = .ok (a + 20) → fatalKind r.kind = false → 63 ≤ (2 ^ 32 + seq - old % 2 ^ 32) % 2 ^ 32 →
      Completes (.errorRecordEntry r.key) s fun t => t.physRead (a + 20) 4 = leBytes 4 (min (old / 2 ^ 32 + 1) (2 ^ 32 - 1))
        ∧ (∀ x, (x < a + 20 ∨ a + 24 ≤ x) → t.byte x = s.byte x) ∧ t.cur = s.cur ∧ t.others = s.others ∧ t.ctxs = s.ctxs
        ∧ t.reports = s.reports.filter (fun x => x.key != r.key))
    ∧ (∀ c : Ctx, s.ctx? r.ctx = some c → c.state = .active → r.kind ∈ [0x02, 0x03, 0x04] →
      Completes (.errorRecordEntry r.key) s fun t => (∃ x, t.ctx? r.ctx = some x ∧ x.state = .faulted)
        ∧ t.msix.get 0 4 = s.msix.get 0 4 + 1
        ∧ ∀ k ∈ s.kernels, k.ctx = c.slot → k.state = .running → ∃ j ∈ t.kernels, j.kid = k.kid ∧ j.state = .erroring)

/-- The life of a kernel from its acceptance to its signal, and the error record of its context (R288, R291-R293, R307-R312). -/
def Obligations.KernelsAndErrors : Prop := Claims.KernelLife ∧ Claims.ErrorRecord

/-- LAUNCH accepts the kernel of its LPB once its team's earlier accesses are performed and the engine has room, and waits in WAI until then; ENQ counts an append, or leaves it in WAI, and its swap is still to be performed; APPEND_SWAP exchanges TAIL, and OUTSTANDING_ACK writes the link and counts the append off (R48, R287, R290, R292, R295, R296, R302).
That $faddr is 0 for a misaligned block or descriptor is the reading of log 14, and the order of the checks of LAUNCH and ENQ that of log 32. -/
def Obligations.LaunchAndEnqueue : Prop :=
  (∀ (s : State) (o : LaunchOps) (x : Ctx), s.cur.goes o.g → s.cur.cleanS [o.a] → s.ctx? (s.ctxOf s.cur) = some x →
    let a := (s.cur.sval o.a).toNat
    (a % 256 ≠ 0 → Traps (.launch o) s (Trap.of 0x18 0))
    ∧ (a % 256 = 0 → s.launchCheck a 128 = none → s.headerDue a = false →
      let h := (s.qeRead (s.ctxOf s.cur) a 128).getD []
      let raw := s.readLpb (s.ctxOf s.cur) a
      let now := !s.kernelsFull && relDone s s.cur.id s.cur.seq (some .pod)
      s.launchCheck (a + 128) (8 * argqOf (wordsOf h 16)) = none →
      Completes (.launch o) s fun t => t.cur = s.cur.passed ∧ t.others = s.others ∧ s.sameBytes t
        ∧ (now = true → ∃ k : Kernel, t.kernels = s.kernels ++ [k] ∧ s.nextKey < k.kid ∧ k.ctx = s.ctxOf s.cur ∧ k.id = x.nextKernel
          ∧ k.state = .accepted ∧ k.raw = raw ∧ k.lpb = lpbOf (wordsOf h 16) ∧ k.args = (raw.getD []).drop 128 ∧ k.cmd = none
          ∧ k.prio = min k.lpb.prio (((s.kernel? (s.kidOf s.cur)).map Kernel.prio).getD 0))
        ∧ (now = false → t.kernels = s.kernels ∧ ∃ l : Launch, t.launches = s.launches ++ [l] ∧ l.key = s.nextKey ∧ l.team = s.cur.id ∧ l.lpb = a
          ∧ l.ctx = s.ctxOf s.cur)))
  ∧ (∀ (s : State) (o : TwoOps) (p : Nat) (x : Xlat), s.cur.goes o.g → s.cur.cleanS [o.a, o.b] → s.quiet → s.numbered → s.tlbsTrue →
    (∀ e ∈ s.appends, e.key < s.nextKey) →
    let d := (s.cur.sval o.a).toNat
    let b := (s.cur.sval o.b).toNat
    (d % 256 ≠ 0 ∨ b % 256 ≠ 0 → Traps (.enq o) s (Trap.of 0x18 0))
    ∧ (d % 256 = 0 → b % 256 = 0 → s.locateRange .g needR b (pagesIn 256) 256 = .ok [(.phys p, 256)] → s.poisoned p 256 = false →
      ((s.physWord (p + 8)).toNat % 256 ∈ [4, 5, 6] → s.cur.mode = .program ∨ s.cur.mode = .user → Completes (.enq o) s fun t => t.appends = s.appends ∧ s.sameBytes t ∧ t.cur.fr.cause.toNat % 256 = 0x5C)
      ∧ ((s.physWord (p + 8)).toNat % 256 ∉ [4, 5, 6] → s.locate .g needRW d 64 = .ok x →
        Completes (.enq o) s fun t => s.issued t ∧ ∃ e : Append, t.appends = s.appends ++ [e] ∧ e.ctx = s.ctxOf s.cur ∧ e.desc = d ∧ e.block = b
          ∧ e.team = s.cur.id ∧ e.counted = true ∧ e.old = none ∧ e.accepted = s.outOk (s.coreOf s.cur.id.gid) (s.kidOf s.cur))))
  ∧ (∀ (s : State) (e : Append) (a : Nat), s.appends = [e] → e.accepted = true → e.old = none → e.desc < 2 ^ 57 → e.block < 2 ^ 57 → e.desc % 256 = 0 →
    relDone s e.team e.seq (some .pod) = true → s.devPlace e.ctx e.desc needRW = .ok a → s.rejects (.phys a) 8 = false →
    Completes (.appendSwap e.ctx (BitVec.ofNat 64 e.desc) (BitVec.ofNat 64 e.block)) s fun t => t.physWord a = BitVec.ofNat 64 e.block
      ∧ t.appends = [{ e with old := some (s.physWord a).toNat }] ∧ t.cur = s.cur ∧ t.others = s.others
      ∧ ∀ p, (Place.phys a).overlaps 8 p 1 = false → t.byteAt p = s.byteAt p)
  ∧ (∀ (s : State) (e : Append) (old a : Nat), s.appends = [e] → e.old = some old →
    let at_ := if old = e.desc then e.desc + 8 else old
    at_ % 8 = 0 → s.devPlace e.ctx at_ needW = .ok a → s.rejects (.phys a) 8 = false →
    Completes (.outstandingAck e.key) s fun t => t.physWord a = BitVec.ofNat 64 e.block ∧ t.appends = [] ∧ t.cur = s.cur ∧ t.others = s.others
      ∧ ∀ p, (Place.phys a).overlaps 8 p 1 = false → t.byteAt p = s.byteAt p)

/-- The walk of a queue: HEAD is taken, a block is read whole or stops the queue, its command is dispatched, NEXT is followed or the queue is empty again, and RST restarts a stopped queue (R298, R299, R301, R303).
That a block behind a remote window which is denied or lost stops the queue as one that cannot be translated is the model's choice of log 103, and what a LAUNCH dispatched in a faulted context gives the reading of log 32. -/
def Obligations.QueueWalk : Prop :=
  ∀ (s : State) (slot i : Nat) (q : QueueReg) (c : Ctx), s.queue? slot i = some q → s.ctx? slot = some c →
    (∀ j r, c.queues[j]? = some r → r.desc = q.desc → j = i) →
    let reads := fun ld : Load => ld.team == deviceId && ld.kind == .mat && ld.ctx == slot && ld.d == queueTag q.desc && !ld.written
    let fresh := s.loads.find? reads = none
    let now := fun (t : State) (r : QueueReg) => t.queue? slot i = some r ∧ t.cur = s.cur ∧ t.others = s.others
    (∀ a h, q.state = .empty → s.qePlace slot (q.desc + 8) needW = some a → s.qeWord slot (q.desc + 8) = some h → s.rejects (.phys a) 8 = false →
      (h % 2 ^ 57 = 0 → exec (.queueHeadWatch slot i) s = .next s)
      ∧ (h % 2 ^ 57 ≠ 0 → Completes (.queueHeadWatch slot i) s fun t => now t { q with state := .fetching, cur := h % 2 ^ 57 } ∧ t.physWord a = 0
        ∧ ∀ p, (Place.phys a).overlaps 8 p 1 = false → t.byteAt p = s.byteAt p))
    ∧ (q.state = .fetching →
      let stops := fun code => ∀ a, s.qePlace slot (q.desc + 24) needW = some a → s.rejects (.phys a) 8 = false →
        Completes (.queueBlockFetch slot i) s fun t => now t { q with state := .stopped }
          ∧ t.physWord a = BitVec.ofNat 64 (code * 2 ^ 60 + q.cur % 2 ^ 57) ∧ ∃ r ∈ t.reports, r.kind = 0x06 ∧ r.addr = q.desc ∧ r.ctx = slot
      (∀ bs, q.cur % 256 = 0 → fresh → s.qeRead slot q.cur 256 = some bs →
        Completes (.queueBlockFetch slot i) s fun t => now t { q with state := .held, block := (wordsOf bs 32).map (BitVec.ofNat 64), curCmd := none }
          ∧ s.sameBytes t)
      ∧ (q.cur % 256 ≠ 0 → stops 1)
      ∧ (∀ f, q.cur % 256 = 0 → fresh → s.translate c false needR q.cur = .error f → stops 2)
      ∧ (∀ a, q.cur % 256 = 0 → fresh → s.qePlace slot q.cur needR = some a → s.poisoned a 256 = true → stops 3)
      ∧ (∀ pte r a, q.cur % 256 = 0 → fresh → s.translate c false needR q.cur = .ok { pte, place := .peer r a } →
        Completes (.queueBlockFetch slot i) s fun t => now t q ∧ s.sameBytes t ∧ ∃ ld : Load, t.loads = s.loads ++ [ld] ∧ reads ld = true
          ∧ ld.lanes.map LoadLane.place = (List.range 32).map fun j => Place.peer r (a + 8 * j))
      ∧ (∀ ld, q.cur % 256 = 0 → s.loads.find? reads = some ld →
        (ld.lanes.all LoadLane.performed = false → exec (.queueBlockFetch slot i) s = .next s)
        ∧ (ld.lanes.all LoadLane.performed = true → (∀ l ∈ ld.lanes, l.bad = none) → Completes (.queueBlockFetch slot i) s fun t => s.sameBytes t
          ∧ now t { q with state := .held, block := ld.lanes.map fun l => BitVec.ofNat 64 l.value, curCmd := none })
        ∧ (∀ cause, ld.lanes.all LoadLane.performed = true → ld.lanes.findSome? LoadLane.bad = some cause → stops (if cause = 0x1D then 3 else 2))))
    ∧ (s.canDispatch slot q = true → s.isTurn q = true →
      Completes (.queueDispatch slot i) s fun t => s.sameBytes t ∧ ∃ r x, now t r ∧ r.state = .linking ∧ r.curCmd = some x.key ∧ r.cur = q.cur
        ∧ t.cmds = s.cmds ++ [x] ∧ s.nextKey ≤ x.key ∧ x.ctx = slot ∧ x.desc = q.desc ∧ x.block = q.cur ∧ x.words = q.block ∧ x.detached = false
        ∧ x.tl = (if (q.block.map BitVec.toNat)[1]?.getD 0 % 256 = 2 then s.qePlace slot ((q.block.map BitVec.toNat)[5]?.getD 0) needR else none)
        ∧ x.status = (dispatchCode c q).map (fun n => (n, 0)))
    ∧ (∀ next, q.state = .linking → (∀ k y, q.curCmd = some k → s.cmd? k = some y → s.waitFails y = false) → fresh →
      s.qeWord slot q.cur = some next →
      let detached := fun t : State => ∀ k, q.curCmd = some k → ∀ y ∈ t.cmds, y.key = k → y.detached = true
      (next % 2 ^ 57 ≠ 0 → Completes (.queueLink slot i) s fun t => now t { q with state := .fetching, cur := next % 2 ^ 57, curCmd := none }
        ∧ detached t ∧ s.sameBytes t)
      ∧ (∀ a, next % 2 ^ 57 = 0 → s.qeWord slot q.desc = some q.cur → s.qePlace slot q.desc needW = some a → s.rejects (.phys a) 8 = false →
        Completes (.queueLink slot i) s fun t => now t { q with state := .empty, curCmd := none } ∧ detached t ∧ t.physWord a = BitVec.ofNat 64 q.desc
          ∧ ∀ p, (Place.phys a).overlaps 8 p 1 = false → t.byteAt p = s.byteAt p)
      ∧ (next % 2 ^ 57 = 0 → s.qeWord slot q.desc ≠ some q.cur → exec (.queueLink slot i) s = .next s))
    ∧ (∀ r, q.state = .stopped → s.qeWord slot (q.desc + 16) = some r →
      (r % 2 = 0 → exec (.queueRestart slot i) s = .next s)
      ∧ (r % 2 = 1 → Completes (.queueRestart slot i) s fun t => now t { q with state := .empty, cur := 0, block := [], curCmd := none, waiting := none }
        ∧ ∀ x ∈ t.cmds, x.ctx = slot → x.desc = q.desc → x.detached = true ∧ q.waiting ≠ some x.key))

/-- The commands of a queue: NOP, LAUNCH, WAITTL, SIGTL and SETTLR have their effect once, and the completion writes the status of a detached block (R300, R301, R304).
What a LAUNCH of a faulted context gives is the reading of log 32, and that a WAITTL whose timeline UNMAP has taken stops its queue that of log 104. -/
def Obligations.QueueCommands : Prop :=
  ∀ (s : State) (c : Cmd) (x : Ctx), s.cmd? c.key = some c → s.ctx? c.ctx = some x →
    let ends := fun (t : State) (code : Nat) => t.cmd? c.key = some { c with started := true, status := some (code, 0) } ∧ t.cur = s.cur ∧ t.others = s.others
    (c.started = false → c.status = none → x.state ≠ .destroying →
      (c.code = 0 → Completes (.cmdNop c.key) s fun t => ends t 0 ∧ s.sameBytes t)
      ∧ (c.code = 1 → s.kernelsFull = false → Completes (.cmdLaunch c.key) s fun t => s.calm t ∧ t.cmd? c.key = some { c with started := true }
        ∧ ∃ k : Kernel, t.kernels = s.kernels ++ [k] ∧ s.nextKey ≤ k.kid ∧ k.ctx = c.ctx ∧ k.id = x.nextKernel ∧ k.state = .accepted
          ∧ k.raw = s.readLpb c.ctx (c.word 5) ∧ k.cmd = some c.key)
      ∧ (c.code = 2 →
        (∀ a, c.tl = some a → s.poisoned a 8 = false →
          ((s.physWord a).toNat < c.word 6 → exec (.cmdWaittl c.key) s = .next s)
          ∧ (c.word 6 ≤ (s.physWord a).toNat → Completes (.cmdWaittl c.key) s fun t => ends t 0 ∧ s.sameBytes t))
        ∧ (c.tl = none ∨ (∃ a, c.tl = some a ∧ s.poisoned a 8 = true) → (∃ q ∈ x.queues, q.desc = c.desc ∧ q.state ≠ .stopped) →
          Completes (.cmdWaittl c.key) s fun t => t.cur = s.cur ∧ t.others = s.others
            ∧ (∃ y, t.ctx? c.ctx = some y ∧ ∀ q ∈ y.queues, q.desc = c.desc → q.state = .stopped)
            ∧ ∃ r ∈ t.reports, r.kind = 0x06 ∧ r.addr = c.desc ∧ r.ctx = c.ctx))
      ∧ (c.code = 3 →
        (∀ a, c.word 5 % 8 = 0 → s.qePlace c.ctx (c.word 5) needW = some a → s.rejects (.phys a) 8 = false → s.poisoned a 8 = false →
          Completes (.cmdSigtl c.key) s fun t => ends t 0 ∧ t.physWord a = BitVec.ofNat 64 (max (s.physWord a).toNat (c.word 6))
            ∧ ∀ p, (Place.phys a).overlaps 8 p 1 = false → t.byteAt p = s.byteAt p)
        ∧ (c.word 5 % 8 ≠ 0 ∨ s.qePlace c.ctx (c.word 5) needW = none → Completes (.cmdSigtl c.key) s fun t => ends t 6 ∧ s.sameBytes t
          ∧ ∃ r ∈ t.reports, r.kind = 0x10 ∧ r.addr = c.word 5))
      ∧ (c.code = 4 → (∀ ld ∈ s.loads, ld.team ≠ deviceId) →
        (x.tableLen ≤ c.word 5 → Completes (.settlr c.key) s fun t => ends t 6 ∧ s.sameBytes t)
        ∧ (∀ bs a, c.word 5 < x.tableLen → s.qeRead c.ctx (c.word 6) 256 = some bs →
          (imageOk x bs = false → Completes (.settlr c.key) s fun t => ends t 6 ∧ s.sameBytes t)
          ∧ (imageOk x bs = true → x.table % 65536 = 0 → s.devPlace c.ctx (x.table + 256 * c.word 5) needNone = .ok a →
            Completes (.settlr c.key) s fun t => ends t 0 ∧ t.physRead a 256 = bs ∧ (∀ p, (Place.phys a).overlaps 256 p 1 = false → t.byteAt p = s.byteAt p)
              ∧ ∀ n, ∀ l ∈ (t.coreAt n).tlr, l.ctx = x.id → l.handle ≠ c.word 5))
        ∧ (∀ f, c.word 5 < x.tableLen → s.translate x false needR (c.word 6) = .error f → Completes (.settlr c.key) s fun t => ends t 6 ∧ s.sameBytes t)
        ∧ (∀ pte r a, c.word 5 < x.tableLen → s.translate x false needR (c.word 6) = .ok { pte, place := .peer r a } →
          Completes (.settlr c.key) s fun t => s.calm t ∧ t.cmds = s.cmds ∧ ∃ ld : Load, t.loads = s.loads ++ [ld] ∧ ld.team = deviceId ∧ ld.ctx = c.ctx
            ∧ ld.lanes.map LoadLane.place = (List.range 32).map fun j => Place.peer r (a + 8 * j))))
    ∧ (∀ code cause, c.status = some (code, cause) →
      (c.detached = false → exec (.commandCompletion c.key) s = .next s)
      ∧ (∀ r a, c.detached = true → c.told = false → s.linkPlace c.ctx (c.block + 32) needW = some (.peer r a) →
        Completes (.commandCompletion c.key) s fun t => s.calm t ∧ t.cmd? c.key = some { c with told := true } ∧ ∃ q : Post, t.posts = s.posts ++ [q]
          ∧ q.writes = [{ place := .peer r a, va := c.block + 32, data := leBytes 8 (256 * (cause % 256) + code), red := none, done := false }])
      ∧ (c.told = true → s.statusOut c = true → exec (.commandCompletion c.key) s = .next s)
      ∧ (∀ a, c.detached = true → c.told = false → c.word 2 % 2 ^ 57 = 0 → s.qePlace c.ctx (c.block + 32) needW = some a → s.rejects (.phys a) 8 = false →
        Completes (.commandCompletion c.key) s fun t => t.cmds = s.cmds.filter (fun y => y.key != c.key)
          ∧ t.physWord a = BitVec.ofNat 64 (256 * (cause % 256) + code) ∧ t.cur = s.cur ∧ t.others = s.others
          ∧ ∀ p, (Place.phys a).overlaps 8 p 1 = false → t.byteAt p = s.byteAt p))

/-! ### Pages and contexts -/

/-- MAP maps zeroed pages, taken from free memory, and resolves the notices of their regions, or it ends with status 6 and maps nothing; a 64 KiB page whose tables stand is then what a walk of its address gives, its bytes are zero, and no other byte but its entry changes (R250, R300, R315-R317, R324, R325). -/
def Claims.MapPages : Prop :=
  ∀ (s : State) (c : Cmd) (x : Ctx) (h : Choice), s.cmd? c.key = some c → s.ctx? c.ctx = some x → c.started = false → c.status = none →
    x.state ≠ .destroying → c.code = 5 →
    let va := c.word 5
    let len := c.word 6
    let attr := c.word 7
    let frame := bitsAt attr 16 24 * 65536
    let pages := len / sizeBytes (bitsAt attr 60 2)
    let ends := fun (t : State) (code : Nat) => t.cmd? c.key = some { c with started := true, status := some (code, 0) } ∧ t.cur = s.cur ∧ t.others = s.others
    (s.mapBad x va len attr = true → Completes (.map c.key h) s fun t => ends t 6 ∧ s.sameBytes t)
    ∧ (s.mapBad x va len attr = false → mapPages c.ctx x.root va attr frame pages (s, h.frames) = none →
      Completes (.map c.key h) s fun t => ends t 6 ∧ s.sameBytes t)
    ∧ (∀ s1 l, s.mapBad x va len attr = false → mapPages c.ctx x.root va attr frame pages (s, h.frames) = some (s1, l) →
      Completes (.map c.key h) s fun t => ends t 0 ∧ t.mem = s1.mem ∧ t.poison = s1.poison ∧ t.used = s1.used
        ∧ (∃ y, t.ctx? c.ctx = some y ∧ y.maps = x.maps + 1)
        ∧ ∀ n ∈ t.notices, n.ctx = c.ctx → 65536 * n.region < va + len → va < 65536 * n.region + 65536 → n.resolved = true)
    ∧ (∀ s1 l f e3, s.mapBad x va len attr = false → len = 65536 → bitsAt attr 57 5 = 0 →
      takeMem c.ctx 0 hbmSize 65536 (s, h.frames) = some ((s1, l), f) → s.leads x.root va e3 f 65536 →
      let leaf := BitVec.ofNat 64 (leafBits attr + f)
      s.leafOk 3 leaf = true →
      Completes (.map c.key h) s fun t => ends t 0 ∧ t.walk x.root va = .ok leaf ∧ (∀ j, j < 65536 → t.byte (f + j) = 0)
        ∧ t.poisoned f 65536 = false ∧ (c.ctx, f, 65536) ∈ t.used
        ∧ ∀ a, (a < f ∨ f + 65536 ≤ a) → (a < e3 ∨ e3 + 8 ≤ a) → t.byte a = s.byte a)

/-- UNMAP ends with status 6 where a part is not mapped, a page lies partly outside, or a region of CREATE or a combiner object is touched; it waits while an access through the old mapping is due; else no address of the range is mapped any more, no TLB holds one, and the frames are free, those of a peer apart (R251, R300, R321, R325). -/
def Claims.UnmapPages : Prop :=
  ∀ (s : State) (c : Cmd) (x : Ctx), s.cmd? c.key = some c → s.ctx? c.ctx = some x → c.started = false → c.status = none →
    x.state ≠ .destroying → c.code = 6 → c.tl = none →
    let va := c.word 5
    let len := c.word 6
    let ps := s.pagesOf x.root va (len / 65536 + 1) len
    let ends := fun (t : State) (code : Nat) => t.cmd? c.key = some { c with started := true, status := some (code, 0) } ∧ t.cur = s.cur ∧ t.others = s.others
    (ps = none ∨ len = 0 ∨ 2 ^ 57 < va + len ∨ (∃ r ∈ x.regions, clashes [r] va len = true) ∨ s.objectIn c.ctx va (va + len) = true →
      Completes (.unmap c.key) s fun t => ends t 6 ∧ s.sameBytes t)
    ∧ (∀ l, len ≠ 0 → va + len ≤ 2 ^ 57 → ps = some l → (∀ r ∈ x.regions, clashes [r] va len = false) → s.objectIn c.ctx va (va + len) = false →
      let waits := s.accessDue (rangesOf l) = true ∨ (∃ a ∈ s.appends, a.ctx = c.ctx ∧ clashes [(va, len)] a.desc 64 = true)
        ∨ ∃ b ∈ s.sent, b.ctx = c.ctx ∧ b.answer = none ∧ clashes [(va, len)] b.va 16 = true
      (waits → exec (.unmap c.key) s = .next s)
      ∧ (¬ waits → Completes (.unmap c.key) s fun t => ends t 0
        ∧ (x.root % 8 = 0 → ∀ v, va ≤ v → v < va + len → ∀ e, t.walk x.root v ≠ .ok e)
        ∧ (∀ n, ∀ tlb ∈ t.tlbsOf n, ∀ e ∈ tlb, e.ctx = x.id → va + len ≤ e.page * e.size ∨ e.page * e.size + e.size ≤ va)
        ∧ ∀ p ∈ l, pteKind p.2 ≠ 3 → ∀ u ∈ t.used, u.1 = c.ctx → u.2.1 ≠ pteFrame p.2))

/-- PAGE_WALK puts the entry that maps an address into the TLBs of the core, its quad and its die, from which a hit spares the walk, and nothing for an address without a translation; PAGE_MIGRATION moves a page only out of failing memory, once nothing is in flight there: its bytes and its poison stand in the new frame, and the walk gives the same permissions and kind there (R251, R320, R321, R326). -/
def Claims.WalkAndMigrate : Prop :=
  (∀ (s : State) (core slot : Nat) (va : Word) (c : Ctx), s.ctx? slot = some c →
    let hit := s.tlbHit core c.id va.toNat
    (∀ e, hit = some e ∨ (hit = none ∧ s.walk c.root va.toNat = .ok e) → Completes (.pageWalk core slot va) s fun t => s.calm t
      ∧ t = { s with cores := t.cores, quads := t.quads, dies := t.dies }
      ∧ let n : TlbEntry := { ctx := c.id, page := va.toNat / sizeBytes (pteSize e), size := sizeBytes (pteSize e), pte := e }
        n ∈ (t.coreAt core).tlb ∧ n ∈ (t.quadAt (quadKey core)).tlb ∧ ((s.dieAt (pcoreDie core)).lostWays < 8 → n ∈ (t.dieAt (pcoreDie core)).tlb))
    ∧ (∀ f, hit = none → s.walk c.root va.toNat = .error f → exec (.pageWalk core slot va) s = .next s))
  ∧ (∀ (s : State) (slot frame : Nat) (va : Word) (c : Ctx) (e : Word), s.ctx? slot = some c → s.walk c.root va.toNat = .ok e →
    let n := sizeBytes (pteSize e)
    let old := pteFrame e
    (pteKind e = 1 ∨ pteKind e = 3 ∨ s.failing old n = false ∨ s.accessDue [(.phys old, n)] = true ∨ s.engineDue [(.phys old, n)] = true →
      exec (.pageMigration slot va frame) s = .next s)
    ∧ (∀ s1 l e3, pteKind e = 0 ∨ pteKind e = 2 → pteSize e = 0 → s.failing old n = true → s.accessDue [(.phys old, n)] = false →
      s.engineDue [(.phys old, n)] = false → takeMem slot 0 hbmSize n (s, [frame]) = some ((s1, l), frame) → separate old n frame n →
      s.leads c.root va.toNat e3 frame n →
      let new := BitVec.ofNat 64 (leafBits e.toNat + frame)
      s.leafOk 3 new = true →
      Completes (.pageMigration slot va frame) s fun t => t.cur = s.cur ∧ t.others = s.others ∧ t.walk c.root va.toNat = .ok new
        ∧ (∀ j, j < n → t.byte (frame + j) = s.byte (old + j))
        ∧ (∀ j, j < n → t.poisoned (frame + j) 1 = s.poisoned (old + j) 1)
        ∧ (∀ a, (a < frame ∨ frame + n ≤ a) → (a < e3 ∨ e3 + 8 ≤ a) → t.byte a = s.byte a)
        ∧ (∀ u ∈ t.used, u.1 = slot → u.2.1 ≠ old)))

/-- The TLBs of a package hold what the walks give: after reset, and after a PAGE_WALK if before it (R320). -/
def Claims.TlbsStayTrue : Prop :=
  State.reset.tlbsTrue
  ∧ ∀ (s : State) (core slot : Nat) (va : Word), s.tlbsTrue → (∀ c ∈ s.ctxs, ∀ d ∈ s.ctxs, c.id = d.id → c = d) →
    Completes (.pageWalk core slot va) s State.tlbsTrue

/-- A fault notice goes into the ring under the next number, with a message of vector 1, where a place among 4,096 and room in the ring are free; one resolved already leaves no notice behind (R323, R324, R390). -/
def Claims.FaultNotices : Prop :=
  ∀ (s : State) (n : Notice), s.notices.find? (fun m => m.key == n.key) = some n → n.nseq = none →
    let full := 4096 ≤ (s.notices.filter fun m => m.nseq.isSome && !m.resolved).length ∨ 256 ≤ (2 ^ 32 + s.nwseq - s.nrseq) % 2 ^ 32
    (full → exec (.faultNoticeSend n.key) s = .next s)
    ∧ (¬ full → Completes (.faultNoticeSend n.key) s fun t => s.calm t ∧ t.nwseq = (s.nwseq + 1) % 2 ^ 32
      ∧ t.nextNotice = (s.nextNotice + 1) % 2 ^ 32 ∧ t.msix.get 0 1 = s.msix.get 0 1 + 1
      ∧ t.notices.find? (fun m => m.key == n.key) = (if n.resolved then none else some { n with nseq := some s.nextNotice })
      ∧ ∀ (i : Nat) (w : Nat), (n.words s.nextNotice)[i]? = some w → t.ring.get 0 (4 * (s.nwseq % 256) + i) = BitVec.ofNat 64 w)

/-- Pages: mapped, unmapped, walked and moved, and the notices of what is not mapped (R250, R251, R300, R315-R317, R320, R321, R323-R326, R390).
For what UNMAP and a page migration wait is the reading of log 35. -/
def Obligations.Pages : Prop := Claims.MapPages ∧ Claims.UnmapPages ∧ Claims.WalkAndMigrate ∧ Claims.TlbsStayTrue ∧ Claims.FaultNotices

/-! ### The management mailbox -/

/-- Every mailbox command is answered: too early or with the ROM alone with REASON 2, with an operand bit set that its row does not name with REASON 3, and an unknown code with REASON 1; without a pending command nothing happens (R386, R390, R419). -/
def Claims.MailboxAnswers : Prop :=
  (∀ (s : State) (h : Choice) (target : Nat) (i : Instr) (code : Nat) (masks : List Nat), (i, code, masks) ∈ mailCommands h target →
    (s.mailbox.pending = none → exec i s = .next s)
    ∧ (∀ c, s.mailbox.pending = some c → c.code ≠ code → exec i s = .next s)
    ∧ (∀ c, s.mailbox.pending = some c → c.code = code →
      (s.stage < (if code = 0x20 ∨ code = 0x21 ∨ code = 0x22 then 2 else 7) ∨ (s.firmware.romOnly = true ∧ code ≠ 0x20) → Refuses i s c 2)
      ∧ (s.mailed c code → (∃ k b, k < 8 ∧ (c.arg k).testBit b = true ∧ (nth 0 masks k).testBit b = false) → Refuses i s c 3)))
  ∧ (∀ (s : State) (c : MbCmd), s.mailbox.pending = some c →
    (c.code ∉ [0x10, 0x11, 0x12, 0x13, 0x14, 0x18, 0x19, 0x20, 0x21, 0x22, 0x30, 0x31, 0x32, 0x33, 0x34] → Refuses .mailboxUnknownCode s c 1)
    ∧ (c.code ∈ [0x10, 0x11, 0x12, 0x13, 0x14, 0x18, 0x19, 0x20, 0x21, 0x22, 0x30, 0x31, 0x32, 0x33, 0x34] → exec .mailboxUnknownCode s = .next s))

/-- CREATE makes a context in the lowest free slot, QREG and QDROP its queues, RECOVER takes it out of Faulted once its kernels are done, DESTROY ends its queues, groups and kernels, and its slot is free when nothing of it is in flight; PRETRY resolves a notice, PFAIL kills the groups that wait for it (R275, R298, R305-R307, R313, R314, R324, R419).
Which of REASON 3 and 5 a refusal gives where R419 leaves it open is the reading of log 33. -/
def Obligations.ContextCommands : Prop :=
  (∀ (s : State) (c : MbCmd) (h : Choice), s.mailed c 0x10 → argsIn (c.args.map BitVec.toNat)
      [ones 64, ones 57, ones 57, ones 57, ones 57, ones 57, ones 64, ones 57] = true →
    let x := ctxOfArgs (s.freeSlot.getD 64) (c.args.map BitVec.toNat)
    (x.ok = false → Refuses (.create h) s c 3)
    ∧ (x.ok = true → (∃ y ∈ s.ctxs, y.id = x.id) → Refuses (.create h) s c 5)
    ∧ (x.ok = true → (∀ y ∈ s.ctxs, y.id ≠ x.id) →
      (s.freeSlot = none → Refuses (.create h) s c 4)
      ∧ (∀ slot, s.freeSlot = some slot →
        (takeMem slot 0 hbmSize 262144 (s, h.frames) = none → Refuses (.create h) s c 4)
        ∧ (∀ b root s1 l, takeMem slot 0 hbmSize 262144 (s, h.frames) = some (b, root) →
          x.attrs.foldl (fun acc r => acc.bind fun b => mapPages slot root r.1.1 r.2 0 (r.1.2 / 65536) b) (some b) = some (s1, l) →
          Answers (.create h) s c 0 0 slot fun t => t.ctxs = s.ctxs ++ [{ x with root }] ∧ t.cur = s.cur ∧ t.others = s.others))))
  ∧ (∀ (s : State) (c : MbCmd) (x : Ctx), s.ctxById (c.arg 0 % 2 ^ 16) = some x → s.ctx? x.slot = some x →
    (s.mailed c 0x11 → c.arg 0 < 2 ^ 19 → c.arg 1 < 2 ^ 57 → argsIn (c.args.map BitVec.toNat) [ones 19, ones 57] = true →
      let d := c.arg 1
      (d % 256 ≠ 0 → Refuses .qreg s c 3)
      ∧ (d % 256 = 0 → 16 ≤ x.queues.length → Refuses .qreg s c 4)
      ∧ (d % 256 = 0 → x.queues.length < 16 → (∃ q ∈ x.queues, q.desc = d) ∨ s.freshQueue x.slot d = false → Refuses .qreg s c 5)
      ∧ (d % 256 = 0 → x.queues.length < 16 → (∀ q ∈ x.queues, q.desc ≠ d) → s.freshQueue x.slot d = true →
        Answers .qreg s c 0 0 0 fun t => s.calm t ∧ ∃ y, t.ctx? x.slot = some { x with queues := x.queues ++ [y] } ∧ y.desc = d
          ∧ y.prio = c.arg 0 / 2 ^ 16 % 4 ∧ y.privileged = (c.arg 0).testBit 18 ∧ y.state = .empty))
    ∧ (s.mailed c 0x12 → argsIn (c.args.map BitVec.toNat) [ones 16, ones 57] = true →
      ((∀ q ∈ x.queues, q.desc ≠ c.arg 1) → Refuses .qdrop s c 5)
      ∧ ((∃ q ∈ x.queues, q.desc = c.arg 1) → Answers .qdrop s c 0 0 0 fun t => s.calm t
        ∧ t.ctx? x.slot = some { x with queues := x.queues.filter fun q => q.desc != c.arg 1 }))
    ∧ (s.mailed c 0x13 → argsIn (c.args.map BitVec.toNat) [ones 16] = true →
      let ended := ∀ k ∈ s.kernels, k.ctx = x.slot → k.state = .done ∨ k.state = .abandoned
      (x.state = .faulted → ended → Answers .recover s c 0 0 0 fun t => t.ctx? x.slot = some { x with state := .active } ∧ t.cur = s.cur ∧ t.others = s.others)
      ∧ (x.state = .active ∨ ¬ ended → Refuses .recover s c 5))
    ∧ (s.mailed c 0x14 → argsIn (c.args.map BitVec.toNat) [ones 16] = true →
      Answers .destroy s c 0 0 0 fun t => t.ctx? x.slot = some { x with state := .destroying, queues := [] }
        ∧ (∀ g ∈ t.groups, g.ctx ≠ x.slot) ∧ (∀ k ∈ t.kernels, k.ctx = x.slot → k.state = .done ∨ k.state = .abandoned)
        ∧ (∀ q ∈ t.cmds, q.ctx ≠ x.slot) ∧ (∀ n ∈ t.notices, n.ctx ≠ x.slot) ∧ (∀ p ∈ t.plans, p.ctx = x.slot → p.state = .abandoned ∧ p.flying = true)
        ∧ ∀ w, (t.hwins.get HWin.off w).ctx = x.id → (t.hwins.get HWin.off w).en = false)
    ∧ (∀ n, s.noticeOf x.slot (c.arg 1) = some n → (∀ m ∈ s.notices, m.key = n.key → m = n) → argsIn (c.args.map BitVec.toNat) [ones 16, ones 32] = true →
      (s.mailed c 0x18 → Answers .pretry s c 0 0 0 fun t => s.calm t ∧ (∀ m ∈ t.notices, m.key ≠ n.key)
        ∧ ∀ g ∈ t.groups, g.gid ∈ n.waiters → g.state = .parked → g.awake = true)
      ∧ (∀ g, s.mailed c 0x19 → n.waiters = [g.gid] → s.group? g.gid = some g → g.state.live = true → Answers .pfail s c 0 0 0 fun t => s.sameButWaiters g.gid t
        ∧ (∀ m ∈ t.notices, m.key ≠ n.key) ∧ ∃ y, t.group? g.gid = some y ∧ y.state = .killed ∧ y.killCause = some 0x1A))
    ∧ (s.noticeOf x.slot (c.arg 1) = none → argsIn (c.args.map BitVec.toNat) [ones 16, ones 32] = true →
      (s.mailed c 0x18 → Refuses .pretry s c 5) ∧ (s.mailed c 0x19 → Refuses .pfail s c 5)))
  ∧ (∀ (s : State) (x : Ctx), s.ctx? x.slot = some x → x.state = .destroying → s.pruneLoads.ctxQuiet x.slot = true →
    Completes (.destructionComplete x.slot) s fun t => s.calm t ∧ t.ctxs = s.ctxs.filter (fun y => y.slot != x.slot) ∧ (∀ u ∈ t.used, u.1 ≠ x.slot) ∧ (∀ p ∈ t.plans, p.ctx ≠ x.slot)
      ∧ (∀ n, (∀ e ∈ (t.coreAt n).trains, e.ctx ≠ x.slot) ∧ ∀ e ∈ (t.coreAt n).lvt, e.2.ctx ≠ x.slot)
      ∧ ∀ n, (∀ tlb ∈ t.tlbsOf n, ∀ e ∈ tlb, e.ctx = x.id → 0 < e.size → 2 ^ 57 ≤ e.page * e.size) ∧ ∀ e ∈ (t.coreAt n).tlr, e.ctx ≠ x.id)
  ∧ (∀ (s : State) (x : Ctx), s.ctx? x.slot = some x → x.state ≠ .destroying ∨ s.pruneLoads.ctxQuiet x.slot = false →
    exec (.destructionComplete x.slot) s = .next s.pruneLoads)

/-- The other commands: FWSTAGE fills the inactive slot, FWACT makes a slot that passes its checks the active one, HEALTH counts the harvested units, HWIN opens a window on mapped pages, MIGRATE begins a migration, HALT and RESUME stop a group and let it go on, SLICE sets a time slice (R260, R266, R269, R373, R388, R419). -/
def Claims.ManagementCommands : Prop :=
  ∀ (s : State) (c : MbCmd),
    let a := c.args.map BitVec.toNat
    (s.mailed c 0x20 → argsIn a [ones 64, ones 64] = true →
      let off := c.arg 0
      let n := c.arg 1
      (off % 8 ≠ 0 ∨ n % 8 ≠ 0 ∨ n < 8 ∨ 65536 < n ∨ 16777216 < off + n → Refuses .fwstage s c 3)
      ∧ (off % 8 = 0 → n % 8 = 0 → 8 ≤ n → n ≤ 65536 → off + n ≤ 16777216 → Answers .fwstage s c 0 0 0 fun t => s.calm t
        ∧ readMap (t.firmware.slotOf (!s.firmware.activeB)) off n = readMap s.staging 0 n
        ∧ t.firmware.slotOf s.firmware.activeB = s.firmware.slotOf s.firmware.activeB ∧ t.firmware.activeB = s.firmware.activeB))
    ∧ (s.mailed c 0x21 → argsIn a [1] = true →
      (s.firmware.check (!s.firmware.activeB) ≠ 0 → Refuses .fwact s c 5)
      ∧ (s.firmware.check (!s.firmware.activeB) = 0 → Answers .fwact s c 0 0 0 fun t => s.calm t ∧ t.firmware = { s.firmware with
          activeB := !s.firmware.activeB,
          minVersion := if c.arg 0 = 1 then max s.firmware.minVersion (s.firmware.versionOf (!s.firmware.activeB)) else s.firmware.minVersion }))
    ∧ (s.mailed c 0x22 → argsIn a [] = true →
      let count := fun k => min 255 (s.harvest.filter fun u => healthKind u == k).length
      Answers .health s c 0 0 (count 0 + 2 ^ 8 * count 1 + 2 ^ 16 * count 2 + 2 ^ 24 * count 3) fun t =>
        t = { s with mailbox := t.mailbox, msix := t.msix })
    ∧ (s.mailed c 0x30 → argsIn a [0x1FFFFFFFF033F, 0x1FFFFFFFFFF0000] = true →
      let w := c.arg 0
      let size := w / 2 ^ 32 % 2 ^ 17
      let x : HWin := { en := w.testBit 8, w := w.testBit 9, size, ctx := w / 2 ^ 16 % 2 ^ 16, vbase := c.arg 1 }
      let put := Answers .hwin s c 0 0 0 fun t => s.calm t ∧ t.hwins.get HWin.off (w % 2 ^ 6) = x
        ∧ ∀ i, i ≠ w % 2 ^ 6 → t.hwins.get HWin.off i = s.hwins.get HWin.off i
      (65536 < size ∨ 2 ^ 57 < c.arg 1 + 65536 * size → Refuses .hwin s c 3)
      ∧ (size ≤ 65536 → c.arg 1 + 65536 * size ≤ 2 ^ 57 →
        (w.testBit 8 = false → put)
        ∧ (w.testBit 8 = true → s.ctxById x.ctx = none → Refuses .hwin s c 5)
        ∧ (∀ y, w.testBit 8 = true → s.ctxById x.ctx = some y →
          ((∀ i, i < size → s.mapped y (c.arg 1 + 65536 * i) = true) → put)
          ∧ ((∃ i, i < size ∧ s.mapped y (c.arg 1 + 65536 * i) = false) → Refuses .hwin s c 5))))
    ∧ (∀ target, s.mailed c 0x31 → argsIn a [ones 11] = true →
      let l := c.arg 0
      (1152 ≤ l → Refuses (.migrate target) s c 3)
      ∧ (l < 1152 → s.idleCore target = false ∨ (∃ r ∈ s.reserved, r.1 = l) ∨ (∃ g ∈ s.groupsOf l, ∀ k, s.kernel? g.kid = some k → k.lpb.mig = false) →
        Refuses (.migrate target) s c 5)
      ∧ (l < 1152 → s.groupsOf l = [] → s.idleCore target = true → (∀ r ∈ s.reserved, r.1 ≠ l) → Answers (.migrate target) s c 0 0 0 fun t =>
        t.reserved = s.reserved ++ [(l, target)] ∧ s.calm t)
      ∧ (∀ g k, l < 1152 → s.groupsOf l = [g] → s.group? g.gid = some g → g.state = .resident → s.kernel? g.kid = some k → k.lpb.mig = true →
        s.idleCore target = true → (∀ r ∈ s.reserved, r.1 ≠ l) → Answers (.migrate target) s c 0 0 0 fun t =>
          t.reserved = s.reserved ++ [(l, target)] ∧ s.sameBytes t ∧ ∃ h, t.group? g.gid = some h ∧ h.state = .saving ∧ h.cause = .migrate))
    ∧ (∀ x g, s.ctxById (c.arg 0 % 2 ^ 16) = some x → argsIn a [ones 16, ones 64, ones 31] = true → s.group? g.gid = some g →
      s.groups.find? (fun g => g.ctx == x.slot && g.index == c.arg 2 && ((s.kernel? g.kid).map Kernel.id == some (c.arg 1))) = some g →
      let moves := fun (i : Instr) (st : GState) => Answers i s c 0 0 0 fun t => s.calm t ∧ t.group? g.gid = some { g with state := st }
      (s.mailed c 0x32 → (g.state = .resident → moves .halt (.halted 0)) ∧ (g.state = .saving → moves .halt (.halted 1))
        ∧ (g.state = .parked → Refuses .halt s c 5))
      ∧ (s.mailed c 0x33 → (g.state = .halted 0 → g.migrateAsked = false → moves .resume .resident)
        ∧ (g.state = .halted 0 → g.migrateAsked = true → (∀ t ∈ s.teamsOf g.gid, t.faultPark = none) → Answers .resume s c 0 0 0 fun t =>
          s.sameBytes t ∧ ∃ h, t.group? g.gid = some h ∧ h.state = .saving ∧ h.cause = .migrate ∧ h.migrateAsked = false)
        ∧ (g.state = .halted 1 → moves .resume .saving)
        ∧ (g.state = .resident → Refuses .resume s c 5)))
    ∧ (s.mailed c 0x34 → argsIn a [0x3FF0003] = true →
      let n := c.arg 0 / 2 ^ 16 % 2 ^ 10
      (n = 0 ∨ 1000 < n → Refuses .slice s c 3)
      ∧ (1 ≤ n → n ≤ 1000 → Answers .slice s c 0 0 0 fun t => s.calm t ∧ t.slice (c.arg 0 % 4) = 94000 * n
        ∧ ∀ p, p ≠ c.arg 0 % 4 → t.slice p = s.slice p))

/-- The mailbox: which commands it takes and answers, and those of management (R387, R390-R394).
Which of REASON 2, 3 and 5 a refusal gives where R419 leaves it open is the reading of log 33. -/
def Obligations.MailboxCommands : Prop := Claims.MailboxAnswers ∧ Claims.ManagementCommands

/-! ### The host -/

/-- BAR 2: a read inside an enabled window answers the bytes of its page, a write puts them there, an AtomicOp does one operation and answers the old value; in a page of a peer each goes on its way there, and a read or an AtomicOp waits for the host's earlier writes; outside a window a read or an AtomicOp is an Unsupported Request and a write is discarded with a log entry (R373, R374). -/
def Obligations.HostWindows : Prop :=
  (∀ (s : State) (off n : Nat) (data : List Byte) (rlx wide : Bool) (op : HostAtom) (y z : Word),
    let x := s.hwins.get HWin.off (off / 2 ^ 32)
    (s.stage < 7 ∨ x.en = false ∨ 64 ≤ off / 2 ^ 32 ∨ 65536 * x.size < off % 2 ^ 32 + n →
      exec (.hostWindowRead off n) s = .next { s with hostReply := .unsupported })
    ∧ (s.stage < 7 ∨ x.en = false ∨ x.w = false ∨ 64 ≤ off / 2 ^ 32 ∨ 65536 * x.size < off % 2 ^ 32 + data.length →
      exec (.hostWindowWrite off data rlx) s = .next { s with aer := s.aer + 1 })
    ∧ (s.stage < 7 ∨ x.en = false ∨ x.w = false ∨ off % (if wide then 8 else 4) ≠ 0 →
      exec (.hostAtomicop off wide op y z) s = .next { s with hostReply := .unsupported }))
  ∧ (∀ (s : State) (off : Nat) (c : Ctx),
    let x := s.hwins.get HWin.off (off / 2 ^ 32)
    let va := x.vbase + off % 2 ^ 32
    7 ≤ s.stage → x.en = true → off / 2 ^ 32 < 64 → s.ctxById x.ctx = some c →
    (∀ n, off % 2 ^ 32 + n ≤ 65536 * x.size →
      (s.hostRuns c needR va n = none → exec (.hostWindowRead off n) s = .next { s with hostReply := .unsupported })
      ∧ (∀ rs, s.hostRuns c needR va n = some rs → s.hostWrites = true → exec (.hostWindowRead off n) s = .next s)
      ∧ (∀ p, s.hostRuns c needR va n = some [(.phys p, va, n)] → s.poisoned p n = false → s.hostIdle →
        Completes (.hostWindowRead off n) s fun t => t.hostReply = .value (s.physRead p n) ∧ s.calm t)
      ∧ (∀ r p, 0 < n → s.hostRuns c needR va n = some [(.peer r p, va, n)] → s.hostIdle →
        Completes (.hostWindowRead off n) s fun t => t.hostReply = .none ∧ s.calm t ∧ ∃ ld : Load, t.loads = s.loads ++ [ld] ∧ ld.team = hostId
          ∧ ld.kind = .load ∧ ld.lanes.map LoadLane.place = (List.range n).map fun i => Place.peer r (p + i)))
    ∧ (∀ data rlx, x.w = true → off % 2 ^ 32 + data.length ≤ 65536 * x.size →
      (s.hostRuns c needW va data.length = none → exec (.hostWindowWrite off data rlx) s = .next { s with aer := s.aer + 1 })
      ∧ (∀ p, s.hostRuns c needW va data.length = some [(.phys p, va, data.length)] → s.rejects (.phys p) data.length = false → s.hostIdle →
        Completes (.hostWindowWrite off data rlx) s fun t => t.physRead p data.length = data ∧ t.cur = s.cur ∧ t.others = s.others ∧ t.aer = s.aer
          ∧ ∀ q, (Place.phys p).overlaps data.length q 1 = false → t.byteAt q = s.byteAt q)
      ∧ (∀ r p, s.hostRuns c needW va data.length = some [(.peer r p, va, data.length)] →
        Completes (.hostWindowWrite off data rlx) s fun t => s.calm t ∧ t.aer = s.aer ∧ ∃ q : Post, t.posts = s.posts ++ [q]
          ∧ q.rel = (if rlx then none else some .pod) ∧ (rlx = false → q.team = hostId)
          ∧ q.writes = [{ place := .peer r p, va, data, red := none, done := false }]))
    ∧ (∀ wide op y z pte,
      let n := if wide then 8 else 4
      x.w = true → off % n = 0 → off % 2 ^ 32 + n ≤ 65536 * x.size →
      (∀ f, s.translate c false needRW va = .error f → exec (.hostAtomicop off wide op y z) s = .next { s with hostReply := .unsupported })
      ∧ (∀ pl, s.translate c false needRW va = .ok { pte, place := pl } → s.hostWrites = true → exec (.hostAtomicop off wide op y z) s = .next s)
      ∧ (∀ p, s.translate c false needRW va = .ok { pte, place := .phys p } → s.poisoned p n = false → s.rejects (.phys p) n = false → s.hostIdle →
        let old := fromBytes (s.physRead p n)
        Completes (.hostAtomicop off wide op y z) s fun t => t.hostReply = .value (s.physRead p n) ∧ t.cur = s.cur ∧ t.others = s.others
          ∧ t.physRead p n = leBytes n (match op with
            | .fetchAdd => old + y.toNat
            | .swap => y.toNat
            | .cas => if old = z.toNat % 2 ^ (8 * n) then y.toNat else old)
          ∧ ∀ q, (Place.phys p).overlaps n q 1 = false → t.byteAt q = s.byteAt q)))

/-- The registers of BAR 0: a command is submitted, or answered BUSY; the operands, NRSEQ, the staging buffer and the health blocks of the stacks take what is written, by their access codes; a measurement, an alert and a low margin show there, and after an alert the home holds the requests of its bank for 369 cycles (R6, R329, R330, R387, R390).
The offsets of NWSEQ and NRSEQ are the reading of log 37, the number of a bank and which rows are its neighbours the model's choices of log 69, and the list of the lanes to retrain the reading of log 106. -/
def Obligations.HostRegisters : Prop :=
  (∀ (s : State) (x : Word), 2 ≤ s.stage →
    (s.mailbox.pending = none → Completes (.registerWrite 0x1000 x) s fun t => s.calm t ∧ t.mailbox.arg = s.mailbox.arg ∧ t.mailbox.rsp = s.mailbox.rsp
      ∧ ∃ c, t.mailbox.pending = some c ∧ c.code = x.toNat % 256 ∧ c.seq = x.toNat / 2 ^ 16 % 2 ^ 16
        ∧ ∀ i, i < 8 → c.args[i]? = some (s.mailbox.arg.get 0 i))
    ∧ (∀ c, s.mailbox.pending = some c → Completes (.registerWrite 0x1000 x) s fun t => s.calm t ∧ t.mailbox.pending = some c
      ∧ t.mailbox.rsp = BitVec.ofNat 64 (x.toNat / 2 ^ 16 % 2 ^ 16 * 2 ^ 16 + 2) ∧ t.msix.get 0 0 = s.msix.get 0 0 + 1)
    ∧ (∀ i, i < 8 → Completes (.registerWrite (0x1008 + 8 * i) x) s fun t => t.bar0 (0x1008 + 8 * i) = x
      ∧ (∀ j, j ≠ i → t.mailbox.arg.get 0 j = s.mailbox.arg.get 0 j) ∧ t = { s with mailbox := { s.mailbox with arg := t.mailbox.arg } })
    ∧ Completes (.registerWrite 0x1F08 x) s (fun t => t = { s with nrseq := x.toNat % 2 ^ 32 } ∧ t.bar0 0x1F08 = BitVec.ofNat 64 (x.toNat % 2 ^ 32))
    ∧ (∀ i, i < 8192 → Completes (.registerWrite (0x10000 + 8 * i) x) s fun t => t.bar0 (0x10000 + 8 * i) = x ∧ t = { s with staging := t.staging })
    ∧ exec (.registerWrite 0 x) s = .next s ∧ exec (.registerWrite 8 x) s = .next s ∧ exec (.registerWrite 0x1080 x) s = .next s
    ∧ exec (.registerWrite 0x1F00 x) s = .next s)
  ∧ (∀ (s : State) (off : Nat) (x : Word), s.stage < 2 ∨ off % 8 ≠ 0 → exec (.registerWrite off x) s = .next s)
  ∧ (∀ (s : State) (k : Nat), k < 8 → 3 ≤ s.stage →
    let b := s.stackAt k
    let at_ := 0x100000 + 0x1000 * k
    let gives := fun (i : Instr) (h : Stack) => Completes i s fun t => t.stackAt k = h ∧ (∀ j, j ≠ k → t.stackAt j = s.stackAt j) ∧ t = { s with hbms := t.hbms }
    (∀ x : Word, gives (.hrowcfgWrite k x) { b with raat := max 64 (min 4096 (x.toNat % 2 ^ 13)) }
      ∧ (x.toNat % 2 ^ 12 ≤ 2111 → gives (.eyeselWrite k x) { b with eyesel := x.toNat % 2 ^ 12 })
      ∧ (2111 < x.toNat % 2 ^ 12 → exec (.eyeselWrite k x) s = .next s)
      ∧ gives (.registerWrite (at_ + 0x20) x) { b with vthr := x.toNat / 2 ^ 8 % 2 ^ 8, hthr := x.toNat % 2 ^ 8 }
      ∧ gives (.registerWrite (at_ + 0x28) x) { b with low := b.low && !x.getLsbD 0 })
    ∧ (∀ bank row, row < 2 ^ 20 →
      let at_ := fun r => 2 ^ 20 * bank + r
      let n := b.acts.get 0 (at_ row) + 1
      let counted := b.acts.set 0 (at_ row) n
      gives (.rowActivationAlert k { bank, row, refresh := true }) { b with acts := b.acts.set 0 (at_ row) 0 }
      ∧ (n ≠ b.raat → gives (.rowActivationAlert k { bank, row, refresh := false }) { b with acts := counted })
      ∧ (n = b.raat → 0 < row → row + 1 < 2 ^ 20 → gives (.rowActivationAlert k { bank, row, refresh := false })
        { b with
          acts := (counted.set 0 (at_ (row - 1)) 0).set 0 (at_ (row + 1)) 0, alerts := min (b.alerts + 1) (2 ^ 32 - 1),
          backoff := b.backoff.set 0 bank (s.clk + 369) })
      ∧ (n = b.raat → row = 0 → gives (.rowActivationAlert k { bank, row, refresh := false })
        { b with acts := counted.set 0 (at_ 1) 0, alerts := min (b.alerts + 1) (2 ^ 32 - 1), backoff := b.backoff.set 0 bank (s.clk + 369) })
      ∧ (n = b.raat → row + 1 = 2 ^ 20 → gives (.rowActivationAlert k { bank, row, refresh := false })
        { b with acts := counted.set 0 (at_ (row - 1)) 0, alerts := min (b.alerts + 1) (2 ^ 32 - 1), backoff := b.backoff.set 0 bank (s.clk + 369) }))
    ∧ (∀ lane v h inUse, lane ≤ 2111 →
      gives (.eyeMarginMeasurement k lane v h inUse) { b with eyes := b.eyes.set Eye.none lane { v := v.toNat, h := h.toNat, inUse } })
    ∧ (∀ lane,
      let e := b.eyes.get Eye.none lane
      (e.inUse = true → e.v < b.vthr ∨ e.h < b.hthr → Completes (.eyeMarginLow k lane) s fun t => t.stackAt k = { b with low := true }
        ∧ t.msix.get 0 2 = s.msix.get 0 2 + 1 ∧ (k, lane) ∈ t.retrains ∧ t = { s with hbms := t.hbms, msix := t.msix, retrains := t.retrains })
      ∧ (e.inUse = false ∨ (b.vthr ≤ e.v ∧ b.hthr ≤ e.h) → exec (.eyeMarginLow k lane) s = .next s)))

/-! ### Start-up, resets, errors and clamps -/

/-- The package passes through its stages in order, one that fails halts it; a reset returns it to stage 0 and a junction shutdown to stage 1 without contexts, under a new incarnation; the loss of the partition is recorded and reported, by the message that log 75 names, and leaves the cast-on stage alone (R21, R332, R361, R386-R389).
That a junction shutdown is a reset that reaches stage 1, and that the stage reads 2 after a partition loss, is the reading of log 38, and the form of FWERR after one failure that of log 33. -/
def Obligations.StartUp : Prop :=
  (∀ (s : State), (s.stage = 0 → exec .powerGood s = .next { s with stage := 1 }) ∧ (s.stage ≠ 0 → exec .powerGood s = .next s))
  ∧ (∀ (s : State) (harvested low : List Nat), 1 ≤ s.stage → s.stage < 7 → s.fail = false → s.partitionLost = false → s.firmware.romOnly = false →
    let up := fun (p : State → Prop) => Completes (.stageReached true harvested low) s p
    exec (.stageReached false harvested low) s = .next { s with fail := true }
    ∧ (s.stage = 1 → up fun t => s.calm t ∧ t.stage = 2
      ∧ (s.firmware.check s.firmware.activeB = 0 → t.firmware = { s.firmware with version := s.firmware.versionOf s.firmware.activeB } ∧ t.fwerr = s.fwerr)
      ∧ (s.firmware.check s.firmware.activeB ≠ 0 → s.firmware.check (!s.firmware.activeB) = 0 →
        t.firmware = { s.firmware with version := s.firmware.versionOf (!s.firmware.activeB) } ∧ t.fwerr = s.firmware.check s.firmware.activeB)
      ∧ (s.firmware.check s.firmware.activeB ≠ 0 → s.firmware.check (!s.firmware.activeB) ≠ 0 → t.firmware = { s.firmware with romOnly := true }
        ∧ t.fwerr = 16 * s.firmware.check false + s.firmware.check true))
    ∧ (s.stage = 2 ∨ s.stage = 3 → up fun t => t = { s with stage := s.stage + 1 })
    ∧ (s.stage = 4 → up fun t => t.stage = 5 ∧ t.clkBase = s.clk ∧ (∀ l, t.pcore l = l)
      ∧ (∀ n, n < 1152 → n ∈ harvested → ErrUnit.core n ∈ t.harvest ∧ t.outOfService.get false n = true)
      ∧ (∀ n, (∀ m ∈ harvested, m = n) → n ∈ harvested → n < 1152 → ErrUnit.core n ∉ s.harvest → t.msix.get 0 2 = s.msix.get 0 2 + 1)
      ∧ (∀ d, d < 4 → (t.dieAt d).lostWays = s.tlbHarvests d)
      ∧ t = { s with
        stage := 5, clkBase := s.clk, coreMap := [], harvest := t.harvest, outOfService := t.outOfService, msix := t.msix, dies := t.dies })
    ∧ (s.stage = 5 → ((∀ p ∈ s.ports, p.2.state ≠ .training) → up fun t => t = { s with stage := 6 })
      ∧ ((∃ p ∈ s.ports, p.2.state = .training) → exec (.stageReached true harvested low) s = .next s))
    ∧ (s.stage = 6 → up fun t => t.stage = 7 ∧ t = { s with stage := 7, splits := t.splits }))
  ∧ (∀ (s : State), s.stage = 7 ∨ s.stage = 0 → ∀ ok harvested low, exec (.stageReached ok harvested low) s = .next s)
  ∧ (∀ (s : State) (i : Instr) (n : Nat), (i = .reset ∧ n = 0) ∨ (i = .junctionShutdown ∧ s.stage ≠ 0 ∧ n = 1) →
    Completes i s fun t => t.stage = n ∧ t.incarnation = (s.incarnation + 1) % 256 ∧ t.ctxs = [] ∧ t.groups = [] ∧ t.kernels = [] ∧ t.others = []
      ∧ t.cur = Team.idle ∧ t.reports = [] ∧ t.apertures = [] ∧ t.fail = false ∧ t.partitionLost = false ∧ t.rank = s.rank ∧ t.podSize = s.podSize
      ∧ t.spare = s.spare ∧ t.harvest = s.harvest ∧ t.errors = s.errors ∧ t.firmware = { s.firmware with romOnly := false })
  ∧ (∀ (s : State),
    (2 ≤ s.stage → Completes .headerCrcFail s fun t => t.stage = 2 ∧ t.partitionLost = true ∧ t.partitionLosses = s.partitionLosses + 1 ∧ t.ctxs = []
      ∧ t.groups = [] ∧ t.kernels = [] ∧ t.others = [] ∧ t.cur = Team.idle ∧ t.reports = []
      ∧ t.mailbox = { s.mailbox with reports := s.mailbox.reports + 1 } ∧ t.msix.get 0 2 = s.msix.get 0 2 + 1)
    ∧ (s.stage < 2 → exec .headerCrcFail s = .next s))

/-- An error is recorded and its unit tested: a unit that fails, or that has a third error within an hour, is harvested; a core at 95 °C gives its groups to the coolest idle core of another quad; the clamps lower the clocks; a test on a core or a quad waits until no group is resident there; a router without traffic and with empty buffers powers down and wakes with a packet (R17, R332, R389, R392, R394).
That the clock returns to 940 MHz and drops by one step for each POWER_CLAMP is the reading of log 38, the units' numbers and a test that waits that of log 39; how the firmware's clock and limits arrive, and that a clamp ends 2 °C below a tighter limit, is the model's choice of log 94. -/
def Obligations.ErrorsAndClamps : Prop :=
  (∀ (s : State) (u : ErrUnit) (second : Nat), 2 ≤ s.stage → s.outOfUse u = false →
    let before := (s.errors.filter fun e => e.1 == u && decide (second ≤ e.2 + 3600)).length
    let idle := ∀ p ∈ unitCores u, ∀ g ∈ s.groups, g.state = .resident → s.pcore g.lcore ≠ p
    (u ∉ s.suspects → before < 2 → idle → Completes (.errorSelfTest u true second) s fun t => t.errors = s.errors ++ [(u, second)]
      ∧ t.harvest = s.harvest ∧ t = { s with errors := t.errors, hbms := t.hbms })
    ∧ (u ∉ s.suspects → before < 2 → ¬ idle → ∀ passed, Completes (.errorSelfTest u passed second) s fun t => t.errors = s.errors ++ [(u, second)]
      ∧ t = { s with errors := t.errors, hbms := t.hbms, suspects := s.suspects ++ [u] })
    ∧ (u ∈ s.suspects → idle → Completes (.errorSelfTest u true second) s fun t => u ∉ t.suspects ∧ t = { s with suspects := t.suspects })
    ∧ (u ∈ s.suspects → before < 2 → ¬ idle → ∀ passed, Completes (.errorSelfTest u passed second) s fun t => t.errors = s.errors ++ [(u, second)]
      ∧ t = { s with errors := t.errors, hbms := t.hbms })
    ∧ (∀ passed, (2 ≤ before ∧ (u ∉ s.suspects ∨ ¬ idle)) ∨ (idle ∧ passed = false) →
      (∀ k, u = .channel k → Completes (.errorSelfTest u passed second) s fun t => s.calm t ∧ t.harvest = s.harvest ++ [u] ∧ t.msix.get 0 2 = s.msix.get 0 2 + 1)
      ∧ (∀ d, u = .dieTlb d → Completes (.errorSelfTest u passed second) s fun t => s.calm t ∧ t.harvest = s.harvest ++ [u]
        ∧ (t.dieAt d).lostWays = (s.dieAt d).lostWays + 1 ∧ (t.dieAt d).tlb = [])
      ∧ (∀ n, u = .port n → Completes (.errorSelfTest u passed second) s fun t => t.harvest = s.harvest ++ [u] ∧ (t.portAt n).state = .failed
        ∧ (t.portAt n).lanes = 0)
      ∧ (∀ n, u = .msu n ∨ u = .bank n → Completes (.errorSelfTest u passed second) s fun t => t.stage = 2 ∧ t.partitionLost = true ∧ t.ctxs = []
        ∧ t.harvest = s.harvest ++ [u])
      ∧ (∀ n l, u = .core n → s.lcoreAt n = some l → s.groupsOf l = [] → (∀ r ∈ s.reserved, r.1 ≠ l ∧ r.2 ≠ n) →
        Completes (.errorSelfTest u passed second) s fun t => s.calm t ∧ t.harvest = s.harvest ++ [u] ∧ t.outOfService.get false l = true)))
  ∧ (∀ (s : State) (p : Nat), s.stage ≠ 0 → p < 1152 →
    let s1 := s.modCore p fun c => { c with celsius := max s.limits.trip c.celsius }
    (∀ l, s1.lcoreAt p = some l → (∀ g ∈ s1.groupsOf l, g.state ≠ .resident ∧ g.state ≠ .halted 0) → Completes (.thermalTrip p) s fun t => t = { s with cores := t.cores }
      ∧ s.limits.trip ≤ (t.coreAt p).celsius ∧ ∀ q, q ≠ p → t.coreAt q = s.coreAt q)
    ∧ (∀ l target g k, s1.lcoreAt p = some l → s1.groupsOf l = [g] → s.group? g.gid = some g → s.kernel? g.kid = some k →
      k.lpb.mig = true → s1.coolest p = some target → (∀ r ∈ s.reserved, r.1 ≠ l) →
      target / 4 ≠ p / 4 ∧ s1.idleCore target = true
      ∧ (g.state = .resident → Completes (.thermalTrip p) s fun t => t.reserved = s.reserved ++ [(l, target)] ∧ s.sameBytes t
        ∧ ∃ h, t.group? g.gid = some h ∧ h.state = .saving ∧ h.cause = .migrate)
      ∧ (g.state = .halted 0 → Completes (.thermalTrip p) s fun t => t.reserved = s.reserved ++ [(l, target)] ∧ s.sameBytes t
        ∧ ∃ h, t.group? g.gid = some h ∧ h.state = .halted 0 ∧ h.migrateAsked = true)))
  ∧ (∀ (s : State) (d q : Nat) (r : Reading), s.stage ≠ 0 → d < 4 → q < 72 →
    let x := s.quadAt (72 * d + q)
    let l := tighten s.limits r.fw.limits
    let want := min 940 (r.fw.clock.getD x.want)
    Completes (.clockClamp d q r) s fun t => s.calm t ∧ (∀ i, i < 4 → (t.coreAt (4 * (72 * d + q) + i)).celsius = r.value)
      ∧ t.limits = l ∧ (t.quadAt (72 * d + q)).want = want
      ∧ (t.quadAt (72 * d + q)).cap = (if r.value < l.clamp - 2 then 940
        else if (l.clamp ≤ r.value ∨ x.cap < 940) ∧ (x.cap = 940 ∨ x.clampAt + 9400 ≤ s.clk) then max 470 (min x.cap want - 94) else x.cap)
      ∧ (t.quadAt (72 * d + q)).clock = min (t.quadAt (72 * d + q)).cap want ∧ ∀ k, k ≠ 72 * d + q → t.quadAt k = s.quadAt k)
  ∧ (∀ (s : State) (r : Reading), s.stage ≠ 0 →
    let l := tighten s.limits r.fw.limits
    let want := min 940 (r.fw.clock.getD s.clockWant)
    Completes (.powerClamp r) s fun t => t.clock = min t.clockCap want ∧ t = { s with
      limits := l, clockWant := want,
      clockCap := if l.watts < r.value ∨ (r.value = l.watts ∧ s.clockCap < 940) then min s.clockCap want - 94 else 940 })
  ∧ (∀ (l n : Limits), tighten l none = l ∧ tighten l (some n) = { trip := min l.trip n.trip, clamp := min l.clamp n.clamp, watts := min l.watts n.watts })
  ∧ (∀ (s : State) (d r : Nat), d < 4 → r < 98 →
    (s.passing d r = 0 → (s.dieAt d).idleSince.get 0 r + 4096 ≤ s.msuNow → Completes (.routerPowerDown d r) s fun t =>
      (t.dieAt d).down.get false r = true ∧ (∀ q, q ≠ r → (t.dieAt d).down.get false q = (s.dieAt d).down.get false q) ∧ t = { s with dies := t.dies })
    ∧ (s.passing d r ≠ 0 ∨ s.msuNow < (s.dieAt d).idleSince.get 0 r + 4096 → exec (.routerPowerDown d r) s = .next s)
    ∧ Completes (.routerWake d r) s fun t => (t.dieAt d).down.get false r = false ∧ (t.dieAt d).idleSince.get 0 r = s.msuNow ∧ t = { s with dies := t.dies })

/-! ### Re-shard plans -/

/-- RSH checks the progress record and the two tensor records, and then begins a plan, resumes one, finds it completed, or faults with what a check found: while another plan holds its record its team stands at it, and while the engine has no room it waits and its team goes on (R48, R379, R381, R383, R384). -/
def Claims.PlansByTeams : Prop :=
  ∀ (s : State) (o : TwoOps) (p : Nat) (t1 t2 : Tlr), s.cur.goes o.g → s.cur.cleanS [o.a, o.b] → s.quiet → s.numbered →
    (∀ a ∈ s.asks, a.team ≠ s.cur.id ∧ a.key < s.nextKey) →
    let src := (s.cur.sval o.a).toNat % 2 ^ 16
    let dst := (s.cur.sval o.a).toNat / 2 ^ 16 % 2 ^ 16
    let rec_ := (s.cur.sval o.b).toNat
    let slot := s.ctxOf s.cur
    let r : PlanReq := { ctx := slot, rec_, src, dst, t1, t2, words := (List.range 64).map fun i => (s.physWord (p + 8 * i)).toNat }
    let asks := fun (t : State) (c : Option Bool) => ∃ a : PlanAsk, t.asks = s.asks ++ [a] ∧ a.team = s.cur.id ∧ a.cmd = none ∧ a.req = r ∧ a.checked = c
    let busy := (∃ q ∈ s.plans, q.ctx = slot ∧ q.rec_ = rec_) ∨ ∃ a ∈ s.asks, a.req.ctx = slot ∧ a.req.rec_ = rec_ ∧ a.checked.isSome = true
    let room := (s.plans.filter fun q => q.state != .abandoned).length < 8 ∧ s.outOk (s.coreOf s.cur.id.gid) (s.kidOf s.cur) = true
    (rec_ % 512 ≠ 0 → Traps (.rsh o) s (Trap.of 0x18 rec_))
    ∧ (rec_ % 512 = 0 → s.locateRange .g needRW rec_ (pagesIn 512) 512 = .ok [(.phys p, 512)] → s.poisoned p 512 = false →
      s.tlr src = .ok t1 → s.tlr dst = .ok t2 →
      (busy → Completes (.rsh o) s fun t => s.calm t ∧ t.plans = s.plans ∧ asks t none)
      ∧ (¬ busy →
        (∀ c a, s.planCheck r = .fault c a → s.cur.mode = .program ∨ s.cur.mode = .user → Completes (.rsh o) s fun t => t.plans = s.plans ∧ s.sameBytes t
          ∧ t.cur.mode = .system ∧ t.cur.fr.cause.toNat % 256 = c ∧ t.cur.fr.addr = BitVec.ofNat 64 a)
        ∧ (s.planCheck r = .completed → Completes (.rsh o) s fun t => s.issued t ∧ t.plans = s.plans ∧ t.asks = s.asks)
        ∧ (∀ again : Bool, s.planCheck r = (if again then .resume else .new) →
          (¬ room → Completes (.rsh o) s fun t => s.issued t ∧ t.plans = s.plans ∧ asks t (some again))
          ∧ (room → Completes (.rsh o) s fun t => t.cur = s.cur.passed ∧ t.others = s.others
            ∧ (∃ q : Plan, t.plans = s.plans ++ [q] ∧ q.ctx = slot ∧ q.rec_ = rec_ ∧ q.src = src ∧ q.dst = dst ∧ q.t1 = t1 ∧ q.t2 = t2 ∧ q.state = .computing
              ∧ q.team = s.cur.id ∧ q.num = s.tlNext s.cur.id.gid 21 ∧ q.cmd = none ∧ q.resumed = again ∧ q.steps = []
              ∧ q.total = (planBoxes t1 t2).length ∧ q.expb = s.expBytes r)
            ∧ (s.linkPlace slot rec_ needW = some (.phys p) → s.rejects (.phys p) 8 = false →
              t.physWord p = BitVec.ofNat 64 (dst * 2 ^ 48 + src * 2 ^ 32 + bitsAt (s.physWord p).toNat 8 8 * 2 ^ 8 + 1)
              ∧ ∀ x, (Place.phys p).overlaps 8 x 1 = false → t.byteAt x = s.byteAt x)))))

/-- The RESHARD command makes the checks of RSH in the context of its queue and ends with what they find, or begins a plan; it waits while its record is held or the engine has no room, and while a record at a peer is read (R383, R385). -/
def Claims.PlansByQueues : Prop :=
  ∀ (s : State) (c : Cmd) (x : Ctx) (t1 t2 : Tlr), s.cmd? c.key = some c → s.ctx? c.ctx = some x → c.started = false → c.status = none →
    x.state ≠ .destroying → c.code = 7 → (∀ ld ∈ s.loads, ld.team ≠ deviceId) → (∀ a ∈ s.asks, a.key < s.nextKey) →
    let src := c.word 5 % 2 ^ 16
    let dst := c.word 5 / 2 ^ 16 % 2 ^ 16
    let rec_ := c.word 6
    let held := (s.plans.filter fun q => q.state != .abandoned).length
    let ends := fun (t : State) (code cause : Nat) => t.cmd? c.key = some { c with started := true, status := some (code, cause) } ∧ s.calm t ∧ t.plans = s.plans
    let begins := fun (r : PlanReq) (again : Bool) => Completes (.reshard c.key) s fun t => t.cur = s.cur ∧ t.others = s.others
      ∧ t.cmd? c.key = some { c with started := true } ∧ ∃ q : Plan, t.plans = s.plans ++ [q] ∧ q.ctx = r.ctx ∧ q.rec_ = r.rec_ ∧ q.state = .computing
        ∧ q.cmd = some c.key ∧ q.resumed = again
    ((∀ a ∈ s.asks, a.cmd ≠ some c.key) →
      (rec_ % 512 ≠ 0 → Completes (.reshard c.key) s fun t => ends t 7 0x18)
      ∧ (∀ f, rec_ % 512 = 0 → s.translate x false needRW rec_ = .error f → Completes (.reshard c.key) s fun t => ends t 7 f.cause)
      ∧ (∀ pte r a, rec_ % 512 = 0 → s.translate x false needRW rec_ = .ok { pte, place := .peer r a } → Completes (.reshard c.key) s fun t =>
        s.calm t ∧ t.plans = s.plans ∧ t.cmds = s.cmds ∧ ∃ ld : Load, t.loads = s.loads ++ [ld] ∧ ld.team = deviceId ∧ ld.ctx = c.ctx
          ∧ ld.lanes.map LoadLane.place = (List.range 64).map fun i => Place.peer r (a + 8 * i))
      ∧ (∀ pte a, rec_ % 512 = 0 → s.translate x false needRW rec_ = .ok { pte, place := .phys a } →
        (s.qeRead c.ctx rec_ 512 = none → Completes (.reshard c.key) s fun t => ends t 7 cPoisoned)
        ∧ (∀ bs, s.qeRead c.ctx rec_ 512 = some bs →
          (∀ tr, s.tlrCheck 4096 c.ctx src = .error tr → Completes (.reshard c.key) s fun t => ends t 7 tr.cause)
          ∧ (∀ tr, s.tlrCheck 4096 c.ctx src = .ok t1 → s.tlrCheck 4096 c.ctx dst = .error tr → Completes (.reshard c.key) s fun t => ends t 7 tr.cause)
          ∧ (s.tlrCheck 4096 c.ctx src = .ok t1 → s.tlrCheck 4096 c.ctx dst = .ok t2 →
            let r : PlanReq := { ctx := c.ctx, rec_, src, dst, t1, t2, words := wordsOf bs 64 }
            let waits := fun (ch : Option Bool) => Completes (.reshard c.key) s fun t => s.calm t ∧ t.plans = s.plans ∧ t.cmds = s.cmds
              ∧ ∃ q : PlanAsk, t.asks = s.asks ++ [q] ∧ q.cmd = some c.key ∧ q.req = r ∧ q.checked = ch
            let busy := (∃ q ∈ s.plans, q.ctx = c.ctx ∧ q.rec_ = rec_) ∨ ∃ q ∈ s.asks, q.req.ctx = c.ctx ∧ q.req.rec_ = rec_ ∧ q.checked.isSome = true
            (busy → waits none)
            ∧ (¬ busy →
              (∀ cause y, s.planCheck r = .fault cause y → Completes (.reshard c.key) s fun t => ends t 7 cause)
              ∧ (s.planCheck r = .completed → Completes (.reshard c.key) s fun t => ends t 0 0)
              ∧ (∀ again : Bool, s.planCheck r = (if again then .resume else .new) →
                (8 ≤ held → waits (some again)) ∧ (held < 8 → begins r again)))))))
    ∧ (∀ q again, s.asks.find? (fun y => y.cmd == some c.key) = some q → s.planBusy q = false → q.reread = false → q.checked = some again → held < 8 →
      begins q.req again)

/-- RSH and the RESHARD command (R379, R381, R383-R385). -/
def Claims.PlansBegin : Prop := Claims.PlansByTeams ∧ Claims.PlansByQueues

/-- The events of a plan: it runs once it is computed, or fails where its tensors changed; its runs are sent in order, checked each, and counted off as they are acknowledged; a denied run, a lost target or a changed record drains it, and drained it ends with its report once its record's last words are written (R377-R381, R385). -/
def Claims.PlansRun : Prop :=
  ∀ (s : State) (p : Plan), s.plan? p.key = some p →
    let gone := fun t : State => t.plans = s.plans.filter fun x => x.key != p.key
    let ended := fun (t : State) => gone t ∨ ∃ q, t.plan? p.key = some q ∧ q.state = .ending ∧ t.recPosted q = true
    let drains := fun (t : State) (cause : Nat) => t.plan? p.key = some { p with state := .draining, cause }
    let reported := fun (t : State) (kind cause : Nat) => ∃ r ∈ t.reports, r.kind = kind ∧ r.cause = cause ∧ r.addr = p.rec_ ∧ r.ctx = p.ctx
    let steps := s.planSteps p
    let goes := p.lost = false ∧ p.changed = false
    (p.state = .computing →
      (p.resumed = true → bitsAt (p.word 1) 32 32 ≠ p.phash → Completes (.planCompute p.key) s fun t => ended t ∧ reported t 0x09 0x58
        ∧ t.cur = s.cur ∧ t.others = s.others
        ∧ (∀ a, s.linkPlace p.ctx p.rec_ needW = some (.phys a) → (∀ q ∈ s.posts, q.team ≠ deviceId) → s.rejects (.phys a) 8 = false →
          gone t ∧ t.physWord a = BitVec.ofNat 64 (p.dst * 2 ^ 48 + p.src * 2 ^ 32 + 0x58 * 2 ^ 8 + 4)))
      ∧ (p.resumed = false ∨ bitsAt (p.word 1) 32 32 = p.phash →
        ((∃ t ∈ steps, t.complete = false) → Completes (.planCompute p.key) s fun t =>
          (∃ q, t.plan? p.key = some q ∧ q.state = .running ∧ q.steps = steps)
          ∧ (p.resumed = true ∨ p.bar = none → t.cur = s.cur ∧ t.others = s.others))
        ∧ ((∀ t ∈ steps, t.complete = true) → Completes (.planCompute p.key) s ended))
      ∧ (∀ a, p.resumed = true → bitsAt (p.word 1) 32 32 = p.phash → (∃ t ∈ steps, t.complete = false) → s.linkPlace p.ctx p.rec_ needW = some (.phys a) →
        s.rejects (.phys a) 8 = false → Completes (.planCompute p.key) s fun t =>
          t.physWord a = BitVec.ofNat 64 (p.dst * 2 ^ 48 + p.src * 2 ^ 32 + bitsAt (p.word 0) 8 8 * 2 ^ 8 + 1)
          ∧ ∀ q, (Place.phys a).overlaps 8 q 1 = false → t.byteAt q = s.byteAt q))
    ∧ (p.state = .running →
      (p.lost = true → Completes (.planStop p.key .peerLost) s fun t => drains t 0x52 ∧ t = { s with plans := t.plans })
      ∧ (p.changed = true → Completes (.planStop p.key .recordChanged) s fun t => drains t 0x58 ∧ t = { s with plans := t.plans })
      ∧ (goes → ∀ e, exec (.planStop p.key e) s = .next s)
      ∧ (¬ goes → exec (.reshardRunSend p.key) s = .next s)
      ∧ (∀ (t : PlanStep) (c : Ctx), goes → p.steps.find? (fun t => !t.skip && decide (t.first + t.sent < t.runs)) = some t → s.ctx? p.ctx = some c →
        let r := runOf p t (t.first + t.sent) p.t1 p.t2
        let with_ := fun (u : PlanStep) => { p with steps := p.steps.map fun x => if x.index = t.index then u else x }
        let able := s.runReadOk p (s.ctxRunsAt c needR r.src r.bytes) = true
          ∧ (if t.pkg = s.rank then s.runWriteOk p (s.ctxRunsAt c needW r.dst r.bytes) else s.runRoom t.pkg) = true
        let going := t.started = true ∧ t.inc = s.incOf t.pkg
        (∀ f, s.runCheck c t r = some f → Completes (.reshardRunSend p.key) s fun u => drains u f.cause ∧ s.calm u)
        ∧ (s.runCheck c t r = none → ¬ able → exec (.reshardRunSend p.key) s = .next s)
        ∧ (s.runCheck c t r = none → able → ¬ going → Completes (.reshardRunSend p.key) s fun u => u.cur = s.cur ∧ u.others = s.others
          ∧ ∃ q, u.plan? p.key = some q ∧ q.state = .running
            ∧ q.steps = (with_ { t with sent := t.sent + 1, started := true, inc := s.incOf t.pkg }).steps)
        ∧ (s.runCheck c t r = none → able → going →
          let next := with_ { t with sent := t.sent + 1 }
          (t.pkg ≠ s.rank → Completes (.reshardRunSend p.key) s fun u => u.plan? p.key = some next ∧ s.calm u)
          ∧ (∀ a b, t.pkg = s.rank → s.ctxRunsAt c needR r.src r.bytes = [(.phys a, r.bytes)] → s.ctxRunsAt c needW r.dst r.bytes = [(.phys b, r.bytes)] →
            s.poisoned a r.bytes = false → s.rejects (.phys b) r.bytes = false → Completes (.reshardRunSend p.key) s fun u => u.plan? p.key = some next
              ∧ u.physRead b r.bytes = s.physRead a r.bytes ∧ u.cur = s.cur ∧ u.others = s.others
              ∧ ∀ q, (Place.phys b).overlaps r.bytes q 1 = false → u.byteAt q = s.byteAt q))))
    ∧ (∀ (t : PlanStep) (n : Nat), p.steps.find? (fun x => x.index == t.index && x.flying n) = some t → n < 2 ^ 32 →
      let with_ := fun (u : PlanStep) => { p with steps := p.steps.map fun x => if x.index = t.index then u else x }
      let acked := { t with acked := n :: t.acked }
      let denied := { t with denied := n :: t.denied }
      let told := fun (u : State) => s.calm u ∧ ∃ r ∈ u.reports, r.kind = 0x07 ∧ r.cause = 0x53 ∧ r.addr = (runOf p t n p.t1 p.t2).dst ∧ r.ctx = p.ctx
      (p.state = .running ∨ p.state = .draining → t.pkg ≠ s.rank →
        (p.state = .running → goes → Completes (.reshardRunAck p.key (t.index * 2 ^ 32 + n) true) s fun u => told u
          ∧ u.plan? p.key = some { with_ denied with state := .draining, cause := 0x53 })
        ∧ (p.state = .draining ∨ ¬ goes → Completes (.reshardRunAck p.key (t.index * 2 ^ 32 + n) true) s fun u => told u
          ∧ u.plan? p.key = some (with_ denied))
        ∧ (acked.complete = false → Completes (.reshardRunAck p.key (t.index * 2 ^ 32 + n) false) s fun u => s.calm u
          ∧ u.plan? p.key = some (with_ acked)))
      ∧ (p.state = .running ∨ p.state = .draining → acked.complete = false →
        Completes (.reshardRunAck p.key (t.index * 2 ^ 32 + n) false) s fun u => u.plan? p.key = some (with_ acked))
      ∧ (p.state = .running → goes → (∀ x ∈ (with_ acked).steps, x.complete = true) →
        Completes (.reshardRunAck p.key (t.index * 2 ^ 32 + n) false) s ended)
      ∧ (t.pkg = s.rank → exec (.reshardRunAck p.key (t.index * 2 ^ 32 + n) true) s = .next s)
      ∧ (p.state = .abandoned → t.pkg ≠ s.rank → ∀ d, Completes (.reshardRunAck p.key (t.index * 2 ^ 32 + n) d) s fun u => s.calm u
        ∧ u.reports = s.reports ∧ u.plan? p.key = some (with_ acked)))
    ∧ (p.state = .abandoned → (p.flying = true → exec (.planDrained p.key) s = .next s)
      ∧ (p.flying = false → Completes (.planDrained p.key) s fun t => gone t ∧ s.calm t ∧ t.reports = s.reports))
    ∧ (p.state = .draining →
      (p.flying = true → exec (.planDrained p.key) s = .next s)
      ∧ (p.flying = false → Completes (.planDrained p.key) s fun t => ended t
        ∧ reported t (if p.cause = 0x58 then 0x09 else 0x08) p.cause))
    ∧ (p.state = .ending → (s.recPosted p = true → exec (.planDrained p.key) s = .next s)
      ∧ (s.recPosted p = false → Completes (.planDrained p.key) s fun t => gone t ∧ s.calm t))

/-- A reshard plan from its acceptance to its record's last word (R375-R385).
That the engine works with the record's words as it read and wrote them, and that a request which waits for room holds its record, is the reading of log 77; that a denied run drains the plan with cause 0x53 is that of log 40. -/
def Obligations.Plans : Prop := Claims.PlansBegin ∧ Claims.PlansRun

/-! ### Steps -/

/-- With no other turn due, a step runs the instruction that the next word of the open clause decodes to: it is `exec` of it, held where a register it uses is pending or an acquiring FENCE of its team still waits, and a trap where a fault came to it while it was held, where the word is illegal, or where a method may not run it (R45, R49, R60, R232, R343, R418).
An agenda (log 1) takes its turns first: the event of a table, of those of its cycle the one whose row comes first, which an instruction word cannot stand for; the turn of a team; or cycles. -/
def Obligations.StepRunsDecoded : Prop :=
  (∀ (s : State) (w : Word), s.agenda = [] → s.cur.nextWord = some w → s.cur.heldFault = none →
    (s.mayIssue s.cur = false → step s = .next s)
    ∧ (∀ i, s.mayIssue s.cur = true → decodeWord s.cur.env w = .ok i →
      let held := (∃ r ∈ usesOf s.cur.env i, r ∈ s.pending s.cur) ∨ s.fenceHolds i = true
      (s.cur.mode ≠ .method ∨ methodOk i = true → (¬ held → step s = exec i s) ∧ (held → step s = .next s))
      ∧ (s.cur.mode = .method → methodOk i = false → step s = .next (s.trap (Trap.illegal 7 0))))
    ∧ (∀ slot, s.mayIssue s.cur = true → decodeWord s.cur.env w = .error slot → ∃ tr, step s = .next (s.trap tr) ∧ tr.cause = 0x10 ∧ tr.opnd % 256 = slot.code))
  ∧ (∀ (s : State) (l : List Turn),
    (∀ x, s.agenda = x :: l →
      let t : State := { s with agenda := (x :: l).erase (s.firstOf x l) }
      ∀ i, s.firstOf x l = .event i → (encodeWord i = none → step s = exec i t) ∧ (encodeWord i ≠ none → step s = .next t))
    ∧ (∀ x, (∀ y ∈ thisCycle l, s.sooner y x = false) → s.firstOf x l = x)
    ∧ (∀ n, s.agenda = .tick n :: l → ∃ t, step s = .next t ∧ t.clk = s.clk + n ∧ t.agenda = l
      ∧ ((∀ ld ∈ s.loads, ld.ready = false) → s.calm t))
    ∧ (s.agenda = .issue s.cur.id :: l → l = [] → step s = step { s with agenda := [] }))

/-- A step keeps memory, poison marks, guard marks and scratchpads in their canonical form: equal contents are equal data (log 4). -/
def Obligations.StepKeepsForm : Prop :=
  ∀ s t : State, s.wf = true → step s = .next t → t.wf = true

/-- What reset leaves: stage 0, nothing enabled, mapped, resident or in flight, the arithmetic clock at 940 MHz, health blocks as R329 and R330 reset them, memory in its canonical form, and a step that stays there until an event comes (R329, R330, R355, R373, R386, R389).
That every byte reads 0 is the model's choice (log 4). -/
def Obligations.ResetState : Prop :=
  let s := State.reset
  s.wf = true ∧ s.stage = 0 ∧ s.fail = false ∧ s.ctxs = [] ∧ s.groups = [] ∧ s.kernels = [] ∧ s.others = [] ∧ s.loads = [] ∧ s.posts = [] ∧ s.engs = []
    ∧ s.plans = [] ∧ s.mailbox.pending = none ∧ s.aer = 0 ∧ s.clock = 940 ∧ s.limits = { trip := 95, clamp := 100, watts := 2400 } ∧ (∀ p, (s.portAt p).state = .down) ∧ (∀ w, (s.hwins.get HWin.off w).en = false)
    ∧ (∀ n, s.apertures.get none n = none) ∧ (∀ l, s.pcore l = l) ∧ (∀ k, (s.stackAt k).raat = 1024 ∧ (s.stackAt k).vthr = 20 ∧ (s.stackAt k).hthr = 32
      ∧ (s.stackAt k).low = false ∧ (s.stackAt k).alerts = 0) ∧ (∀ a, s.byte a = 0) ∧ step s = .next s

/-- Words that the spec writes out decode to the instructions it writes beside them (the two clauses of "Two clauses encoded", and R396, R398, R402, R411). -/
def Obligations.SampleWords : Prop :=
  let d := fun w : Word => (decodeWord Env.table w).toOption
  let g : LaneGuard := { neg := false, p := 0 }
  let q : TeamGuard := { neg := false, q := none }
  d 0x7001040201001308 = some (.ld { g, sp := .g, w := .w32, signed := true, limit := 6, acq := false, scope := .team, d := 4, addr := .index 2 1 2 })
  ∧ d 0x7101000301041008 = some (.st { g, sp := .g, w := .w32, signed := true, rel := false, scope := .team, addr := .index 3 1 2, c := 4 })
  ∧ d 0x0800000000000000 = some (.exit q)
  ∧ d 0x3309171600000008 = some (.vshr { g, ty := .n32, d := 23, a := 22, b := .imm 8 })
  ∧ d 0x0000000000000001 = none
  ∧ d 0x0500000CFFFFFFFB = some (.loop { g := q, s := 12, off := 0xFFFFFFFB })
  ∧ d 0x8501_0C00_0700_0A01 = some (.mrda { g := q, noscale := true, sat := false, rm := .rn, fmt := .f32, span := 1, d := 12, a := 0, b := 7 })
  ∧ d 0x6D0016150000020A = some (.quant { g, dt := .mxe4m3, st := .f32, rm := .rn, sat := false, d := 22, a := 21 })
  ∧ d 0x9700091112011300 = some (.cpy { g := q, dsp := .g, ssp := .k, bar := some .k, out := true, chan := 0, d := 9, a := 17, b := 18, c := 1 })
  ∧ d 0x1E0D0A1C00010001 = some (.scmp { g := q, ty := .n64, c := .ne, d := 2, a := 28, b := .imm 1 })
end

