-- ==== Sys2Proof/Laws/SMap.lean ====
section
/-! SUPPORT. Sparse maps: what a read answers after a write, and that every operation keeps the canonical form. -/

namespace Sys2Proof

variable {α : Type}

@[simp] theorem SMap.get_nil (d : α) (k : Nat) : SMap.get d [] k = d := rfl

theorem SMap.get_put_same (d : α) (m : SMap α) (k : Nat) (y : α) : SMap.get d (SMap.put m k y) k = y := by
  induction m with
  | nil => simp [SMap.put, SMap.get]
  | cons p m ih =>
    obtain ⟨j, x⟩ := p
    unfold SMap.put
    split
    · simp [SMap.get]
    · split
      · simp [SMap.get]
      · simp [SMap.get, *]

theorem SMap.get_put_ne (d : α) (m : SMap α) {k i : Nat} (y : α) (h : i ≠ k) :
    SMap.get d (SMap.put m k y) i = SMap.get d m i := by
  induction m with
  | nil => simp [SMap.put, SMap.get, Ne.symm h]
  | cons p m ih =>
    obtain ⟨j, x⟩ := p
    unfold SMap.put
    split
    · subst_vars; simp [SMap.get, Ne.symm h]
    · split
      · simp [SMap.get, Ne.symm h]
      · simp [SMap.get, ih]

theorem SMap.get_erase_same (d : α) (m : SMap α) (k : Nat) : SMap.get d (SMap.erase m k) k = d := by
  induction m with
  | nil => rfl
  | cons p m ih =>
    obtain ⟨j, x⟩ := p
    unfold SMap.erase
    split
    · exact ih
    · simp [SMap.get, *]

theorem SMap.get_erase_ne (d : α) (m : SMap α) {k i : Nat} (h : i ≠ k) :
    SMap.get d (SMap.erase m k) i = SMap.get d m i := by
  induction m with
  | nil => rfl
  | cons p m ih =>
    obtain ⟨j, x⟩ := p
    unfold SMap.erase
    split
    · subst_vars; simp [SMap.get, Ne.symm h, ih]
    · simp [SMap.get, ih]

variable [DecidableEq α]

/-- A read of the key just written gives the value written. -/
@[simp] theorem SMap.get_set_same (d : α) (m : SMap α) (k : Nat) (y : α) : SMap.get d (SMap.set d m k y) k = y := by
  unfold SMap.set
  split
  · rw [SMap.get_erase_same]; exact Eq.symm ‹_›
  · exact SMap.get_put_same d m k y

/-- A write leaves every other key alone. -/
theorem SMap.get_set_ne (d : α) (m : SMap α) {k i : Nat} (y : α) (h : i ≠ k) :
    SMap.get d (SMap.set d m k y) i = SMap.get d m i := by
  unfold SMap.set
  split
  · exact SMap.get_erase_ne d m h
  · exact SMap.get_put_ne d m y h

theorem SMap.get_set (d : α) (m : SMap α) (k i : Nat) (y : α) :
    SMap.get d (SMap.set d m k y) i = if i = k then y else SMap.get d m i := by
  split
  · subst_vars; simp
  · exact SMap.get_set_ne d m y ‹_›

/-! ### The canonical form -/

omit [DecidableEq α] in
theorem SMap.risesFrom_mono {m : SMap α} {a b : Nat} (h : a ≤ b) (hm : SMap.risesFrom b m = true) :
    SMap.risesFrom a m = true := by
  cases m with
  | nil => rfl
  | cons p m =>
    obtain ⟨j, x⟩ := p
    simp [SMap.risesFrom] at hm ⊢
    exact ⟨by omega, hm.2⟩

omit [DecidableEq α] in
theorem SMap.risesFrom_filter {m : SMap α} {a : Nat} (f : Nat × α → Bool) (hm : SMap.risesFrom a m = true) :
    SMap.risesFrom a (m.filter f) = true := by
  induction m generalizing a with
  | nil => rfl
  | cons p m ih =>
    obtain ⟨j, x⟩ := p
    simp only [SMap.risesFrom, Bool.and_eq_true, decide_eq_true_eq] at hm
    rw [List.filter_cons]
    split
    · simp [SMap.risesFrom, hm.1, ih hm.2]
    · exact ih (SMap.risesFrom_mono (by omega) hm.2)

omit [DecidableEq α] in
theorem SMap.erase_eq_filter (m : SMap α) (k : Nat) : SMap.erase m k = m.filter fun p => decide (p.1 ≠ k) := by
  induction m with
  | nil => rfl
  | cons p m ih =>
    obtain ⟨j, x⟩ := p
    unfold SMap.erase
    split
    · simp [*]
    · simp [*]

omit [DecidableEq α] in
theorem SMap.risesFrom_put {m : SMap α} {a k : Nat} {y : α} (h : a ≤ k) (hm : SMap.risesFrom a m = true) :
    SMap.risesFrom a (SMap.put m k y) = true := by
  induction m generalizing a with
  | nil => simp [SMap.put, SMap.risesFrom, h]
  | cons p m ih =>
    obtain ⟨j, x⟩ := p
    simp only [SMap.risesFrom, Bool.and_eq_true, decide_eq_true_eq] at hm
    unfold SMap.put
    split
    · subst_vars; simp [SMap.risesFrom, hm]
    · split
      · simp [SMap.risesFrom, h, hm.2]; omega
      · simp [SMap.risesFrom, hm.1, ih (a := j + 1) (by omega) hm.2]

theorem SMap.wf_filter {d : α} {m : SMap α} (f : Nat × α → Bool) (hm : SMap.wf d m = true) :
    SMap.wf d (m.filter f) = true := by
  simp only [SMap.wf, Bool.and_eq_true, List.all_eq_true] at hm ⊢
  exact ⟨SMap.risesFrom_filter f hm.1, fun p hp => hm.2 p (List.mem_filter.mp hp).1⟩

omit [DecidableEq α] in
theorem SMap.mem_put {m : SMap α} {k : Nat} {y : α} {p : Nat × α} (h : p ∈ SMap.put m k y) : p = (k, y) ∨ p ∈ m := by
  induction m with
  | nil => simpa [SMap.put] using h
  | cons q m ih =>
    obtain ⟨j, x⟩ := q
    unfold SMap.put at h
    split at h
    · rcases List.mem_cons.mp h with h | h
      · exact .inl h
      · exact .inr (List.mem_cons_of_mem _ h)
    · split at h
      · rcases List.mem_cons.mp h with h | h
        · exact .inl h
        · exact .inr h
      · rcases List.mem_cons.mp h with h | h
        · exact .inr (by simp [h])
        · rcases ih h with h | h
          · exact .inl h
          · exact .inr (List.mem_cons_of_mem _ h)

/-- A write keeps the canonical form. -/
theorem SMap.wf_set {d : α} {m : SMap α} {k : Nat} {y : α} (hm : SMap.wf d m = true) :
    SMap.wf d (SMap.set d m k y) = true := by
  unfold SMap.set
  split
  · rw [SMap.erase_eq_filter]; exact SMap.wf_filter _ hm
  · simp only [SMap.wf, Bool.and_eq_true, List.all_eq_true] at hm ⊢
    refine ⟨SMap.risesFrom_put (Nat.zero_le k) hm.1, fun p hp => ?_⟩
    rcases SMap.mem_put hp with h | h
    · subst h; simpa using ‹¬y = d›
    · exact hm.2 p h

theorem SMap.wf_clear {d : α} {m : SMap α} {lo hi : Nat} (hm : SMap.wf d m = true) :
    SMap.wf d (SMap.clear m lo hi) = true := SMap.wf_filter _ hm

@[simp] theorem SMap.wf_nil (d : α) : SMap.wf d ([] : SMap α) = true := rfl

end Sys2Proof
end

