-- ==== Sys2Proof/Laws/State.lean ====
section
/-! SUPPORT. The fields of a state after each named update: one lemma per field per update. -/

namespace Sys2Proof.Machine

variable (s : State)

/-! ### modCur -/

@[simp] theorem State.modCur_cur (f : Team → Team) : (s.modCur f).cur = f s.cur := rfl
@[simp] theorem State.modCur_others (f : Team → Team) : (s.modCur f).others = s.others := rfl
@[simp] theorem State.modCur_groups (f : Team → Team) : (s.modCur f).groups = s.groups := rfl
@[simp] theorem State.modCur_kernels (f : Team → Team) : (s.modCur f).kernels = s.kernels := rfl
@[simp] theorem State.modCur_ctxs (f : Team → Team) : (s.modCur f).ctxs = s.ctxs := rfl
@[simp] theorem State.modCur_mem (f : Team → Team) : (s.modCur f).mem = s.mem := rfl
@[simp] theorem State.modCur_poison (f : Team → Team) : (s.modCur f).poison = s.poison := rfl
@[simp] theorem State.modCur_guards (f : Team → Team) : (s.modCur f).guards = s.guards := rfl
@[simp] theorem State.modCur_loads (f : Team → Team) : (s.modCur f).loads = s.loads := rfl
@[simp] theorem State.modCur_posts (f : Team → Team) : (s.modCur f).posts = s.posts := rfl
@[simp] theorem State.modCur_engs (f : Team → Team) : (s.modCur f).engs = s.engs := rfl
@[simp] theorem State.modCur_counts (f : Team → Team) : (s.modCur f).counts = s.counts := rfl
@[simp] theorem State.modCur_mats (f : Team → Team) : (s.modCur f).mats = s.mats := rfl
@[simp] theorem State.modCur_binds (f : Team → Team) : (s.modCur f).binds = s.binds := rfl
@[simp] theorem State.modCur_early (f : Team → Team) : (s.modCur f).early = s.early := rfl
@[simp] theorem State.modCur_ahead (f : Team → Team) : (s.modCur f).ahead = s.ahead := rfl
@[simp] theorem State.modCur_sent (f : Team → Team) : (s.modCur f).sent = s.sent := rfl
@[simp] theorem State.modCur_remoteWaits (f : Team → Team) : (s.modCur f).remoteWaits = s.remoteWaits := rfl
@[simp] theorem State.modCur_landing (f : Team → Team) : (s.modCur f).landing = s.landing := rfl
@[simp] theorem State.modCur_reports (f : Team → Team) : (s.modCur f).reports = s.reports := rfl
@[simp] theorem State.modCur_combRegs (f : Team → Team) : (s.modCur f).combRegs = s.combRegs := rfl
@[simp] theorem State.modCur_combPackets (f : Team → Team) : (s.modCur f).combPackets = s.combPackets := rfl
@[simp] theorem State.modCur_combs (f : Team → Team) : (s.modCur f).combs = s.combs := rfl
@[simp] theorem State.modCur_msus (f : Team → Team) : (s.modCur f).msus = s.msus := rfl
@[simp] theorem State.modCur_cores (f : Team → Team) : (s.modCur f).cores = s.cores := rfl
@[simp] theorem State.modCur_quads (f : Team → Team) : (s.modCur f).quads = s.quads := rfl
@[simp] theorem State.modCur_dies (f : Team → Team) : (s.modCur f).dies = s.dies := rfl
@[simp] theorem State.modCur_coreMap (f : Team → Team) : (s.modCur f).coreMap = s.coreMap := rfl
@[simp] theorem State.modCur_outOfService (f : Team → Team) : (s.modCur f).outOfService = s.outOfService := rfl
@[simp] theorem State.modCur_clk (f : Team → Team) : (s.modCur f).clk = s.clk := rfl
@[simp] theorem State.modCur_rank (f : Team → Team) : (s.modCur f).rank = s.rank := rfl
@[simp] theorem State.modCur_podSize (f : Team → Team) : (s.modCur f).podSize = s.podSize := rfl
@[simp] theorem State.modCur_spare (f : Team → Team) : (s.modCur f).spare = s.spare := rfl
@[simp] theorem State.modCur_incarnation (f : Team → Team) : (s.modCur f).incarnation = s.incarnation := rfl
@[simp] theorem State.modCur_peerInc (f : Team → Team) : (s.modCur f).peerInc = s.peerInc := rfl
@[simp] theorem State.modCur_ports (f : Team → Team) : (s.modCur f).ports = s.ports := rfl
@[simp] theorem State.modCur_peerLinks (f : Team → Team) : (s.modCur f).peerLinks = s.peerLinks := rfl
@[simp] theorem State.modCur_override (f : Team → Team) : (s.modCur f).override = s.override := rfl
@[simp] theorem State.modCur_route (f : Team → Team) : (s.modCur f).route = s.route := rfl
@[simp] theorem State.modCur_pathless (f : Team → Team) : (s.modCur f).pathless = s.pathless := rfl
@[simp] theorem State.modCur_holds (f : Team → Team) : (s.modCur f).holds = s.holds := rfl
@[simp] theorem State.modCur_pathSeq (f : Team → Team) : (s.modCur f).pathSeq = s.pathSeq := rfl
@[simp] theorem State.modCur_landed (f : Team → Team) : (s.modCur f).landed = s.landed := rfl
@[simp] theorem State.modCur_landedMore (f : Team → Team) : (s.modCur f).landedMore = s.landedMore := rfl
@[simp] theorem State.modCur_heldSignals (f : Team → Team) : (s.modCur f).heldSignals = s.heldSignals := rfl
@[simp] theorem State.modCur_apertures (f : Team → Team) : (s.modCur f).apertures = s.apertures := rfl
@[simp] theorem State.modCur_splits (f : Team → Team) : (s.modCur f).splits = s.splits := rfl
@[simp] theorem State.modCur_used (f : Team → Team) : (s.modCur f).used = s.used := rfl
@[simp] theorem State.modCur_coFrames (f : Team → Team) : (s.modCur f).coFrames = s.coFrames := rfl
@[simp] theorem State.modCur_reserved (f : Team → Team) : (s.modCur f).reserved = s.reserved := rfl
@[simp] theorem State.modCur_refusals (f : Team → Team) : (s.modCur f).refusals = s.refusals := rfl
@[simp] theorem State.modCur_retrains (f : Team → Team) : (s.modCur f).retrains = s.retrains := rfl
@[simp] theorem State.modCur_slices (f : Team → Team) : (s.modCur f).slices = s.slices := rfl
@[simp] theorem State.modCur_appends (f : Team → Team) : (s.modCur f).appends = s.appends := rfl
@[simp] theorem State.modCur_launches (f : Team → Team) : (s.modCur f).launches = s.launches := rfl
@[simp] theorem State.modCur_cmds (f : Team → Team) : (s.modCur f).cmds = s.cmds := rfl
@[simp] theorem State.modCur_notices (f : Team → Team) : (s.modCur f).notices = s.notices := rfl
@[simp] theorem State.modCur_nextNotice (f : Team → Team) : (s.modCur f).nextNotice = s.nextNotice := rfl
@[simp] theorem State.modCur_plans (f : Team → Team) : (s.modCur f).plans = s.plans := rfl
@[simp] theorem State.modCur_asks (f : Team → Team) : (s.modCur f).asks = s.asks := rfl
@[simp] theorem State.modCur_stage (f : Team → Team) : (s.modCur f).stage = s.stage := rfl
@[simp] theorem State.modCur_fail (f : Team → Team) : (s.modCur f).fail = s.fail := rfl
@[simp] theorem State.modCur_fwerr (f : Team → Team) : (s.modCur f).fwerr = s.fwerr := rfl
@[simp] theorem State.modCur_clkBase (f : Team → Team) : (s.modCur f).clkBase = s.clkBase := rfl
@[simp] theorem State.modCur_mailbox (f : Team → Team) : (s.modCur f).mailbox = s.mailbox := rfl
@[simp] theorem State.modCur_ring (f : Team → Team) : (s.modCur f).ring = s.ring := rfl
@[simp] theorem State.modCur_nwseq (f : Team → Team) : (s.modCur f).nwseq = s.nwseq := rfl
@[simp] theorem State.modCur_nrseq (f : Team → Team) : (s.modCur f).nrseq = s.nrseq := rfl
@[simp] theorem State.modCur_staging (f : Team → Team) : (s.modCur f).staging = s.staging := rfl
@[simp] theorem State.modCur_firmware (f : Team → Team) : (s.modCur f).firmware = s.firmware := rfl
@[simp] theorem State.modCur_hwins (f : Team → Team) : (s.modCur f).hwins = s.hwins := rfl
@[simp] theorem State.modCur_hbms (f : Team → Team) : (s.modCur f).hbms = s.hbms := rfl
@[simp] theorem State.modCur_clockCap (f : Team → Team) : (s.modCur f).clockCap = s.clockCap := rfl
@[simp] theorem State.modCur_clockWant (f : Team → Team) : (s.modCur f).clockWant = s.clockWant := rfl
@[simp] theorem State.modCur_limits (f : Team → Team) : (s.modCur f).limits = s.limits := rfl
@[simp] theorem State.modCur_errors (f : Team → Team) : (s.modCur f).errors = s.errors := rfl
@[simp] theorem State.modCur_harvest (f : Team → Team) : (s.modCur f).harvest = s.harvest := rfl
@[simp] theorem State.modCur_suspects (f : Team → Team) : (s.modCur f).suspects = s.suspects := rfl
@[simp] theorem State.modCur_msix (f : Team → Team) : (s.modCur f).msix = s.msix := rfl
@[simp] theorem State.modCur_aer (f : Team → Team) : (s.modCur f).aer = s.aer := rfl
@[simp] theorem State.modCur_partitionLosses (f : Team → Team) : (s.modCur f).partitionLosses = s.partitionLosses := rfl
@[simp] theorem State.modCur_partitionLost (f : Team → Team) : (s.modCur f).partitionLost = s.partitionLost := rfl
@[simp] theorem State.modCur_fused (f : Team → Team) : (s.modCur f).fused = s.fused := rfl
@[simp] theorem State.modCur_hostReply (f : Team → Team) : (s.modCur f).hostReply = s.hostReply := rfl
@[simp] theorem State.modCur_hostWidth (f : Team → Team) : (s.modCur f).hostWidth = s.hostWidth := rfl
@[simp] theorem State.modCur_hostRate (f : Team → Team) : (s.modCur f).hostRate = s.hostRate := rfl
@[simp] theorem State.modCur_nextKey (f : Team → Team) : (s.modCur f).nextKey = s.nextKey := rfl
@[simp] theorem State.modCur_agenda (f : Team → Team) : (s.modCur f).agenda = s.agenda := rfl

/-! ### mapTeams -/

@[simp] theorem State.mapTeams_cur (f : Team → Team) : (s.mapTeams f).cur = f s.cur := rfl
@[simp] theorem State.mapTeams_others (f : Team → Team) : (s.mapTeams f).others = s.others.map f := rfl
@[simp] theorem State.mapTeams_groups (f : Team → Team) : (s.mapTeams f).groups = s.groups := rfl
@[simp] theorem State.mapTeams_kernels (f : Team → Team) : (s.mapTeams f).kernels = s.kernels := rfl
@[simp] theorem State.mapTeams_ctxs (f : Team → Team) : (s.mapTeams f).ctxs = s.ctxs := rfl
@[simp] theorem State.mapTeams_mem (f : Team → Team) : (s.mapTeams f).mem = s.mem := rfl
@[simp] theorem State.mapTeams_poison (f : Team → Team) : (s.mapTeams f).poison = s.poison := rfl
@[simp] theorem State.mapTeams_guards (f : Team → Team) : (s.mapTeams f).guards = s.guards := rfl
@[simp] theorem State.mapTeams_loads (f : Team → Team) : (s.mapTeams f).loads = s.loads := rfl
@[simp] theorem State.mapTeams_posts (f : Team → Team) : (s.mapTeams f).posts = s.posts := rfl
@[simp] theorem State.mapTeams_engs (f : Team → Team) : (s.mapTeams f).engs = s.engs := rfl
@[simp] theorem State.mapTeams_counts (f : Team → Team) : (s.mapTeams f).counts = s.counts := rfl
@[simp] theorem State.mapTeams_mats (f : Team → Team) : (s.mapTeams f).mats = s.mats := rfl
@[simp] theorem State.mapTeams_binds (f : Team → Team) : (s.mapTeams f).binds = s.binds := rfl
@[simp] theorem State.mapTeams_early (f : Team → Team) : (s.mapTeams f).early = s.early := rfl
@[simp] theorem State.mapTeams_ahead (f : Team → Team) : (s.mapTeams f).ahead = s.ahead := rfl
@[simp] theorem State.mapTeams_sent (f : Team → Team) : (s.mapTeams f).sent = s.sent := rfl
@[simp] theorem State.mapTeams_remoteWaits (f : Team → Team) : (s.mapTeams f).remoteWaits = s.remoteWaits := rfl
@[simp] theorem State.mapTeams_landing (f : Team → Team) : (s.mapTeams f).landing = s.landing := rfl
@[simp] theorem State.mapTeams_reports (f : Team → Team) : (s.mapTeams f).reports = s.reports := rfl
@[simp] theorem State.mapTeams_combRegs (f : Team → Team) : (s.mapTeams f).combRegs = s.combRegs := rfl
@[simp] theorem State.mapTeams_combPackets (f : Team → Team) : (s.mapTeams f).combPackets = s.combPackets := rfl
@[simp] theorem State.mapTeams_combs (f : Team → Team) : (s.mapTeams f).combs = s.combs := rfl
@[simp] theorem State.mapTeams_msus (f : Team → Team) : (s.mapTeams f).msus = s.msus := rfl
@[simp] theorem State.mapTeams_cores (f : Team → Team) : (s.mapTeams f).cores = s.cores := rfl
@[simp] theorem State.mapTeams_quads (f : Team → Team) : (s.mapTeams f).quads = s.quads := rfl
@[simp] theorem State.mapTeams_dies (f : Team → Team) : (s.mapTeams f).dies = s.dies := rfl
@[simp] theorem State.mapTeams_coreMap (f : Team → Team) : (s.mapTeams f).coreMap = s.coreMap := rfl
@[simp] theorem State.mapTeams_outOfService (f : Team → Team) : (s.mapTeams f).outOfService = s.outOfService := rfl
@[simp] theorem State.mapTeams_clk (f : Team → Team) : (s.mapTeams f).clk = s.clk := rfl
@[simp] theorem State.mapTeams_rank (f : Team → Team) : (s.mapTeams f).rank = s.rank := rfl
@[simp] theorem State.mapTeams_podSize (f : Team → Team) : (s.mapTeams f).podSize = s.podSize := rfl
@[simp] theorem State.mapTeams_spare (f : Team → Team) : (s.mapTeams f).spare = s.spare := rfl
@[simp] theorem State.mapTeams_incarnation (f : Team → Team) : (s.mapTeams f).incarnation = s.incarnation := rfl
@[simp] theorem State.mapTeams_peerInc (f : Team → Team) : (s.mapTeams f).peerInc = s.peerInc := rfl
@[simp] theorem State.mapTeams_ports (f : Team → Team) : (s.mapTeams f).ports = s.ports := rfl
@[simp] theorem State.mapTeams_peerLinks (f : Team → Team) : (s.mapTeams f).peerLinks = s.peerLinks := rfl
@[simp] theorem State.mapTeams_override (f : Team → Team) : (s.mapTeams f).override = s.override := rfl
@[simp] theorem State.mapTeams_route (f : Team → Team) : (s.mapTeams f).route = s.route := rfl
@[simp] theorem State.mapTeams_pathless (f : Team → Team) : (s.mapTeams f).pathless = s.pathless := rfl
@[simp] theorem State.mapTeams_holds (f : Team → Team) : (s.mapTeams f).holds = s.holds := rfl
@[simp] theorem State.mapTeams_pathSeq (f : Team → Team) : (s.mapTeams f).pathSeq = s.pathSeq := rfl
@[simp] theorem State.mapTeams_landed (f : Team → Team) : (s.mapTeams f).landed = s.landed := rfl
@[simp] theorem State.mapTeams_landedMore (f : Team → Team) : (s.mapTeams f).landedMore = s.landedMore := rfl
@[simp] theorem State.mapTeams_heldSignals (f : Team → Team) : (s.mapTeams f).heldSignals = s.heldSignals := rfl
@[simp] theorem State.mapTeams_apertures (f : Team → Team) : (s.mapTeams f).apertures = s.apertures := rfl
@[simp] theorem State.mapTeams_splits (f : Team → Team) : (s.mapTeams f).splits = s.splits := rfl
@[simp] theorem State.mapTeams_used (f : Team → Team) : (s.mapTeams f).used = s.used := rfl
@[simp] theorem State.mapTeams_coFrames (f : Team → Team) : (s.mapTeams f).coFrames = s.coFrames := rfl
@[simp] theorem State.mapTeams_reserved (f : Team → Team) : (s.mapTeams f).reserved = s.reserved := rfl
@[simp] theorem State.mapTeams_refusals (f : Team → Team) : (s.mapTeams f).refusals = s.refusals := rfl
@[simp] theorem State.mapTeams_retrains (f : Team → Team) : (s.mapTeams f).retrains = s.retrains := rfl
@[simp] theorem State.mapTeams_slices (f : Team → Team) : (s.mapTeams f).slices = s.slices := rfl
@[simp] theorem State.mapTeams_appends (f : Team → Team) : (s.mapTeams f).appends = s.appends := rfl
@[simp] theorem State.mapTeams_launches (f : Team → Team) : (s.mapTeams f).launches = s.launches := rfl
@[simp] theorem State.mapTeams_cmds (f : Team → Team) : (s.mapTeams f).cmds = s.cmds := rfl
@[simp] theorem State.mapTeams_notices (f : Team → Team) : (s.mapTeams f).notices = s.notices := rfl
@[simp] theorem State.mapTeams_nextNotice (f : Team → Team) : (s.mapTeams f).nextNotice = s.nextNotice := rfl
@[simp] theorem State.mapTeams_plans (f : Team → Team) : (s.mapTeams f).plans = s.plans := rfl
@[simp] theorem State.mapTeams_asks (f : Team → Team) : (s.mapTeams f).asks = s.asks := rfl
@[simp] theorem State.mapTeams_stage (f : Team → Team) : (s.mapTeams f).stage = s.stage := rfl
@[simp] theorem State.mapTeams_fail (f : Team → Team) : (s.mapTeams f).fail = s.fail := rfl
@[simp] theorem State.mapTeams_fwerr (f : Team → Team) : (s.mapTeams f).fwerr = s.fwerr := rfl
@[simp] theorem State.mapTeams_clkBase (f : Team → Team) : (s.mapTeams f).clkBase = s.clkBase := rfl
@[simp] theorem State.mapTeams_mailbox (f : Team → Team) : (s.mapTeams f).mailbox = s.mailbox := rfl
@[simp] theorem State.mapTeams_ring (f : Team → Team) : (s.mapTeams f).ring = s.ring := rfl
@[simp] theorem State.mapTeams_nwseq (f : Team → Team) : (s.mapTeams f).nwseq = s.nwseq := rfl
@[simp] theorem State.mapTeams_nrseq (f : Team → Team) : (s.mapTeams f).nrseq = s.nrseq := rfl
@[simp] theorem State.mapTeams_staging (f : Team → Team) : (s.mapTeams f).staging = s.staging := rfl
@[simp] theorem State.mapTeams_firmware (f : Team → Team) : (s.mapTeams f).firmware = s.firmware := rfl
@[simp] theorem State.mapTeams_hwins (f : Team → Team) : (s.mapTeams f).hwins = s.hwins := rfl
@[simp] theorem State.mapTeams_hbms (f : Team → Team) : (s.mapTeams f).hbms = s.hbms := rfl
@[simp] theorem State.mapTeams_clockCap (f : Team → Team) : (s.mapTeams f).clockCap = s.clockCap := rfl
@[simp] theorem State.mapTeams_clockWant (f : Team → Team) : (s.mapTeams f).clockWant = s.clockWant := rfl
@[simp] theorem State.mapTeams_limits (f : Team → Team) : (s.mapTeams f).limits = s.limits := rfl
@[simp] theorem State.mapTeams_errors (f : Team → Team) : (s.mapTeams f).errors = s.errors := rfl
@[simp] theorem State.mapTeams_harvest (f : Team → Team) : (s.mapTeams f).harvest = s.harvest := rfl
@[simp] theorem State.mapTeams_suspects (f : Team → Team) : (s.mapTeams f).suspects = s.suspects := rfl
@[simp] theorem State.mapTeams_msix (f : Team → Team) : (s.mapTeams f).msix = s.msix := rfl
@[simp] theorem State.mapTeams_aer (f : Team → Team) : (s.mapTeams f).aer = s.aer := rfl
@[simp] theorem State.mapTeams_partitionLosses (f : Team → Team) : (s.mapTeams f).partitionLosses = s.partitionLosses := rfl
@[simp] theorem State.mapTeams_partitionLost (f : Team → Team) : (s.mapTeams f).partitionLost = s.partitionLost := rfl
@[simp] theorem State.mapTeams_fused (f : Team → Team) : (s.mapTeams f).fused = s.fused := rfl
@[simp] theorem State.mapTeams_hostReply (f : Team → Team) : (s.mapTeams f).hostReply = s.hostReply := rfl
@[simp] theorem State.mapTeams_hostWidth (f : Team → Team) : (s.mapTeams f).hostWidth = s.hostWidth := rfl
@[simp] theorem State.mapTeams_hostRate (f : Team → Team) : (s.mapTeams f).hostRate = s.hostRate := rfl
@[simp] theorem State.mapTeams_nextKey (f : Team → Team) : (s.mapTeams f).nextKey = s.nextKey := rfl
@[simp] theorem State.mapTeams_agenda (f : Team → Team) : (s.mapTeams f).agenda = s.agenda := rfl

/-! ### setByte -/

@[simp] theorem State.setByte_cur (a : Nat) (b : Byte) : (s.setByte a b).cur = s.cur := rfl
@[simp] theorem State.setByte_others (a : Nat) (b : Byte) : (s.setByte a b).others = s.others := rfl
@[simp] theorem State.setByte_groups (a : Nat) (b : Byte) : (s.setByte a b).groups = s.groups := rfl
@[simp] theorem State.setByte_kernels (a : Nat) (b : Byte) : (s.setByte a b).kernels = s.kernels := rfl
@[simp] theorem State.setByte_ctxs (a : Nat) (b : Byte) : (s.setByte a b).ctxs = s.ctxs := rfl
@[simp] theorem State.setByte_mem (a : Nat) (b : Byte) : (s.setByte a b).mem = s.mem.set 0 a b := rfl
@[simp] theorem State.setByte_poison (a : Nat) (b : Byte) : (s.setByte a b).poison = s.poison := rfl
@[simp] theorem State.setByte_guards (a : Nat) (b : Byte) : (s.setByte a b).guards = s.guards := rfl
@[simp] theorem State.setByte_loads (a : Nat) (b : Byte) : (s.setByte a b).loads = s.loads := rfl
@[simp] theorem State.setByte_posts (a : Nat) (b : Byte) : (s.setByte a b).posts = s.posts := rfl
@[simp] theorem State.setByte_engs (a : Nat) (b : Byte) : (s.setByte a b).engs = s.engs := rfl
@[simp] theorem State.setByte_counts (a : Nat) (b : Byte) : (s.setByte a b).counts = s.counts := rfl
@[simp] theorem State.setByte_mats (a : Nat) (b : Byte) : (s.setByte a b).mats = s.mats := rfl
@[simp] theorem State.setByte_binds (a : Nat) (b : Byte) : (s.setByte a b).binds = s.binds := rfl
@[simp] theorem State.setByte_early (a : Nat) (b : Byte) : (s.setByte a b).early = s.early := rfl
@[simp] theorem State.setByte_ahead (a : Nat) (b : Byte) : (s.setByte a b).ahead = s.ahead := rfl
@[simp] theorem State.setByte_sent (a : Nat) (b : Byte) : (s.setByte a b).sent = s.sent := rfl
@[simp] theorem State.setByte_remoteWaits (a : Nat) (b : Byte) : (s.setByte a b).remoteWaits = s.remoteWaits := rfl
@[simp] theorem State.setByte_landing (a : Nat) (b : Byte) : (s.setByte a b).landing = s.landing := rfl
@[simp] theorem State.setByte_reports (a : Nat) (b : Byte) : (s.setByte a b).reports = s.reports := rfl
@[simp] theorem State.setByte_combRegs (a : Nat) (b : Byte) : (s.setByte a b).combRegs = s.combRegs := rfl
@[simp] theorem State.setByte_combPackets (a : Nat) (b : Byte) : (s.setByte a b).combPackets = s.combPackets := rfl
@[simp] theorem State.setByte_combs (a : Nat) (b : Byte) : (s.setByte a b).combs = s.combs := rfl
@[simp] theorem State.setByte_msus (a : Nat) (b : Byte) : (s.setByte a b).msus = s.msus := rfl
@[simp] theorem State.setByte_cores (a : Nat) (b : Byte) : (s.setByte a b).cores = s.cores := rfl
@[simp] theorem State.setByte_quads (a : Nat) (b : Byte) : (s.setByte a b).quads = s.quads := rfl
@[simp] theorem State.setByte_dies (a : Nat) (b : Byte) : (s.setByte a b).dies = s.dies := rfl
@[simp] theorem State.setByte_coreMap (a : Nat) (b : Byte) : (s.setByte a b).coreMap = s.coreMap := rfl
@[simp] theorem State.setByte_outOfService (a : Nat) (b : Byte) : (s.setByte a b).outOfService = s.outOfService := rfl
@[simp] theorem State.setByte_clk (a : Nat) (b : Byte) : (s.setByte a b).clk = s.clk := rfl
@[simp] theorem State.setByte_rank (a : Nat) (b : Byte) : (s.setByte a b).rank = s.rank := rfl
@[simp] theorem State.setByte_podSize (a : Nat) (b : Byte) : (s.setByte a b).podSize = s.podSize := rfl
@[simp] theorem State.setByte_spare (a : Nat) (b : Byte) : (s.setByte a b).spare = s.spare := rfl
@[simp] theorem State.setByte_incarnation (a : Nat) (b : Byte) : (s.setByte a b).incarnation = s.incarnation := rfl
@[simp] theorem State.setByte_peerInc (a : Nat) (b : Byte) : (s.setByte a b).peerInc = s.peerInc := rfl
@[simp] theorem State.setByte_ports (a : Nat) (b : Byte) : (s.setByte a b).ports = s.ports := rfl
@[simp] theorem State.setByte_peerLinks (a : Nat) (b : Byte) : (s.setByte a b).peerLinks = s.peerLinks := rfl
@[simp] theorem State.setByte_override (a : Nat) (b : Byte) : (s.setByte a b).override = s.override := rfl
@[simp] theorem State.setByte_route (a : Nat) (b : Byte) : (s.setByte a b).route = s.route := rfl
@[simp] theorem State.setByte_pathless (a : Nat) (b : Byte) : (s.setByte a b).pathless = s.pathless := rfl
@[simp] theorem State.setByte_holds (a : Nat) (b : Byte) : (s.setByte a b).holds = s.holds := rfl
@[simp] theorem State.setByte_pathSeq (a : Nat) (b : Byte) : (s.setByte a b).pathSeq = s.pathSeq := rfl
@[simp] theorem State.setByte_landed (a : Nat) (b : Byte) : (s.setByte a b).landed = s.landed := rfl
@[simp] theorem State.setByte_landedMore (a : Nat) (b : Byte) : (s.setByte a b).landedMore = s.landedMore := rfl
@[simp] theorem State.setByte_heldSignals (a : Nat) (b : Byte) : (s.setByte a b).heldSignals = s.heldSignals := rfl
@[simp] theorem State.setByte_apertures (a : Nat) (b : Byte) : (s.setByte a b).apertures = s.apertures := rfl
@[simp] theorem State.setByte_splits (a : Nat) (b : Byte) : (s.setByte a b).splits = s.splits := rfl
@[simp] theorem State.setByte_used (a : Nat) (b : Byte) : (s.setByte a b).used = s.used := rfl
@[simp] theorem State.setByte_coFrames (a : Nat) (b : Byte) : (s.setByte a b).coFrames = s.coFrames := rfl
@[simp] theorem State.setByte_reserved (a : Nat) (b : Byte) : (s.setByte a b).reserved = s.reserved := rfl
@[simp] theorem State.setByte_refusals (a : Nat) (b : Byte) : (s.setByte a b).refusals = s.refusals := rfl
@[simp] theorem State.setByte_retrains (a : Nat) (b : Byte) : (s.setByte a b).retrains = s.retrains := rfl
@[simp] theorem State.setByte_slices (a : Nat) (b : Byte) : (s.setByte a b).slices = s.slices := rfl
@[simp] theorem State.setByte_appends (a : Nat) (b : Byte) : (s.setByte a b).appends = s.appends := rfl
@[simp] theorem State.setByte_launches (a : Nat) (b : Byte) : (s.setByte a b).launches = s.launches := rfl
@[simp] theorem State.setByte_cmds (a : Nat) (b : Byte) : (s.setByte a b).cmds = s.cmds := rfl
@[simp] theorem State.setByte_notices (a : Nat) (b : Byte) : (s.setByte a b).notices = s.notices := rfl
@[simp] theorem State.setByte_nextNotice (a : Nat) (b : Byte) : (s.setByte a b).nextNotice = s.nextNotice := rfl
@[simp] theorem State.setByte_plans (a : Nat) (b : Byte) : (s.setByte a b).plans = s.plans := rfl
@[simp] theorem State.setByte_asks (a : Nat) (b : Byte) : (s.setByte a b).asks = s.asks := rfl
@[simp] theorem State.setByte_stage (a : Nat) (b : Byte) : (s.setByte a b).stage = s.stage := rfl
@[simp] theorem State.setByte_fail (a : Nat) (b : Byte) : (s.setByte a b).fail = s.fail := rfl
@[simp] theorem State.setByte_fwerr (a : Nat) (b : Byte) : (s.setByte a b).fwerr = s.fwerr := rfl
@[simp] theorem State.setByte_clkBase (a : Nat) (b : Byte) : (s.setByte a b).clkBase = s.clkBase := rfl
@[simp] theorem State.setByte_mailbox (a : Nat) (b : Byte) : (s.setByte a b).mailbox = s.mailbox := rfl
@[simp] theorem State.setByte_ring (a : Nat) (b : Byte) : (s.setByte a b).ring = s.ring := rfl
@[simp] theorem State.setByte_nwseq (a : Nat) (b : Byte) : (s.setByte a b).nwseq = s.nwseq := rfl
@[simp] theorem State.setByte_nrseq (a : Nat) (b : Byte) : (s.setByte a b).nrseq = s.nrseq := rfl
@[simp] theorem State.setByte_staging (a : Nat) (b : Byte) : (s.setByte a b).staging = s.staging := rfl
@[simp] theorem State.setByte_firmware (a : Nat) (b : Byte) : (s.setByte a b).firmware = s.firmware := rfl
@[simp] theorem State.setByte_hwins (a : Nat) (b : Byte) : (s.setByte a b).hwins = s.hwins := rfl
@[simp] theorem State.setByte_hbms (a : Nat) (b : Byte) : (s.setByte a b).hbms = s.hbms := rfl
@[simp] theorem State.setByte_clockCap (a : Nat) (b : Byte) : (s.setByte a b).clockCap = s.clockCap := rfl
@[simp] theorem State.setByte_clockWant (a : Nat) (b : Byte) : (s.setByte a b).clockWant = s.clockWant := rfl
@[simp] theorem State.setByte_limits (a : Nat) (b : Byte) : (s.setByte a b).limits = s.limits := rfl
@[simp] theorem State.setByte_errors (a : Nat) (b : Byte) : (s.setByte a b).errors = s.errors := rfl
@[simp] theorem State.setByte_harvest (a : Nat) (b : Byte) : (s.setByte a b).harvest = s.harvest := rfl
@[simp] theorem State.setByte_suspects (a : Nat) (b : Byte) : (s.setByte a b).suspects = s.suspects := rfl
@[simp] theorem State.setByte_msix (a : Nat) (b : Byte) : (s.setByte a b).msix = s.msix := rfl
@[simp] theorem State.setByte_aer (a : Nat) (b : Byte) : (s.setByte a b).aer = s.aer := rfl
@[simp] theorem State.setByte_partitionLosses (a : Nat) (b : Byte) : (s.setByte a b).partitionLosses = s.partitionLosses := rfl
@[simp] theorem State.setByte_partitionLost (a : Nat) (b : Byte) : (s.setByte a b).partitionLost = s.partitionLost := rfl
@[simp] theorem State.setByte_fused (a : Nat) (b : Byte) : (s.setByte a b).fused = s.fused := rfl
@[simp] theorem State.setByte_hostReply (a : Nat) (b : Byte) : (s.setByte a b).hostReply = s.hostReply := rfl
@[simp] theorem State.setByte_hostWidth (a : Nat) (b : Byte) : (s.setByte a b).hostWidth = s.hostWidth := rfl
@[simp] theorem State.setByte_hostRate (a : Nat) (b : Byte) : (s.setByte a b).hostRate = s.hostRate := rfl
@[simp] theorem State.setByte_nextKey (a : Nat) (b : Byte) : (s.setByte a b).nextKey = s.nextKey := rfl
@[simp] theorem State.setByte_agenda (a : Nat) (b : Byte) : (s.setByte a b).agenda = s.agenda := rfl

/-! ### physWrite -/

@[simp] theorem State.physWrite_cur (a : Nat) (bs : List Byte) : (s.physWrite a bs).cur = s.cur := rfl
@[simp] theorem State.physWrite_others (a : Nat) (bs : List Byte) : (s.physWrite a bs).others = s.others := rfl
@[simp] theorem State.physWrite_groups (a : Nat) (bs : List Byte) : (s.physWrite a bs).groups = s.groups := rfl
@[simp] theorem State.physWrite_kernels (a : Nat) (bs : List Byte) : (s.physWrite a bs).kernels = s.kernels := rfl
@[simp] theorem State.physWrite_ctxs (a : Nat) (bs : List Byte) : (s.physWrite a bs).ctxs = s.ctxs := rfl
@[simp] theorem State.physWrite_mem (a : Nat) (bs : List Byte) : (s.physWrite a bs).mem = writeMap s.mem a bs := rfl
@[simp] theorem State.physWrite_poison (a : Nat) (bs : List Byte) : (s.physWrite a bs).poison = clearPoison s.poison a bs.length := rfl
@[simp] theorem State.physWrite_guards (a : Nat) (bs : List Byte) : (s.physWrite a bs).guards = s.guards := rfl
@[simp] theorem State.physWrite_loads (a : Nat) (bs : List Byte) : (s.physWrite a bs).loads = s.loads := rfl
@[simp] theorem State.physWrite_posts (a : Nat) (bs : List Byte) : (s.physWrite a bs).posts = s.posts := rfl
@[simp] theorem State.physWrite_engs (a : Nat) (bs : List Byte) : (s.physWrite a bs).engs = s.engs := rfl
@[simp] theorem State.physWrite_counts (a : Nat) (bs : List Byte) : (s.physWrite a bs).counts = s.counts := rfl
@[simp] theorem State.physWrite_mats (a : Nat) (bs : List Byte) : (s.physWrite a bs).mats = s.mats := rfl
@[simp] theorem State.physWrite_binds (a : Nat) (bs : List Byte) : (s.physWrite a bs).binds = s.binds := rfl
@[simp] theorem State.physWrite_early (a : Nat) (bs : List Byte) : (s.physWrite a bs).early = s.early := rfl
@[simp] theorem State.physWrite_ahead (a : Nat) (bs : List Byte) : (s.physWrite a bs).ahead = s.ahead := rfl
@[simp] theorem State.physWrite_sent (a : Nat) (bs : List Byte) : (s.physWrite a bs).sent = s.sent := rfl
@[simp] theorem State.physWrite_remoteWaits (a : Nat) (bs : List Byte) : (s.physWrite a bs).remoteWaits = s.remoteWaits := rfl
@[simp] theorem State.physWrite_landing (a : Nat) (bs : List Byte) : (s.physWrite a bs).landing = s.landing := rfl
@[simp] theorem State.physWrite_reports (a : Nat) (bs : List Byte) : (s.physWrite a bs).reports = s.reports := rfl
@[simp] theorem State.physWrite_combRegs (a : Nat) (bs : List Byte) : (s.physWrite a bs).combRegs = s.combRegs := rfl
@[simp] theorem State.physWrite_combPackets (a : Nat) (bs : List Byte) : (s.physWrite a bs).combPackets = s.combPackets := rfl
@[simp] theorem State.physWrite_combs (a : Nat) (bs : List Byte) : (s.physWrite a bs).combs = s.combs := rfl
@[simp] theorem State.physWrite_msus (a : Nat) (bs : List Byte) : (s.physWrite a bs).msus = s.msus := rfl
@[simp] theorem State.physWrite_cores (a : Nat) (bs : List Byte) : (s.physWrite a bs).cores = s.cores := rfl
@[simp] theorem State.physWrite_quads (a : Nat) (bs : List Byte) : (s.physWrite a bs).quads = s.quads := rfl
@[simp] theorem State.physWrite_dies (a : Nat) (bs : List Byte) : (s.physWrite a bs).dies = s.dies := rfl
@[simp] theorem State.physWrite_coreMap (a : Nat) (bs : List Byte) : (s.physWrite a bs).coreMap = s.coreMap := rfl
@[simp] theorem State.physWrite_outOfService (a : Nat) (bs : List Byte) : (s.physWrite a bs).outOfService = s.outOfService := rfl
@[simp] theorem State.physWrite_clk (a : Nat) (bs : List Byte) : (s.physWrite a bs).clk = s.clk := rfl
@[simp] theorem State.physWrite_rank (a : Nat) (bs : List Byte) : (s.physWrite a bs).rank = s.rank := rfl
@[simp] theorem State.physWrite_podSize (a : Nat) (bs : List Byte) : (s.physWrite a bs).podSize = s.podSize := rfl
@[simp] theorem State.physWrite_spare (a : Nat) (bs : List Byte) : (s.physWrite a bs).spare = s.spare := rfl
@[simp] theorem State.physWrite_incarnation (a : Nat) (bs : List Byte) : (s.physWrite a bs).incarnation = s.incarnation := rfl
@[simp] theorem State.physWrite_peerInc (a : Nat) (bs : List Byte) : (s.physWrite a bs).peerInc = s.peerInc := rfl
@[simp] theorem State.physWrite_ports (a : Nat) (bs : List Byte) : (s.physWrite a bs).ports = s.ports := rfl
@[simp] theorem State.physWrite_peerLinks (a : Nat) (bs : List Byte) : (s.physWrite a bs).peerLinks = s.peerLinks := rfl
@[simp] theorem State.physWrite_override (a : Nat) (bs : List Byte) : (s.physWrite a bs).override = s.override := rfl
@[simp] theorem State.physWrite_route (a : Nat) (bs : List Byte) : (s.physWrite a bs).route = s.route := rfl
@[simp] theorem State.physWrite_pathless (a : Nat) (bs : List Byte) : (s.physWrite a bs).pathless = s.pathless := rfl
@[simp] theorem State.physWrite_holds (a : Nat) (bs : List Byte) : (s.physWrite a bs).holds = s.holds := rfl
@[simp] theorem State.physWrite_pathSeq (a : Nat) (bs : List Byte) : (s.physWrite a bs).pathSeq = s.pathSeq := rfl
@[simp] theorem State.physWrite_landed (a : Nat) (bs : List Byte) : (s.physWrite a bs).landed = s.landed := rfl
@[simp] theorem State.physWrite_landedMore (a : Nat) (bs : List Byte) : (s.physWrite a bs).landedMore = s.landedMore := rfl
@[simp] theorem State.physWrite_heldSignals (a : Nat) (bs : List Byte) : (s.physWrite a bs).heldSignals = s.heldSignals := rfl
@[simp] theorem State.physWrite_apertures (a : Nat) (bs : List Byte) : (s.physWrite a bs).apertures = s.apertures := rfl
@[simp] theorem State.physWrite_splits (a : Nat) (bs : List Byte) : (s.physWrite a bs).splits = s.splits := rfl
@[simp] theorem State.physWrite_used (a : Nat) (bs : List Byte) : (s.physWrite a bs).used = s.used := rfl
@[simp] theorem State.physWrite_coFrames (a : Nat) (bs : List Byte) : (s.physWrite a bs).coFrames = s.coFrames := rfl
@[simp] theorem State.physWrite_reserved (a : Nat) (bs : List Byte) : (s.physWrite a bs).reserved = s.reserved := rfl
@[simp] theorem State.physWrite_refusals (a : Nat) (bs : List Byte) : (s.physWrite a bs).refusals = s.refusals := rfl
@[simp] theorem State.physWrite_retrains (a : Nat) (bs : List Byte) : (s.physWrite a bs).retrains = s.retrains := rfl
@[simp] theorem State.physWrite_slices (a : Nat) (bs : List Byte) : (s.physWrite a bs).slices = s.slices := rfl
@[simp] theorem State.physWrite_appends (a : Nat) (bs : List Byte) : (s.physWrite a bs).appends = s.appends := rfl
@[simp] theorem State.physWrite_launches (a : Nat) (bs : List Byte) : (s.physWrite a bs).launches = s.launches := rfl
@[simp] theorem State.physWrite_cmds (a : Nat) (bs : List Byte) : (s.physWrite a bs).cmds = s.cmds := rfl
@[simp] theorem State.physWrite_notices (a : Nat) (bs : List Byte) : (s.physWrite a bs).notices = s.notices := rfl
@[simp] theorem State.physWrite_nextNotice (a : Nat) (bs : List Byte) : (s.physWrite a bs).nextNotice = s.nextNotice := rfl
@[simp] theorem State.physWrite_plans (a : Nat) (bs : List Byte) : (s.physWrite a bs).plans = s.plans := rfl
@[simp] theorem State.physWrite_asks (a : Nat) (bs : List Byte) : (s.physWrite a bs).asks = s.asks := rfl
@[simp] theorem State.physWrite_stage (a : Nat) (bs : List Byte) : (s.physWrite a bs).stage = s.stage := rfl
@[simp] theorem State.physWrite_fail (a : Nat) (bs : List Byte) : (s.physWrite a bs).fail = s.fail := rfl
@[simp] theorem State.physWrite_fwerr (a : Nat) (bs : List Byte) : (s.physWrite a bs).fwerr = s.fwerr := rfl
@[simp] theorem State.physWrite_clkBase (a : Nat) (bs : List Byte) : (s.physWrite a bs).clkBase = s.clkBase := rfl
@[simp] theorem State.physWrite_mailbox (a : Nat) (bs : List Byte) : (s.physWrite a bs).mailbox = s.mailbox := rfl
@[simp] theorem State.physWrite_ring (a : Nat) (bs : List Byte) : (s.physWrite a bs).ring = s.ring := rfl
@[simp] theorem State.physWrite_nwseq (a : Nat) (bs : List Byte) : (s.physWrite a bs).nwseq = s.nwseq := rfl
@[simp] theorem State.physWrite_nrseq (a : Nat) (bs : List Byte) : (s.physWrite a bs).nrseq = s.nrseq := rfl
@[simp] theorem State.physWrite_staging (a : Nat) (bs : List Byte) : (s.physWrite a bs).staging = s.staging := rfl
@[simp] theorem State.physWrite_firmware (a : Nat) (bs : List Byte) : (s.physWrite a bs).firmware = s.firmware := rfl
@[simp] theorem State.physWrite_hwins (a : Nat) (bs : List Byte) : (s.physWrite a bs).hwins = s.hwins := rfl
@[simp] theorem State.physWrite_hbms (a : Nat) (bs : List Byte) : (s.physWrite a bs).hbms = s.hbms := rfl
@[simp] theorem State.physWrite_clockCap (a : Nat) (bs : List Byte) : (s.physWrite a bs).clockCap = s.clockCap := rfl
@[simp] theorem State.physWrite_clockWant (a : Nat) (bs : List Byte) : (s.physWrite a bs).clockWant = s.clockWant := rfl
@[simp] theorem State.physWrite_limits (a : Nat) (bs : List Byte) : (s.physWrite a bs).limits = s.limits := rfl
@[simp] theorem State.physWrite_errors (a : Nat) (bs : List Byte) : (s.physWrite a bs).errors = s.errors := rfl
@[simp] theorem State.physWrite_harvest (a : Nat) (bs : List Byte) : (s.physWrite a bs).harvest = s.harvest := rfl
@[simp] theorem State.physWrite_suspects (a : Nat) (bs : List Byte) : (s.physWrite a bs).suspects = s.suspects := rfl
@[simp] theorem State.physWrite_msix (a : Nat) (bs : List Byte) : (s.physWrite a bs).msix = s.msix := rfl
@[simp] theorem State.physWrite_aer (a : Nat) (bs : List Byte) : (s.physWrite a bs).aer = s.aer := rfl
@[simp] theorem State.physWrite_partitionLosses (a : Nat) (bs : List Byte) : (s.physWrite a bs).partitionLosses = s.partitionLosses := rfl
@[simp] theorem State.physWrite_partitionLost (a : Nat) (bs : List Byte) : (s.physWrite a bs).partitionLost = s.partitionLost := rfl
@[simp] theorem State.physWrite_fused (a : Nat) (bs : List Byte) : (s.physWrite a bs).fused = s.fused := rfl
@[simp] theorem State.physWrite_hostReply (a : Nat) (bs : List Byte) : (s.physWrite a bs).hostReply = s.hostReply := rfl
@[simp] theorem State.physWrite_hostWidth (a : Nat) (bs : List Byte) : (s.physWrite a bs).hostWidth = s.hostWidth := rfl
@[simp] theorem State.physWrite_hostRate (a : Nat) (bs : List Byte) : (s.physWrite a bs).hostRate = s.hostRate := rfl
@[simp] theorem State.physWrite_nextKey (a : Nat) (bs : List Byte) : (s.physWrite a bs).nextKey = s.nextKey := rfl
@[simp] theorem State.physWrite_agenda (a : Nat) (bs : List Byte) : (s.physWrite a bs).agenda = s.agenda := rfl

/-! ### modGroup -/

@[simp] theorem State.modGroup_cur (gid : Nat) (f : Group → Group) : (s.modGroup gid f).cur = s.cur := rfl
@[simp] theorem State.modGroup_others (gid : Nat) (f : Group → Group) : (s.modGroup gid f).others = s.others := rfl
@[simp] theorem State.modGroup_groups (gid : Nat) (f : Group → Group) : (s.modGroup gid f).groups = s.groups.map fun g => if g.gid = gid then f g else g := rfl
@[simp] theorem State.modGroup_kernels (gid : Nat) (f : Group → Group) : (s.modGroup gid f).kernels = s.kernels := rfl
@[simp] theorem State.modGroup_ctxs (gid : Nat) (f : Group → Group) : (s.modGroup gid f).ctxs = s.ctxs := rfl
@[simp] theorem State.modGroup_mem (gid : Nat) (f : Group → Group) : (s.modGroup gid f).mem = s.mem := rfl
@[simp] theorem State.modGroup_poison (gid : Nat) (f : Group → Group) : (s.modGroup gid f).poison = s.poison := rfl
@[simp] theorem State.modGroup_guards (gid : Nat) (f : Group → Group) : (s.modGroup gid f).guards = s.guards := rfl
@[simp] theorem State.modGroup_loads (gid : Nat) (f : Group → Group) : (s.modGroup gid f).loads = s.loads := rfl
@[simp] theorem State.modGroup_posts (gid : Nat) (f : Group → Group) : (s.modGroup gid f).posts = s.posts := rfl
@[simp] theorem State.modGroup_engs (gid : Nat) (f : Group → Group) : (s.modGroup gid f).engs = s.engs := rfl
@[simp] theorem State.modGroup_counts (gid : Nat) (f : Group → Group) : (s.modGroup gid f).counts = s.counts := rfl
@[simp] theorem State.modGroup_mats (gid : Nat) (f : Group → Group) : (s.modGroup gid f).mats = s.mats := rfl
@[simp] theorem State.modGroup_binds (gid : Nat) (f : Group → Group) : (s.modGroup gid f).binds = s.binds := rfl
@[simp] theorem State.modGroup_early (gid : Nat) (f : Group → Group) : (s.modGroup gid f).early = s.early := rfl
@[simp] theorem State.modGroup_ahead (gid : Nat) (f : Group → Group) : (s.modGroup gid f).ahead = s.ahead := rfl
@[simp] theorem State.modGroup_sent (gid : Nat) (f : Group → Group) : (s.modGroup gid f).sent = s.sent := rfl
@[simp] theorem State.modGroup_remoteWaits (gid : Nat) (f : Group → Group) : (s.modGroup gid f).remoteWaits = s.remoteWaits := rfl
@[simp] theorem State.modGroup_landing (gid : Nat) (f : Group → Group) : (s.modGroup gid f).landing = s.landing := rfl
@[simp] theorem State.modGroup_reports (gid : Nat) (f : Group → Group) : (s.modGroup gid f).reports = s.reports := rfl
@[simp] theorem State.modGroup_combRegs (gid : Nat) (f : Group → Group) : (s.modGroup gid f).combRegs = s.combRegs := rfl
@[simp] theorem State.modGroup_combPackets (gid : Nat) (f : Group → Group) : (s.modGroup gid f).combPackets = s.combPackets := rfl
@[simp] theorem State.modGroup_combs (gid : Nat) (f : Group → Group) : (s.modGroup gid f).combs = s.combs := rfl
@[simp] theorem State.modGroup_msus (gid : Nat) (f : Group → Group) : (s.modGroup gid f).msus = s.msus := rfl
@[simp] theorem State.modGroup_cores (gid : Nat) (f : Group → Group) : (s.modGroup gid f).cores = s.cores := rfl
@[simp] theorem State.modGroup_quads (gid : Nat) (f : Group → Group) : (s.modGroup gid f).quads = s.quads := rfl
@[simp] theorem State.modGroup_dies (gid : Nat) (f : Group → Group) : (s.modGroup gid f).dies = s.dies := rfl
@[simp] theorem State.modGroup_coreMap (gid : Nat) (f : Group → Group) : (s.modGroup gid f).coreMap = s.coreMap := rfl
@[simp] theorem State.modGroup_outOfService (gid : Nat) (f : Group → Group) : (s.modGroup gid f).outOfService = s.outOfService := rfl
@[simp] theorem State.modGroup_clk (gid : Nat) (f : Group → Group) : (s.modGroup gid f).clk = s.clk := rfl
@[simp] theorem State.modGroup_rank (gid : Nat) (f : Group → Group) : (s.modGroup gid f).rank = s.rank := rfl
@[simp] theorem State.modGroup_podSize (gid : Nat) (f : Group → Group) : (s.modGroup gid f).podSize = s.podSize := rfl
@[simp] theorem State.modGroup_spare (gid : Nat) (f : Group → Group) : (s.modGroup gid f).spare = s.spare := rfl
@[simp] theorem State.modGroup_incarnation (gid : Nat) (f : Group → Group) : (s.modGroup gid f).incarnation = s.incarnation := rfl
@[simp] theorem State.modGroup_peerInc (gid : Nat) (f : Group → Group) : (s.modGroup gid f).peerInc = s.peerInc := rfl
@[simp] theorem State.modGroup_ports (gid : Nat) (f : Group → Group) : (s.modGroup gid f).ports = s.ports := rfl
@[simp] theorem State.modGroup_peerLinks (gid : Nat) (f : Group → Group) : (s.modGroup gid f).peerLinks = s.peerLinks := rfl
@[simp] theorem State.modGroup_override (gid : Nat) (f : Group → Group) : (s.modGroup gid f).override = s.override := rfl
@[simp] theorem State.modGroup_route (gid : Nat) (f : Group → Group) : (s.modGroup gid f).route = s.route := rfl
@[simp] theorem State.modGroup_pathless (gid : Nat) (f : Group → Group) : (s.modGroup gid f).pathless = s.pathless := rfl
@[simp] theorem State.modGroup_holds (gid : Nat) (f : Group → Group) : (s.modGroup gid f).holds = s.holds := rfl
@[simp] theorem State.modGroup_pathSeq (gid : Nat) (f : Group → Group) : (s.modGroup gid f).pathSeq = s.pathSeq := rfl
@[simp] theorem State.modGroup_landed (gid : Nat) (f : Group → Group) : (s.modGroup gid f).landed = s.landed := rfl
@[simp] theorem State.modGroup_landedMore (gid : Nat) (f : Group → Group) : (s.modGroup gid f).landedMore = s.landedMore := rfl
@[simp] theorem State.modGroup_heldSignals (gid : Nat) (f : Group → Group) : (s.modGroup gid f).heldSignals = s.heldSignals := rfl
@[simp] theorem State.modGroup_apertures (gid : Nat) (f : Group → Group) : (s.modGroup gid f).apertures = s.apertures := rfl
@[simp] theorem State.modGroup_splits (gid : Nat) (f : Group → Group) : (s.modGroup gid f).splits = s.splits := rfl
@[simp] theorem State.modGroup_used (gid : Nat) (f : Group → Group) : (s.modGroup gid f).used = s.used := rfl
@[simp] theorem State.modGroup_coFrames (gid : Nat) (f : Group → Group) : (s.modGroup gid f).coFrames = s.coFrames := rfl
@[simp] theorem State.modGroup_reserved (gid : Nat) (f : Group → Group) : (s.modGroup gid f).reserved = s.reserved := rfl
@[simp] theorem State.modGroup_refusals (gid : Nat) (f : Group → Group) : (s.modGroup gid f).refusals = s.refusals := rfl
@[simp] theorem State.modGroup_retrains (gid : Nat) (f : Group → Group) : (s.modGroup gid f).retrains = s.retrains := rfl
@[simp] theorem State.modGroup_slices (gid : Nat) (f : Group → Group) : (s.modGroup gid f).slices = s.slices := rfl
@[simp] theorem State.modGroup_appends (gid : Nat) (f : Group → Group) : (s.modGroup gid f).appends = s.appends := rfl
@[simp] theorem State.modGroup_launches (gid : Nat) (f : Group → Group) : (s.modGroup gid f).launches = s.launches := rfl
@[simp] theorem State.modGroup_cmds (gid : Nat) (f : Group → Group) : (s.modGroup gid f).cmds = s.cmds := rfl
@[simp] theorem State.modGroup_notices (gid : Nat) (f : Group → Group) : (s.modGroup gid f).notices = s.notices := rfl
@[simp] theorem State.modGroup_nextNotice (gid : Nat) (f : Group → Group) : (s.modGroup gid f).nextNotice = s.nextNotice := rfl
@[simp] theorem State.modGroup_plans (gid : Nat) (f : Group → Group) : (s.modGroup gid f).plans = s.plans := rfl
@[simp] theorem State.modGroup_asks (gid : Nat) (f : Group → Group) : (s.modGroup gid f).asks = s.asks := rfl
@[simp] theorem State.modGroup_stage (gid : Nat) (f : Group → Group) : (s.modGroup gid f).stage = s.stage := rfl
@[simp] theorem State.modGroup_fail (gid : Nat) (f : Group → Group) : (s.modGroup gid f).fail = s.fail := rfl
@[simp] theorem State.modGroup_fwerr (gid : Nat) (f : Group → Group) : (s.modGroup gid f).fwerr = s.fwerr := rfl
@[simp] theorem State.modGroup_clkBase (gid : Nat) (f : Group → Group) : (s.modGroup gid f).clkBase = s.clkBase := rfl
@[simp] theorem State.modGroup_mailbox (gid : Nat) (f : Group → Group) : (s.modGroup gid f).mailbox = s.mailbox := rfl
@[simp] theorem State.modGroup_ring (gid : Nat) (f : Group → Group) : (s.modGroup gid f).ring = s.ring := rfl
@[simp] theorem State.modGroup_nwseq (gid : Nat) (f : Group → Group) : (s.modGroup gid f).nwseq = s.nwseq := rfl
@[simp] theorem State.modGroup_nrseq (gid : Nat) (f : Group → Group) : (s.modGroup gid f).nrseq = s.nrseq := rfl
@[simp] theorem State.modGroup_staging (gid : Nat) (f : Group → Group) : (s.modGroup gid f).staging = s.staging := rfl
@[simp] theorem State.modGroup_firmware (gid : Nat) (f : Group → Group) : (s.modGroup gid f).firmware = s.firmware := rfl
@[simp] theorem State.modGroup_hwins (gid : Nat) (f : Group → Group) : (s.modGroup gid f).hwins = s.hwins := rfl
@[simp] theorem State.modGroup_hbms (gid : Nat) (f : Group → Group) : (s.modGroup gid f).hbms = s.hbms := rfl
@[simp] theorem State.modGroup_clockCap (gid : Nat) (f : Group → Group) : (s.modGroup gid f).clockCap = s.clockCap := rfl
@[simp] theorem State.modGroup_clockWant (gid : Nat) (f : Group → Group) : (s.modGroup gid f).clockWant = s.clockWant := rfl
@[simp] theorem State.modGroup_limits (gid : Nat) (f : Group → Group) : (s.modGroup gid f).limits = s.limits := rfl
@[simp] theorem State.modGroup_errors (gid : Nat) (f : Group → Group) : (s.modGroup gid f).errors = s.errors := rfl
@[simp] theorem State.modGroup_harvest (gid : Nat) (f : Group → Group) : (s.modGroup gid f).harvest = s.harvest := rfl
@[simp] theorem State.modGroup_suspects (gid : Nat) (f : Group → Group) : (s.modGroup gid f).suspects = s.suspects := rfl
@[simp] theorem State.modGroup_msix (gid : Nat) (f : Group → Group) : (s.modGroup gid f).msix = s.msix := rfl
@[simp] theorem State.modGroup_aer (gid : Nat) (f : Group → Group) : (s.modGroup gid f).aer = s.aer := rfl
@[simp] theorem State.modGroup_partitionLosses (gid : Nat) (f : Group → Group) : (s.modGroup gid f).partitionLosses = s.partitionLosses := rfl
@[simp] theorem State.modGroup_partitionLost (gid : Nat) (f : Group → Group) : (s.modGroup gid f).partitionLost = s.partitionLost := rfl
@[simp] theorem State.modGroup_fused (gid : Nat) (f : Group → Group) : (s.modGroup gid f).fused = s.fused := rfl
@[simp] theorem State.modGroup_hostReply (gid : Nat) (f : Group → Group) : (s.modGroup gid f).hostReply = s.hostReply := rfl
@[simp] theorem State.modGroup_hostWidth (gid : Nat) (f : Group → Group) : (s.modGroup gid f).hostWidth = s.hostWidth := rfl
@[simp] theorem State.modGroup_hostRate (gid : Nat) (f : Group → Group) : (s.modGroup gid f).hostRate = s.hostRate := rfl
@[simp] theorem State.modGroup_nextKey (gid : Nat) (f : Group → Group) : (s.modGroup gid f).nextKey = s.nextKey := rfl
@[simp] theorem State.modGroup_agenda (gid : Nat) (f : Group → Group) : (s.modGroup gid f).agenda = s.agenda := rfl

/-! ### modKernel -/

@[simp] theorem State.modKernel_cur (kid : Nat) (f : Kernel → Kernel) : (s.modKernel kid f).cur = s.cur := rfl
@[simp] theorem State.modKernel_others (kid : Nat) (f : Kernel → Kernel) : (s.modKernel kid f).others = s.others := rfl
@[simp] theorem State.modKernel_groups (kid : Nat) (f : Kernel → Kernel) : (s.modKernel kid f).groups = s.groups := rfl
@[simp] theorem State.modKernel_kernels (kid : Nat) (f : Kernel → Kernel) : (s.modKernel kid f).kernels = s.kernels.map fun k => if k.kid = kid then f k else k := rfl
@[simp] theorem State.modKernel_ctxs (kid : Nat) (f : Kernel → Kernel) : (s.modKernel kid f).ctxs = s.ctxs := rfl
@[simp] theorem State.modKernel_mem (kid : Nat) (f : Kernel → Kernel) : (s.modKernel kid f).mem = s.mem := rfl
@[simp] theorem State.modKernel_poison (kid : Nat) (f : Kernel → Kernel) : (s.modKernel kid f).poison = s.poison := rfl
@[simp] theorem State.modKernel_guards (kid : Nat) (f : Kernel → Kernel) : (s.modKernel kid f).guards = s.guards := rfl
@[simp] theorem State.modKernel_loads (kid : Nat) (f : Kernel → Kernel) : (s.modKernel kid f).loads = s.loads := rfl
@[simp] theorem State.modKernel_posts (kid : Nat) (f : Kernel → Kernel) : (s.modKernel kid f).posts = s.posts := rfl
@[simp] theorem State.modKernel_engs (kid : Nat) (f : Kernel → Kernel) : (s.modKernel kid f).engs = s.engs := rfl
@[simp] theorem State.modKernel_counts (kid : Nat) (f : Kernel → Kernel) : (s.modKernel kid f).counts = s.counts := rfl
@[simp] theorem State.modKernel_mats (kid : Nat) (f : Kernel → Kernel) : (s.modKernel kid f).mats = s.mats := rfl
@[simp] theorem State.modKernel_binds (kid : Nat) (f : Kernel → Kernel) : (s.modKernel kid f).binds = s.binds := rfl
@[simp] theorem State.modKernel_early (kid : Nat) (f : Kernel → Kernel) : (s.modKernel kid f).early = s.early := rfl
@[simp] theorem State.modKernel_ahead (kid : Nat) (f : Kernel → Kernel) : (s.modKernel kid f).ahead = s.ahead := rfl
@[simp] theorem State.modKernel_sent (kid : Nat) (f : Kernel → Kernel) : (s.modKernel kid f).sent = s.sent := rfl
@[simp] theorem State.modKernel_remoteWaits (kid : Nat) (f : Kernel → Kernel) : (s.modKernel kid f).remoteWaits = s.remoteWaits := rfl
@[simp] theorem State.modKernel_landing (kid : Nat) (f : Kernel → Kernel) : (s.modKernel kid f).landing = s.landing := rfl
@[simp] theorem State.modKernel_reports (kid : Nat) (f : Kernel → Kernel) : (s.modKernel kid f).reports = s.reports := rfl
@[simp] theorem State.modKernel_combRegs (kid : Nat) (f : Kernel → Kernel) : (s.modKernel kid f).combRegs = s.combRegs := rfl
@[simp] theorem State.modKernel_combPackets (kid : Nat) (f : Kernel → Kernel) : (s.modKernel kid f).combPackets = s.combPackets := rfl
@[simp] theorem State.modKernel_combs (kid : Nat) (f : Kernel → Kernel) : (s.modKernel kid f).combs = s.combs := rfl
@[simp] theorem State.modKernel_msus (kid : Nat) (f : Kernel → Kernel) : (s.modKernel kid f).msus = s.msus := rfl
@[simp] theorem State.modKernel_cores (kid : Nat) (f : Kernel → Kernel) : (s.modKernel kid f).cores = s.cores := rfl
@[simp] theorem State.modKernel_quads (kid : Nat) (f : Kernel → Kernel) : (s.modKernel kid f).quads = s.quads := rfl
@[simp] theorem State.modKernel_dies (kid : Nat) (f : Kernel → Kernel) : (s.modKernel kid f).dies = s.dies := rfl
@[simp] theorem State.modKernel_coreMap (kid : Nat) (f : Kernel → Kernel) : (s.modKernel kid f).coreMap = s.coreMap := rfl
@[simp] theorem State.modKernel_outOfService (kid : Nat) (f : Kernel → Kernel) : (s.modKernel kid f).outOfService = s.outOfService := rfl
@[simp] theorem State.modKernel_clk (kid : Nat) (f : Kernel → Kernel) : (s.modKernel kid f).clk = s.clk := rfl
@[simp] theorem State.modKernel_rank (kid : Nat) (f : Kernel → Kernel) : (s.modKernel kid f).rank = s.rank := rfl
@[simp] theorem State.modKernel_podSize (kid : Nat) (f : Kernel → Kernel) : (s.modKernel kid f).podSize = s.podSize := rfl
@[simp] theorem State.modKernel_spare (kid : Nat) (f : Kernel → Kernel) : (s.modKernel kid f).spare = s.spare := rfl
@[simp] theorem State.modKernel_incarnation (kid : Nat) (f : Kernel → Kernel) : (s.modKernel kid f).incarnation = s.incarnation := rfl
@[simp] theorem State.modKernel_peerInc (kid : Nat) (f : Kernel → Kernel) : (s.modKernel kid f).peerInc = s.peerInc := rfl
@[simp] theorem State.modKernel_ports (kid : Nat) (f : Kernel → Kernel) : (s.modKernel kid f).ports = s.ports := rfl
@[simp] theorem State.modKernel_peerLinks (kid : Nat) (f : Kernel → Kernel) : (s.modKernel kid f).peerLinks = s.peerLinks := rfl
@[simp] theorem State.modKernel_override (kid : Nat) (f : Kernel → Kernel) : (s.modKernel kid f).override = s.override := rfl
@[simp] theorem State.modKernel_route (kid : Nat) (f : Kernel → Kernel) : (s.modKernel kid f).route = s.route := rfl
@[simp] theorem State.modKernel_pathless (kid : Nat) (f : Kernel → Kernel) : (s.modKernel kid f).pathless = s.pathless := rfl
@[simp] theorem State.modKernel_holds (kid : Nat) (f : Kernel → Kernel) : (s.modKernel kid f).holds = s.holds := rfl
@[simp] theorem State.modKernel_pathSeq (kid : Nat) (f : Kernel → Kernel) : (s.modKernel kid f).pathSeq = s.pathSeq := rfl
@[simp] theorem State.modKernel_landed (kid : Nat) (f : Kernel → Kernel) : (s.modKernel kid f).landed = s.landed := rfl
@[simp] theorem State.modKernel_landedMore (kid : Nat) (f : Kernel → Kernel) : (s.modKernel kid f).landedMore = s.landedMore := rfl
@[simp] theorem State.modKernel_heldSignals (kid : Nat) (f : Kernel → Kernel) : (s.modKernel kid f).heldSignals = s.heldSignals := rfl
@[simp] theorem State.modKernel_apertures (kid : Nat) (f : Kernel → Kernel) : (s.modKernel kid f).apertures = s.apertures := rfl
@[simp] theorem State.modKernel_splits (kid : Nat) (f : Kernel → Kernel) : (s.modKernel kid f).splits = s.splits := rfl
@[simp] theorem State.modKernel_used (kid : Nat) (f : Kernel → Kernel) : (s.modKernel kid f).used = s.used := rfl
@[simp] theorem State.modKernel_coFrames (kid : Nat) (f : Kernel → Kernel) : (s.modKernel kid f).coFrames = s.coFrames := rfl
@[simp] theorem State.modKernel_reserved (kid : Nat) (f : Kernel → Kernel) : (s.modKernel kid f).reserved = s.reserved := rfl
@[simp] theorem State.modKernel_refusals (kid : Nat) (f : Kernel → Kernel) : (s.modKernel kid f).refusals = s.refusals := rfl
@[simp] theorem State.modKernel_retrains (kid : Nat) (f : Kernel → Kernel) : (s.modKernel kid f).retrains = s.retrains := rfl
@[simp] theorem State.modKernel_slices (kid : Nat) (f : Kernel → Kernel) : (s.modKernel kid f).slices = s.slices := rfl
@[simp] theorem State.modKernel_appends (kid : Nat) (f : Kernel → Kernel) : (s.modKernel kid f).appends = s.appends := rfl
@[simp] theorem State.modKernel_launches (kid : Nat) (f : Kernel → Kernel) : (s.modKernel kid f).launches = s.launches := rfl
@[simp] theorem State.modKernel_cmds (kid : Nat) (f : Kernel → Kernel) : (s.modKernel kid f).cmds = s.cmds := rfl
@[simp] theorem State.modKernel_notices (kid : Nat) (f : Kernel → Kernel) : (s.modKernel kid f).notices = s.notices := rfl
@[simp] theorem State.modKernel_nextNotice (kid : Nat) (f : Kernel → Kernel) : (s.modKernel kid f).nextNotice = s.nextNotice := rfl
@[simp] theorem State.modKernel_plans (kid : Nat) (f : Kernel → Kernel) : (s.modKernel kid f).plans = s.plans := rfl
@[simp] theorem State.modKernel_asks (kid : Nat) (f : Kernel → Kernel) : (s.modKernel kid f).asks = s.asks := rfl
@[simp] theorem State.modKernel_stage (kid : Nat) (f : Kernel → Kernel) : (s.modKernel kid f).stage = s.stage := rfl
@[simp] theorem State.modKernel_fail (kid : Nat) (f : Kernel → Kernel) : (s.modKernel kid f).fail = s.fail := rfl
@[simp] theorem State.modKernel_fwerr (kid : Nat) (f : Kernel → Kernel) : (s.modKernel kid f).fwerr = s.fwerr := rfl
@[simp] theorem State.modKernel_clkBase (kid : Nat) (f : Kernel → Kernel) : (s.modKernel kid f).clkBase = s.clkBase := rfl
@[simp] theorem State.modKernel_mailbox (kid : Nat) (f : Kernel → Kernel) : (s.modKernel kid f).mailbox = s.mailbox := rfl
@[simp] theorem State.modKernel_ring (kid : Nat) (f : Kernel → Kernel) : (s.modKernel kid f).ring = s.ring := rfl
@[simp] theorem State.modKernel_nwseq (kid : Nat) (f : Kernel → Kernel) : (s.modKernel kid f).nwseq = s.nwseq := rfl
@[simp] theorem State.modKernel_nrseq (kid : Nat) (f : Kernel → Kernel) : (s.modKernel kid f).nrseq = s.nrseq := rfl
@[simp] theorem State.modKernel_staging (kid : Nat) (f : Kernel → Kernel) : (s.modKernel kid f).staging = s.staging := rfl
@[simp] theorem State.modKernel_firmware (kid : Nat) (f : Kernel → Kernel) : (s.modKernel kid f).firmware = s.firmware := rfl
@[simp] theorem State.modKernel_hwins (kid : Nat) (f : Kernel → Kernel) : (s.modKernel kid f).hwins = s.hwins := rfl
@[simp] theorem State.modKernel_hbms (kid : Nat) (f : Kernel → Kernel) : (s.modKernel kid f).hbms = s.hbms := rfl
@[simp] theorem State.modKernel_clockCap (kid : Nat) (f : Kernel → Kernel) : (s.modKernel kid f).clockCap = s.clockCap := rfl
@[simp] theorem State.modKernel_clockWant (kid : Nat) (f : Kernel → Kernel) : (s.modKernel kid f).clockWant = s.clockWant := rfl
@[simp] theorem State.modKernel_limits (kid : Nat) (f : Kernel → Kernel) : (s.modKernel kid f).limits = s.limits := rfl
@[simp] theorem State.modKernel_errors (kid : Nat) (f : Kernel → Kernel) : (s.modKernel kid f).errors = s.errors := rfl
@[simp] theorem State.modKernel_harvest (kid : Nat) (f : Kernel → Kernel) : (s.modKernel kid f).harvest = s.harvest := rfl
@[simp] theorem State.modKernel_suspects (kid : Nat) (f : Kernel → Kernel) : (s.modKernel kid f).suspects = s.suspects := rfl
@[simp] theorem State.modKernel_msix (kid : Nat) (f : Kernel → Kernel) : (s.modKernel kid f).msix = s.msix := rfl
@[simp] theorem State.modKernel_aer (kid : Nat) (f : Kernel → Kernel) : (s.modKernel kid f).aer = s.aer := rfl
@[simp] theorem State.modKernel_partitionLosses (kid : Nat) (f : Kernel → Kernel) : (s.modKernel kid f).partitionLosses = s.partitionLosses := rfl
@[simp] theorem State.modKernel_partitionLost (kid : Nat) (f : Kernel → Kernel) : (s.modKernel kid f).partitionLost = s.partitionLost := rfl
@[simp] theorem State.modKernel_fused (kid : Nat) (f : Kernel → Kernel) : (s.modKernel kid f).fused = s.fused := rfl
@[simp] theorem State.modKernel_hostReply (kid : Nat) (f : Kernel → Kernel) : (s.modKernel kid f).hostReply = s.hostReply := rfl
@[simp] theorem State.modKernel_hostWidth (kid : Nat) (f : Kernel → Kernel) : (s.modKernel kid f).hostWidth = s.hostWidth := rfl
@[simp] theorem State.modKernel_hostRate (kid : Nat) (f : Kernel → Kernel) : (s.modKernel kid f).hostRate = s.hostRate := rfl
@[simp] theorem State.modKernel_nextKey (kid : Nat) (f : Kernel → Kernel) : (s.modKernel kid f).nextKey = s.nextKey := rfl
@[simp] theorem State.modKernel_agenda (kid : Nat) (f : Kernel → Kernel) : (s.modKernel kid f).agenda = s.agenda := rfl

/-! ### modCtx -/

@[simp] theorem State.modCtx_cur (slot : Nat) (f : Ctx → Ctx) : (s.modCtx slot f).cur = s.cur := rfl
@[simp] theorem State.modCtx_others (slot : Nat) (f : Ctx → Ctx) : (s.modCtx slot f).others = s.others := rfl
@[simp] theorem State.modCtx_groups (slot : Nat) (f : Ctx → Ctx) : (s.modCtx slot f).groups = s.groups := rfl
@[simp] theorem State.modCtx_kernels (slot : Nat) (f : Ctx → Ctx) : (s.modCtx slot f).kernels = s.kernels := rfl
@[simp] theorem State.modCtx_ctxs (slot : Nat) (f : Ctx → Ctx) : (s.modCtx slot f).ctxs = s.ctxs.map fun c => if c.slot = slot then f c else c := rfl
@[simp] theorem State.modCtx_mem (slot : Nat) (f : Ctx → Ctx) : (s.modCtx slot f).mem = s.mem := rfl
@[simp] theorem State.modCtx_poison (slot : Nat) (f : Ctx → Ctx) : (s.modCtx slot f).poison = s.poison := rfl
@[simp] theorem State.modCtx_guards (slot : Nat) (f : Ctx → Ctx) : (s.modCtx slot f).guards = s.guards := rfl
@[simp] theorem State.modCtx_loads (slot : Nat) (f : Ctx → Ctx) : (s.modCtx slot f).loads = s.loads := rfl
@[simp] theorem State.modCtx_posts (slot : Nat) (f : Ctx → Ctx) : (s.modCtx slot f).posts = s.posts := rfl
@[simp] theorem State.modCtx_engs (slot : Nat) (f : Ctx → Ctx) : (s.modCtx slot f).engs = s.engs := rfl
@[simp] theorem State.modCtx_counts (slot : Nat) (f : Ctx → Ctx) : (s.modCtx slot f).counts = s.counts := rfl
@[simp] theorem State.modCtx_mats (slot : Nat) (f : Ctx → Ctx) : (s.modCtx slot f).mats = s.mats := rfl
@[simp] theorem State.modCtx_binds (slot : Nat) (f : Ctx → Ctx) : (s.modCtx slot f).binds = s.binds := rfl
@[simp] theorem State.modCtx_early (slot : Nat) (f : Ctx → Ctx) : (s.modCtx slot f).early = s.early := rfl
@[simp] theorem State.modCtx_ahead (slot : Nat) (f : Ctx → Ctx) : (s.modCtx slot f).ahead = s.ahead := rfl
@[simp] theorem State.modCtx_sent (slot : Nat) (f : Ctx → Ctx) : (s.modCtx slot f).sent = s.sent := rfl
@[simp] theorem State.modCtx_remoteWaits (slot : Nat) (f : Ctx → Ctx) : (s.modCtx slot f).remoteWaits = s.remoteWaits := rfl
@[simp] theorem State.modCtx_landing (slot : Nat) (f : Ctx → Ctx) : (s.modCtx slot f).landing = s.landing := rfl
@[simp] theorem State.modCtx_reports (slot : Nat) (f : Ctx → Ctx) : (s.modCtx slot f).reports = s.reports := rfl
@[simp] theorem State.modCtx_combRegs (slot : Nat) (f : Ctx → Ctx) : (s.modCtx slot f).combRegs = s.combRegs := rfl
@[simp] theorem State.modCtx_combPackets (slot : Nat) (f : Ctx → Ctx) : (s.modCtx slot f).combPackets = s.combPackets := rfl
@[simp] theorem State.modCtx_combs (slot : Nat) (f : Ctx → Ctx) : (s.modCtx slot f).combs = s.combs := rfl
@[simp] theorem State.modCtx_msus (slot : Nat) (f : Ctx → Ctx) : (s.modCtx slot f).msus = s.msus := rfl
@[simp] theorem State.modCtx_cores (slot : Nat) (f : Ctx → Ctx) : (s.modCtx slot f).cores = s.cores := rfl
@[simp] theorem State.modCtx_quads (slot : Nat) (f : Ctx → Ctx) : (s.modCtx slot f).quads = s.quads := rfl
@[simp] theorem State.modCtx_dies (slot : Nat) (f : Ctx → Ctx) : (s.modCtx slot f).dies = s.dies := rfl
@[simp] theorem State.modCtx_coreMap (slot : Nat) (f : Ctx → Ctx) : (s.modCtx slot f).coreMap = s.coreMap := rfl
@[simp] theorem State.modCtx_outOfService (slot : Nat) (f : Ctx → Ctx) : (s.modCtx slot f).outOfService = s.outOfService := rfl
@[simp] theorem State.modCtx_clk (slot : Nat) (f : Ctx → Ctx) : (s.modCtx slot f).clk = s.clk := rfl
@[simp] theorem State.modCtx_rank (slot : Nat) (f : Ctx → Ctx) : (s.modCtx slot f).rank = s.rank := rfl
@[simp] theorem State.modCtx_podSize (slot : Nat) (f : Ctx → Ctx) : (s.modCtx slot f).podSize = s.podSize := rfl
@[simp] theorem State.modCtx_spare (slot : Nat) (f : Ctx → Ctx) : (s.modCtx slot f).spare = s.spare := rfl
@[simp] theorem State.modCtx_incarnation (slot : Nat) (f : Ctx → Ctx) : (s.modCtx slot f).incarnation = s.incarnation := rfl
@[simp] theorem State.modCtx_peerInc (slot : Nat) (f : Ctx → Ctx) : (s.modCtx slot f).peerInc = s.peerInc := rfl
@[simp] theorem State.modCtx_ports (slot : Nat) (f : Ctx → Ctx) : (s.modCtx slot f).ports = s.ports := rfl
@[simp] theorem State.modCtx_peerLinks (slot : Nat) (f : Ctx → Ctx) : (s.modCtx slot f).peerLinks = s.peerLinks := rfl
@[simp] theorem State.modCtx_override (slot : Nat) (f : Ctx → Ctx) : (s.modCtx slot f).override = s.override := rfl
@[simp] theorem State.modCtx_route (slot : Nat) (f : Ctx → Ctx) : (s.modCtx slot f).route = s.route := rfl
@[simp] theorem State.modCtx_pathless (slot : Nat) (f : Ctx → Ctx) : (s.modCtx slot f).pathless = s.pathless := rfl
@[simp] theorem State.modCtx_holds (slot : Nat) (f : Ctx → Ctx) : (s.modCtx slot f).holds = s.holds := rfl
@[simp] theorem State.modCtx_pathSeq (slot : Nat) (f : Ctx → Ctx) : (s.modCtx slot f).pathSeq = s.pathSeq := rfl
@[simp] theorem State.modCtx_landed (slot : Nat) (f : Ctx → Ctx) : (s.modCtx slot f).landed = s.landed := rfl
@[simp] theorem State.modCtx_landedMore (slot : Nat) (f : Ctx → Ctx) : (s.modCtx slot f).landedMore = s.landedMore := rfl
@[simp] theorem State.modCtx_heldSignals (slot : Nat) (f : Ctx → Ctx) : (s.modCtx slot f).heldSignals = s.heldSignals := rfl
@[simp] theorem State.modCtx_apertures (slot : Nat) (f : Ctx → Ctx) : (s.modCtx slot f).apertures = s.apertures := rfl
@[simp] theorem State.modCtx_splits (slot : Nat) (f : Ctx → Ctx) : (s.modCtx slot f).splits = s.splits := rfl
@[simp] theorem State.modCtx_used (slot : Nat) (f : Ctx → Ctx) : (s.modCtx slot f).used = s.used := rfl
@[simp] theorem State.modCtx_coFrames (slot : Nat) (f : Ctx → Ctx) : (s.modCtx slot f).coFrames = s.coFrames := rfl
@[simp] theorem State.modCtx_reserved (slot : Nat) (f : Ctx → Ctx) : (s.modCtx slot f).reserved = s.reserved := rfl
@[simp] theorem State.modCtx_refusals (slot : Nat) (f : Ctx → Ctx) : (s.modCtx slot f).refusals = s.refusals := rfl
@[simp] theorem State.modCtx_retrains (slot : Nat) (f : Ctx → Ctx) : (s.modCtx slot f).retrains = s.retrains := rfl
@[simp] theorem State.modCtx_slices (slot : Nat) (f : Ctx → Ctx) : (s.modCtx slot f).slices = s.slices := rfl
@[simp] theorem State.modCtx_appends (slot : Nat) (f : Ctx → Ctx) : (s.modCtx slot f).appends = s.appends := rfl
@[simp] theorem State.modCtx_launches (slot : Nat) (f : Ctx → Ctx) : (s.modCtx slot f).launches = s.launches := rfl
@[simp] theorem State.modCtx_cmds (slot : Nat) (f : Ctx → Ctx) : (s.modCtx slot f).cmds = s.cmds := rfl
@[simp] theorem State.modCtx_notices (slot : Nat) (f : Ctx → Ctx) : (s.modCtx slot f).notices = s.notices := rfl
@[simp] theorem State.modCtx_nextNotice (slot : Nat) (f : Ctx → Ctx) : (s.modCtx slot f).nextNotice = s.nextNotice := rfl
@[simp] theorem State.modCtx_plans (slot : Nat) (f : Ctx → Ctx) : (s.modCtx slot f).plans = s.plans := rfl
@[simp] theorem State.modCtx_asks (slot : Nat) (f : Ctx → Ctx) : (s.modCtx slot f).asks = s.asks := rfl
@[simp] theorem State.modCtx_stage (slot : Nat) (f : Ctx → Ctx) : (s.modCtx slot f).stage = s.stage := rfl
@[simp] theorem State.modCtx_fail (slot : Nat) (f : Ctx → Ctx) : (s.modCtx slot f).fail = s.fail := rfl
@[simp] theorem State.modCtx_fwerr (slot : Nat) (f : Ctx → Ctx) : (s.modCtx slot f).fwerr = s.fwerr := rfl
@[simp] theorem State.modCtx_clkBase (slot : Nat) (f : Ctx → Ctx) : (s.modCtx slot f).clkBase = s.clkBase := rfl
@[simp] theorem State.modCtx_mailbox (slot : Nat) (f : Ctx → Ctx) : (s.modCtx slot f).mailbox = s.mailbox := rfl
@[simp] theorem State.modCtx_ring (slot : Nat) (f : Ctx → Ctx) : (s.modCtx slot f).ring = s.ring := rfl
@[simp] theorem State.modCtx_nwseq (slot : Nat) (f : Ctx → Ctx) : (s.modCtx slot f).nwseq = s.nwseq := rfl
@[simp] theorem State.modCtx_nrseq (slot : Nat) (f : Ctx → Ctx) : (s.modCtx slot f).nrseq = s.nrseq := rfl
@[simp] theorem State.modCtx_staging (slot : Nat) (f : Ctx → Ctx) : (s.modCtx slot f).staging = s.staging := rfl
@[simp] theorem State.modCtx_firmware (slot : Nat) (f : Ctx → Ctx) : (s.modCtx slot f).firmware = s.firmware := rfl
@[simp] theorem State.modCtx_hwins (slot : Nat) (f : Ctx → Ctx) : (s.modCtx slot f).hwins = s.hwins := rfl
@[simp] theorem State.modCtx_hbms (slot : Nat) (f : Ctx → Ctx) : (s.modCtx slot f).hbms = s.hbms := rfl
@[simp] theorem State.modCtx_clockCap (slot : Nat) (f : Ctx → Ctx) : (s.modCtx slot f).clockCap = s.clockCap := rfl
@[simp] theorem State.modCtx_clockWant (slot : Nat) (f : Ctx → Ctx) : (s.modCtx slot f).clockWant = s.clockWant := rfl
@[simp] theorem State.modCtx_limits (slot : Nat) (f : Ctx → Ctx) : (s.modCtx slot f).limits = s.limits := rfl
@[simp] theorem State.modCtx_errors (slot : Nat) (f : Ctx → Ctx) : (s.modCtx slot f).errors = s.errors := rfl
@[simp] theorem State.modCtx_harvest (slot : Nat) (f : Ctx → Ctx) : (s.modCtx slot f).harvest = s.harvest := rfl
@[simp] theorem State.modCtx_suspects (slot : Nat) (f : Ctx → Ctx) : (s.modCtx slot f).suspects = s.suspects := rfl
@[simp] theorem State.modCtx_msix (slot : Nat) (f : Ctx → Ctx) : (s.modCtx slot f).msix = s.msix := rfl
@[simp] theorem State.modCtx_aer (slot : Nat) (f : Ctx → Ctx) : (s.modCtx slot f).aer = s.aer := rfl
@[simp] theorem State.modCtx_partitionLosses (slot : Nat) (f : Ctx → Ctx) : (s.modCtx slot f).partitionLosses = s.partitionLosses := rfl
@[simp] theorem State.modCtx_partitionLost (slot : Nat) (f : Ctx → Ctx) : (s.modCtx slot f).partitionLost = s.partitionLost := rfl
@[simp] theorem State.modCtx_fused (slot : Nat) (f : Ctx → Ctx) : (s.modCtx slot f).fused = s.fused := rfl
@[simp] theorem State.modCtx_hostReply (slot : Nat) (f : Ctx → Ctx) : (s.modCtx slot f).hostReply = s.hostReply := rfl
@[simp] theorem State.modCtx_hostWidth (slot : Nat) (f : Ctx → Ctx) : (s.modCtx slot f).hostWidth = s.hostWidth := rfl
@[simp] theorem State.modCtx_hostRate (slot : Nat) (f : Ctx → Ctx) : (s.modCtx slot f).hostRate = s.hostRate := rfl
@[simp] theorem State.modCtx_nextKey (slot : Nat) (f : Ctx → Ctx) : (s.modCtx slot f).nextKey = s.nextKey := rfl
@[simp] theorem State.modCtx_agenda (slot : Nat) (f : Ctx → Ctx) : (s.modCtx slot f).agenda = s.agenda := rfl

/-! ### modCore -/

@[simp] theorem State.modCore_cur (p : Nat) (f : Core → Core) : (s.modCore p f).cur = s.cur := rfl
@[simp] theorem State.modCore_others (p : Nat) (f : Core → Core) : (s.modCore p f).others = s.others := rfl
@[simp] theorem State.modCore_groups (p : Nat) (f : Core → Core) : (s.modCore p f).groups = s.groups := rfl
@[simp] theorem State.modCore_kernels (p : Nat) (f : Core → Core) : (s.modCore p f).kernels = s.kernels := rfl
@[simp] theorem State.modCore_ctxs (p : Nat) (f : Core → Core) : (s.modCore p f).ctxs = s.ctxs := rfl
@[simp] theorem State.modCore_mem (p : Nat) (f : Core → Core) : (s.modCore p f).mem = s.mem := rfl
@[simp] theorem State.modCore_poison (p : Nat) (f : Core → Core) : (s.modCore p f).poison = s.poison := rfl
@[simp] theorem State.modCore_guards (p : Nat) (f : Core → Core) : (s.modCore p f).guards = s.guards := rfl
@[simp] theorem State.modCore_loads (p : Nat) (f : Core → Core) : (s.modCore p f).loads = s.loads := rfl
@[simp] theorem State.modCore_posts (p : Nat) (f : Core → Core) : (s.modCore p f).posts = s.posts := rfl
@[simp] theorem State.modCore_engs (p : Nat) (f : Core → Core) : (s.modCore p f).engs = s.engs := rfl
@[simp] theorem State.modCore_counts (p : Nat) (f : Core → Core) : (s.modCore p f).counts = s.counts := rfl
@[simp] theorem State.modCore_mats (p : Nat) (f : Core → Core) : (s.modCore p f).mats = s.mats := rfl
@[simp] theorem State.modCore_binds (p : Nat) (f : Core → Core) : (s.modCore p f).binds = s.binds := rfl
@[simp] theorem State.modCore_early (p : Nat) (f : Core → Core) : (s.modCore p f).early = s.early := rfl
@[simp] theorem State.modCore_ahead (p : Nat) (f : Core → Core) : (s.modCore p f).ahead = s.ahead := rfl
@[simp] theorem State.modCore_sent (p : Nat) (f : Core → Core) : (s.modCore p f).sent = s.sent := rfl
@[simp] theorem State.modCore_remoteWaits (p : Nat) (f : Core → Core) : (s.modCore p f).remoteWaits = s.remoteWaits := rfl
@[simp] theorem State.modCore_landing (p : Nat) (f : Core → Core) : (s.modCore p f).landing = s.landing := rfl
@[simp] theorem State.modCore_reports (p : Nat) (f : Core → Core) : (s.modCore p f).reports = s.reports := rfl
@[simp] theorem State.modCore_combRegs (p : Nat) (f : Core → Core) : (s.modCore p f).combRegs = s.combRegs := rfl
@[simp] theorem State.modCore_combPackets (p : Nat) (f : Core → Core) : (s.modCore p f).combPackets = s.combPackets := rfl
@[simp] theorem State.modCore_combs (p : Nat) (f : Core → Core) : (s.modCore p f).combs = s.combs := rfl
@[simp] theorem State.modCore_msus (p : Nat) (f : Core → Core) : (s.modCore p f).msus = s.msus := rfl
@[simp] theorem State.modCore_cores (p : Nat) (f : Core → Core) : (s.modCore p f).cores = s.cores.set Core.init p (f (s.coreAt p)) := rfl
@[simp] theorem State.modCore_quads (p : Nat) (f : Core → Core) : (s.modCore p f).quads = s.quads := rfl
@[simp] theorem State.modCore_dies (p : Nat) (f : Core → Core) : (s.modCore p f).dies = s.dies := rfl
@[simp] theorem State.modCore_coreMap (p : Nat) (f : Core → Core) : (s.modCore p f).coreMap = s.coreMap := rfl
@[simp] theorem State.modCore_outOfService (p : Nat) (f : Core → Core) : (s.modCore p f).outOfService = s.outOfService := rfl
@[simp] theorem State.modCore_clk (p : Nat) (f : Core → Core) : (s.modCore p f).clk = s.clk := rfl
@[simp] theorem State.modCore_rank (p : Nat) (f : Core → Core) : (s.modCore p f).rank = s.rank := rfl
@[simp] theorem State.modCore_podSize (p : Nat) (f : Core → Core) : (s.modCore p f).podSize = s.podSize := rfl
@[simp] theorem State.modCore_spare (p : Nat) (f : Core → Core) : (s.modCore p f).spare = s.spare := rfl
@[simp] theorem State.modCore_incarnation (p : Nat) (f : Core → Core) : (s.modCore p f).incarnation = s.incarnation := rfl
@[simp] theorem State.modCore_peerInc (p : Nat) (f : Core → Core) : (s.modCore p f).peerInc = s.peerInc := rfl
@[simp] theorem State.modCore_ports (p : Nat) (f : Core → Core) : (s.modCore p f).ports = s.ports := rfl
@[simp] theorem State.modCore_peerLinks (p : Nat) (f : Core → Core) : (s.modCore p f).peerLinks = s.peerLinks := rfl
@[simp] theorem State.modCore_override (p : Nat) (f : Core → Core) : (s.modCore p f).override = s.override := rfl
@[simp] theorem State.modCore_route (p : Nat) (f : Core → Core) : (s.modCore p f).route = s.route := rfl
@[simp] theorem State.modCore_pathless (p : Nat) (f : Core → Core) : (s.modCore p f).pathless = s.pathless := rfl
@[simp] theorem State.modCore_holds (p : Nat) (f : Core → Core) : (s.modCore p f).holds = s.holds := rfl
@[simp] theorem State.modCore_pathSeq (p : Nat) (f : Core → Core) : (s.modCore p f).pathSeq = s.pathSeq := rfl
@[simp] theorem State.modCore_landed (p : Nat) (f : Core → Core) : (s.modCore p f).landed = s.landed := rfl
@[simp] theorem State.modCore_landedMore (p : Nat) (f : Core → Core) : (s.modCore p f).landedMore = s.landedMore := rfl
@[simp] theorem State.modCore_heldSignals (p : Nat) (f : Core → Core) : (s.modCore p f).heldSignals = s.heldSignals := rfl
@[simp] theorem State.modCore_apertures (p : Nat) (f : Core → Core) : (s.modCore p f).apertures = s.apertures := rfl
@[simp] theorem State.modCore_splits (p : Nat) (f : Core → Core) : (s.modCore p f).splits = s.splits := rfl
@[simp] theorem State.modCore_used (p : Nat) (f : Core → Core) : (s.modCore p f).used = s.used := rfl
@[simp] theorem State.modCore_coFrames (p : Nat) (f : Core → Core) : (s.modCore p f).coFrames = s.coFrames := rfl
@[simp] theorem State.modCore_reserved (p : Nat) (f : Core → Core) : (s.modCore p f).reserved = s.reserved := rfl
@[simp] theorem State.modCore_refusals (p : Nat) (f : Core → Core) : (s.modCore p f).refusals = s.refusals := rfl
@[simp] theorem State.modCore_retrains (p : Nat) (f : Core → Core) : (s.modCore p f).retrains = s.retrains := rfl
@[simp] theorem State.modCore_slices (p : Nat) (f : Core → Core) : (s.modCore p f).slices = s.slices := rfl
@[simp] theorem State.modCore_appends (p : Nat) (f : Core → Core) : (s.modCore p f).appends = s.appends := rfl
@[simp] theorem State.modCore_launches (p : Nat) (f : Core → Core) : (s.modCore p f).launches = s.launches := rfl
@[simp] theorem State.modCore_cmds (p : Nat) (f : Core → Core) : (s.modCore p f).cmds = s.cmds := rfl
@[simp] theorem State.modCore_notices (p : Nat) (f : Core → Core) : (s.modCore p f).notices = s.notices := rfl
@[simp] theorem State.modCore_nextNotice (p : Nat) (f : Core → Core) : (s.modCore p f).nextNotice = s.nextNotice := rfl
@[simp] theorem State.modCore_plans (p : Nat) (f : Core → Core) : (s.modCore p f).plans = s.plans := rfl
@[simp] theorem State.modCore_asks (p : Nat) (f : Core → Core) : (s.modCore p f).asks = s.asks := rfl
@[simp] theorem State.modCore_stage (p : Nat) (f : Core → Core) : (s.modCore p f).stage = s.stage := rfl
@[simp] theorem State.modCore_fail (p : Nat) (f : Core → Core) : (s.modCore p f).fail = s.fail := rfl
@[simp] theorem State.modCore_fwerr (p : Nat) (f : Core → Core) : (s.modCore p f).fwerr = s.fwerr := rfl
@[simp] theorem State.modCore_clkBase (p : Nat) (f : Core → Core) : (s.modCore p f).clkBase = s.clkBase := rfl
@[simp] theorem State.modCore_mailbox (p : Nat) (f : Core → Core) : (s.modCore p f).mailbox = s.mailbox := rfl
@[simp] theorem State.modCore_ring (p : Nat) (f : Core → Core) : (s.modCore p f).ring = s.ring := rfl
@[simp] theorem State.modCore_nwseq (p : Nat) (f : Core → Core) : (s.modCore p f).nwseq = s.nwseq := rfl
@[simp] theorem State.modCore_nrseq (p : Nat) (f : Core → Core) : (s.modCore p f).nrseq = s.nrseq := rfl
@[simp] theorem State.modCore_staging (p : Nat) (f : Core → Core) : (s.modCore p f).staging = s.staging := rfl
@[simp] theorem State.modCore_firmware (p : Nat) (f : Core → Core) : (s.modCore p f).firmware = s.firmware := rfl
@[simp] theorem State.modCore_hwins (p : Nat) (f : Core → Core) : (s.modCore p f).hwins = s.hwins := rfl
@[simp] theorem State.modCore_hbms (p : Nat) (f : Core → Core) : (s.modCore p f).hbms = s.hbms := rfl
@[simp] theorem State.modCore_clockCap (p : Nat) (f : Core → Core) : (s.modCore p f).clockCap = s.clockCap := rfl
@[simp] theorem State.modCore_clockWant (p : Nat) (f : Core → Core) : (s.modCore p f).clockWant = s.clockWant := rfl
@[simp] theorem State.modCore_limits (p : Nat) (f : Core → Core) : (s.modCore p f).limits = s.limits := rfl
@[simp] theorem State.modCore_errors (p : Nat) (f : Core → Core) : (s.modCore p f).errors = s.errors := rfl
@[simp] theorem State.modCore_harvest (p : Nat) (f : Core → Core) : (s.modCore p f).harvest = s.harvest := rfl
@[simp] theorem State.modCore_suspects (p : Nat) (f : Core → Core) : (s.modCore p f).suspects = s.suspects := rfl
@[simp] theorem State.modCore_msix (p : Nat) (f : Core → Core) : (s.modCore p f).msix = s.msix := rfl
@[simp] theorem State.modCore_aer (p : Nat) (f : Core → Core) : (s.modCore p f).aer = s.aer := rfl
@[simp] theorem State.modCore_partitionLosses (p : Nat) (f : Core → Core) : (s.modCore p f).partitionLosses = s.partitionLosses := rfl
@[simp] theorem State.modCore_partitionLost (p : Nat) (f : Core → Core) : (s.modCore p f).partitionLost = s.partitionLost := rfl
@[simp] theorem State.modCore_fused (p : Nat) (f : Core → Core) : (s.modCore p f).fused = s.fused := rfl
@[simp] theorem State.modCore_hostReply (p : Nat) (f : Core → Core) : (s.modCore p f).hostReply = s.hostReply := rfl
@[simp] theorem State.modCore_hostWidth (p : Nat) (f : Core → Core) : (s.modCore p f).hostWidth = s.hostWidth := rfl
@[simp] theorem State.modCore_hostRate (p : Nat) (f : Core → Core) : (s.modCore p f).hostRate = s.hostRate := rfl
@[simp] theorem State.modCore_nextKey (p : Nat) (f : Core → Core) : (s.modCore p f).nextKey = s.nextKey := rfl
@[simp] theorem State.modCore_agenda (p : Nat) (f : Core → Core) : (s.modCore p f).agenda = s.agenda := rfl

/-! ### modQuad -/

@[simp] theorem State.modQuad_cur (k : Nat) (f : Quad → Quad) : (s.modQuad k f).cur = s.cur := rfl
@[simp] theorem State.modQuad_others (k : Nat) (f : Quad → Quad) : (s.modQuad k f).others = s.others := rfl
@[simp] theorem State.modQuad_groups (k : Nat) (f : Quad → Quad) : (s.modQuad k f).groups = s.groups := rfl
@[simp] theorem State.modQuad_kernels (k : Nat) (f : Quad → Quad) : (s.modQuad k f).kernels = s.kernels := rfl
@[simp] theorem State.modQuad_ctxs (k : Nat) (f : Quad → Quad) : (s.modQuad k f).ctxs = s.ctxs := rfl
@[simp] theorem State.modQuad_mem (k : Nat) (f : Quad → Quad) : (s.modQuad k f).mem = s.mem := rfl
@[simp] theorem State.modQuad_poison (k : Nat) (f : Quad → Quad) : (s.modQuad k f).poison = s.poison := rfl
@[simp] theorem State.modQuad_guards (k : Nat) (f : Quad → Quad) : (s.modQuad k f).guards = s.guards := rfl
@[simp] theorem State.modQuad_loads (k : Nat) (f : Quad → Quad) : (s.modQuad k f).loads = s.loads := rfl
@[simp] theorem State.modQuad_posts (k : Nat) (f : Quad → Quad) : (s.modQuad k f).posts = s.posts := rfl
@[simp] theorem State.modQuad_engs (k : Nat) (f : Quad → Quad) : (s.modQuad k f).engs = s.engs := rfl
@[simp] theorem State.modQuad_counts (k : Nat) (f : Quad → Quad) : (s.modQuad k f).counts = s.counts := rfl
@[simp] theorem State.modQuad_mats (k : Nat) (f : Quad → Quad) : (s.modQuad k f).mats = s.mats := rfl
@[simp] theorem State.modQuad_binds (k : Nat) (f : Quad → Quad) : (s.modQuad k f).binds = s.binds := rfl
@[simp] theorem State.modQuad_early (k : Nat) (f : Quad → Quad) : (s.modQuad k f).early = s.early := rfl
@[simp] theorem State.modQuad_ahead (k : Nat) (f : Quad → Quad) : (s.modQuad k f).ahead = s.ahead := rfl
@[simp] theorem State.modQuad_sent (k : Nat) (f : Quad → Quad) : (s.modQuad k f).sent = s.sent := rfl
@[simp] theorem State.modQuad_remoteWaits (k : Nat) (f : Quad → Quad) : (s.modQuad k f).remoteWaits = s.remoteWaits := rfl
@[simp] theorem State.modQuad_landing (k : Nat) (f : Quad → Quad) : (s.modQuad k f).landing = s.landing := rfl
@[simp] theorem State.modQuad_reports (k : Nat) (f : Quad → Quad) : (s.modQuad k f).reports = s.reports := rfl
@[simp] theorem State.modQuad_combRegs (k : Nat) (f : Quad → Quad) : (s.modQuad k f).combRegs = s.combRegs := rfl
@[simp] theorem State.modQuad_combPackets (k : Nat) (f : Quad → Quad) : (s.modQuad k f).combPackets = s.combPackets := rfl
@[simp] theorem State.modQuad_combs (k : Nat) (f : Quad → Quad) : (s.modQuad k f).combs = s.combs := rfl
@[simp] theorem State.modQuad_msus (k : Nat) (f : Quad → Quad) : (s.modQuad k f).msus = s.msus := rfl
@[simp] theorem State.modQuad_cores (k : Nat) (f : Quad → Quad) : (s.modQuad k f).cores = s.cores := rfl
@[simp] theorem State.modQuad_quads (k : Nat) (f : Quad → Quad) : (s.modQuad k f).quads = s.quads.set Quad.init k (f (s.quadAt k)) := rfl
@[simp] theorem State.modQuad_dies (k : Nat) (f : Quad → Quad) : (s.modQuad k f).dies = s.dies := rfl
@[simp] theorem State.modQuad_coreMap (k : Nat) (f : Quad → Quad) : (s.modQuad k f).coreMap = s.coreMap := rfl
@[simp] theorem State.modQuad_outOfService (k : Nat) (f : Quad → Quad) : (s.modQuad k f).outOfService = s.outOfService := rfl
@[simp] theorem State.modQuad_clk (k : Nat) (f : Quad → Quad) : (s.modQuad k f).clk = s.clk := rfl
@[simp] theorem State.modQuad_rank (k : Nat) (f : Quad → Quad) : (s.modQuad k f).rank = s.rank := rfl
@[simp] theorem State.modQuad_podSize (k : Nat) (f : Quad → Quad) : (s.modQuad k f).podSize = s.podSize := rfl
@[simp] theorem State.modQuad_spare (k : Nat) (f : Quad → Quad) : (s.modQuad k f).spare = s.spare := rfl
@[simp] theorem State.modQuad_incarnation (k : Nat) (f : Quad → Quad) : (s.modQuad k f).incarnation = s.incarnation := rfl
@[simp] theorem State.modQuad_peerInc (k : Nat) (f : Quad → Quad) : (s.modQuad k f).peerInc = s.peerInc := rfl
@[simp] theorem State.modQuad_ports (k : Nat) (f : Quad → Quad) : (s.modQuad k f).ports = s.ports := rfl
@[simp] theorem State.modQuad_peerLinks (k : Nat) (f : Quad → Quad) : (s.modQuad k f).peerLinks = s.peerLinks := rfl
@[simp] theorem State.modQuad_override (k : Nat) (f : Quad → Quad) : (s.modQuad k f).override = s.override := rfl
@[simp] theorem State.modQuad_route (k : Nat) (f : Quad → Quad) : (s.modQuad k f).route = s.route := rfl
@[simp] theorem State.modQuad_pathless (k : Nat) (f : Quad → Quad) : (s.modQuad k f).pathless = s.pathless := rfl
@[simp] theorem State.modQuad_holds (k : Nat) (f : Quad → Quad) : (s.modQuad k f).holds = s.holds := rfl
@[simp] theorem State.modQuad_pathSeq (k : Nat) (f : Quad → Quad) : (s.modQuad k f).pathSeq = s.pathSeq := rfl
@[simp] theorem State.modQuad_landed (k : Nat) (f : Quad → Quad) : (s.modQuad k f).landed = s.landed := rfl
@[simp] theorem State.modQuad_landedMore (k : Nat) (f : Quad → Quad) : (s.modQuad k f).landedMore = s.landedMore := rfl
@[simp] theorem State.modQuad_heldSignals (k : Nat) (f : Quad → Quad) : (s.modQuad k f).heldSignals = s.heldSignals := rfl
@[simp] theorem State.modQuad_apertures (k : Nat) (f : Quad → Quad) : (s.modQuad k f).apertures = s.apertures := rfl
@[simp] theorem State.modQuad_splits (k : Nat) (f : Quad → Quad) : (s.modQuad k f).splits = s.splits := rfl
@[simp] theorem State.modQuad_used (k : Nat) (f : Quad → Quad) : (s.modQuad k f).used = s.used := rfl
@[simp] theorem State.modQuad_coFrames (k : Nat) (f : Quad → Quad) : (s.modQuad k f).coFrames = s.coFrames := rfl
@[simp] theorem State.modQuad_reserved (k : Nat) (f : Quad → Quad) : (s.modQuad k f).reserved = s.reserved := rfl
@[simp] theorem State.modQuad_refusals (k : Nat) (f : Quad → Quad) : (s.modQuad k f).refusals = s.refusals := rfl
@[simp] theorem State.modQuad_retrains (k : Nat) (f : Quad → Quad) : (s.modQuad k f).retrains = s.retrains := rfl
@[simp] theorem State.modQuad_slices (k : Nat) (f : Quad → Quad) : (s.modQuad k f).slices = s.slices := rfl
@[simp] theorem State.modQuad_appends (k : Nat) (f : Quad → Quad) : (s.modQuad k f).appends = s.appends := rfl
@[simp] theorem State.modQuad_launches (k : Nat) (f : Quad → Quad) : (s.modQuad k f).launches = s.launches := rfl
@[simp] theorem State.modQuad_cmds (k : Nat) (f : Quad → Quad) : (s.modQuad k f).cmds = s.cmds := rfl
@[simp] theorem State.modQuad_notices (k : Nat) (f : Quad → Quad) : (s.modQuad k f).notices = s.notices := rfl
@[simp] theorem State.modQuad_nextNotice (k : Nat) (f : Quad → Quad) : (s.modQuad k f).nextNotice = s.nextNotice := rfl
@[simp] theorem State.modQuad_plans (k : Nat) (f : Quad → Quad) : (s.modQuad k f).plans = s.plans := rfl
@[simp] theorem State.modQuad_asks (k : Nat) (f : Quad → Quad) : (s.modQuad k f).asks = s.asks := rfl
@[simp] theorem State.modQuad_stage (k : Nat) (f : Quad → Quad) : (s.modQuad k f).stage = s.stage := rfl
@[simp] theorem State.modQuad_fail (k : Nat) (f : Quad → Quad) : (s.modQuad k f).fail = s.fail := rfl
@[simp] theorem State.modQuad_fwerr (k : Nat) (f : Quad → Quad) : (s.modQuad k f).fwerr = s.fwerr := rfl
@[simp] theorem State.modQuad_clkBase (k : Nat) (f : Quad → Quad) : (s.modQuad k f).clkBase = s.clkBase := rfl
@[simp] theorem State.modQuad_mailbox (k : Nat) (f : Quad → Quad) : (s.modQuad k f).mailbox = s.mailbox := rfl
@[simp] theorem State.modQuad_ring (k : Nat) (f : Quad → Quad) : (s.modQuad k f).ring = s.ring := rfl
@[simp] theorem State.modQuad_nwseq (k : Nat) (f : Quad → Quad) : (s.modQuad k f).nwseq = s.nwseq := rfl
@[simp] theorem State.modQuad_nrseq (k : Nat) (f : Quad → Quad) : (s.modQuad k f).nrseq = s.nrseq := rfl
@[simp] theorem State.modQuad_staging (k : Nat) (f : Quad → Quad) : (s.modQuad k f).staging = s.staging := rfl
@[simp] theorem State.modQuad_firmware (k : Nat) (f : Quad → Quad) : (s.modQuad k f).firmware = s.firmware := rfl
@[simp] theorem State.modQuad_hwins (k : Nat) (f : Quad → Quad) : (s.modQuad k f).hwins = s.hwins := rfl
@[simp] theorem State.modQuad_hbms (k : Nat) (f : Quad → Quad) : (s.modQuad k f).hbms = s.hbms := rfl
@[simp] theorem State.modQuad_clockCap (k : Nat) (f : Quad → Quad) : (s.modQuad k f).clockCap = s.clockCap := rfl
@[simp] theorem State.modQuad_clockWant (k : Nat) (f : Quad → Quad) : (s.modQuad k f).clockWant = s.clockWant := rfl
@[simp] theorem State.modQuad_limits (k : Nat) (f : Quad → Quad) : (s.modQuad k f).limits = s.limits := rfl
@[simp] theorem State.modQuad_errors (k : Nat) (f : Quad → Quad) : (s.modQuad k f).errors = s.errors := rfl
@[simp] theorem State.modQuad_harvest (k : Nat) (f : Quad → Quad) : (s.modQuad k f).harvest = s.harvest := rfl
@[simp] theorem State.modQuad_suspects (k : Nat) (f : Quad → Quad) : (s.modQuad k f).suspects = s.suspects := rfl
@[simp] theorem State.modQuad_msix (k : Nat) (f : Quad → Quad) : (s.modQuad k f).msix = s.msix := rfl
@[simp] theorem State.modQuad_aer (k : Nat) (f : Quad → Quad) : (s.modQuad k f).aer = s.aer := rfl
@[simp] theorem State.modQuad_partitionLosses (k : Nat) (f : Quad → Quad) : (s.modQuad k f).partitionLosses = s.partitionLosses := rfl
@[simp] theorem State.modQuad_partitionLost (k : Nat) (f : Quad → Quad) : (s.modQuad k f).partitionLost = s.partitionLost := rfl
@[simp] theorem State.modQuad_fused (k : Nat) (f : Quad → Quad) : (s.modQuad k f).fused = s.fused := rfl
@[simp] theorem State.modQuad_hostReply (k : Nat) (f : Quad → Quad) : (s.modQuad k f).hostReply = s.hostReply := rfl
@[simp] theorem State.modQuad_hostWidth (k : Nat) (f : Quad → Quad) : (s.modQuad k f).hostWidth = s.hostWidth := rfl
@[simp] theorem State.modQuad_hostRate (k : Nat) (f : Quad → Quad) : (s.modQuad k f).hostRate = s.hostRate := rfl
@[simp] theorem State.modQuad_nextKey (k : Nat) (f : Quad → Quad) : (s.modQuad k f).nextKey = s.nextKey := rfl
@[simp] theorem State.modQuad_agenda (k : Nat) (f : Quad → Quad) : (s.modQuad k f).agenda = s.agenda := rfl

/-! ### modDie -/

@[simp] theorem State.modDie_cur (d : Nat) (f : Die → Die) : (s.modDie d f).cur = s.cur := rfl
@[simp] theorem State.modDie_others (d : Nat) (f : Die → Die) : (s.modDie d f).others = s.others := rfl
@[simp] theorem State.modDie_groups (d : Nat) (f : Die → Die) : (s.modDie d f).groups = s.groups := rfl
@[simp] theorem State.modDie_kernels (d : Nat) (f : Die → Die) : (s.modDie d f).kernels = s.kernels := rfl
@[simp] theorem State.modDie_ctxs (d : Nat) (f : Die → Die) : (s.modDie d f).ctxs = s.ctxs := rfl
@[simp] theorem State.modDie_mem (d : Nat) (f : Die → Die) : (s.modDie d f).mem = s.mem := rfl
@[simp] theorem State.modDie_poison (d : Nat) (f : Die → Die) : (s.modDie d f).poison = s.poison := rfl
@[simp] theorem State.modDie_guards (d : Nat) (f : Die → Die) : (s.modDie d f).guards = s.guards := rfl
@[simp] theorem State.modDie_loads (d : Nat) (f : Die → Die) : (s.modDie d f).loads = s.loads := rfl
@[simp] theorem State.modDie_posts (d : Nat) (f : Die → Die) : (s.modDie d f).posts = s.posts := rfl
@[simp] theorem State.modDie_engs (d : Nat) (f : Die → Die) : (s.modDie d f).engs = s.engs := rfl
@[simp] theorem State.modDie_counts (d : Nat) (f : Die → Die) : (s.modDie d f).counts = s.counts := rfl
@[simp] theorem State.modDie_mats (d : Nat) (f : Die → Die) : (s.modDie d f).mats = s.mats := rfl
@[simp] theorem State.modDie_binds (d : Nat) (f : Die → Die) : (s.modDie d f).binds = s.binds := rfl
@[simp] theorem State.modDie_early (d : Nat) (f : Die → Die) : (s.modDie d f).early = s.early := rfl
@[simp] theorem State.modDie_ahead (d : Nat) (f : Die → Die) : (s.modDie d f).ahead = s.ahead := rfl
@[simp] theorem State.modDie_sent (d : Nat) (f : Die → Die) : (s.modDie d f).sent = s.sent := rfl
@[simp] theorem State.modDie_remoteWaits (d : Nat) (f : Die → Die) : (s.modDie d f).remoteWaits = s.remoteWaits := rfl
@[simp] theorem State.modDie_landing (d : Nat) (f : Die → Die) : (s.modDie d f).landing = s.landing := rfl
@[simp] theorem State.modDie_reports (d : Nat) (f : Die → Die) : (s.modDie d f).reports = s.reports := rfl
@[simp] theorem State.modDie_combRegs (d : Nat) (f : Die → Die) : (s.modDie d f).combRegs = s.combRegs := rfl
@[simp] theorem State.modDie_combPackets (d : Nat) (f : Die → Die) : (s.modDie d f).combPackets = s.combPackets := rfl
@[simp] theorem State.modDie_combs (d : Nat) (f : Die → Die) : (s.modDie d f).combs = s.combs := rfl
@[simp] theorem State.modDie_msus (d : Nat) (f : Die → Die) : (s.modDie d f).msus = s.msus := rfl
@[simp] theorem State.modDie_cores (d : Nat) (f : Die → Die) : (s.modDie d f).cores = s.cores := rfl
@[simp] theorem State.modDie_quads (d : Nat) (f : Die → Die) : (s.modDie d f).quads = s.quads := rfl
@[simp] theorem State.modDie_dies (d : Nat) (f : Die → Die) : (s.modDie d f).dies = s.dies.set Die.init d (f (s.dieAt d)) := rfl
@[simp] theorem State.modDie_coreMap (d : Nat) (f : Die → Die) : (s.modDie d f).coreMap = s.coreMap := rfl
@[simp] theorem State.modDie_outOfService (d : Nat) (f : Die → Die) : (s.modDie d f).outOfService = s.outOfService := rfl
@[simp] theorem State.modDie_clk (d : Nat) (f : Die → Die) : (s.modDie d f).clk = s.clk := rfl
@[simp] theorem State.modDie_rank (d : Nat) (f : Die → Die) : (s.modDie d f).rank = s.rank := rfl
@[simp] theorem State.modDie_podSize (d : Nat) (f : Die → Die) : (s.modDie d f).podSize = s.podSize := rfl
@[simp] theorem State.modDie_spare (d : Nat) (f : Die → Die) : (s.modDie d f).spare = s.spare := rfl
@[simp] theorem State.modDie_incarnation (d : Nat) (f : Die → Die) : (s.modDie d f).incarnation = s.incarnation := rfl
@[simp] theorem State.modDie_peerInc (d : Nat) (f : Die → Die) : (s.modDie d f).peerInc = s.peerInc := rfl
@[simp] theorem State.modDie_ports (d : Nat) (f : Die → Die) : (s.modDie d f).ports = s.ports := rfl
@[simp] theorem State.modDie_peerLinks (d : Nat) (f : Die → Die) : (s.modDie d f).peerLinks = s.peerLinks := rfl
@[simp] theorem State.modDie_override (d : Nat) (f : Die → Die) : (s.modDie d f).override = s.override := rfl
@[simp] theorem State.modDie_route (d : Nat) (f : Die → Die) : (s.modDie d f).route = s.route := rfl
@[simp] theorem State.modDie_pathless (d : Nat) (f : Die → Die) : (s.modDie d f).pathless = s.pathless := rfl
@[simp] theorem State.modDie_holds (d : Nat) (f : Die → Die) : (s.modDie d f).holds = s.holds := rfl
@[simp] theorem State.modDie_pathSeq (d : Nat) (f : Die → Die) : (s.modDie d f).pathSeq = s.pathSeq := rfl
@[simp] theorem State.modDie_landed (d : Nat) (f : Die → Die) : (s.modDie d f).landed = s.landed := rfl
@[simp] theorem State.modDie_landedMore (d : Nat) (f : Die → Die) : (s.modDie d f).landedMore = s.landedMore := rfl
@[simp] theorem State.modDie_heldSignals (d : Nat) (f : Die → Die) : (s.modDie d f).heldSignals = s.heldSignals := rfl
@[simp] theorem State.modDie_apertures (d : Nat) (f : Die → Die) : (s.modDie d f).apertures = s.apertures := rfl
@[simp] theorem State.modDie_splits (d : Nat) (f : Die → Die) : (s.modDie d f).splits = s.splits := rfl
@[simp] theorem State.modDie_used (d : Nat) (f : Die → Die) : (s.modDie d f).used = s.used := rfl
@[simp] theorem State.modDie_coFrames (d : Nat) (f : Die → Die) : (s.modDie d f).coFrames = s.coFrames := rfl
@[simp] theorem State.modDie_reserved (d : Nat) (f : Die → Die) : (s.modDie d f).reserved = s.reserved := rfl
@[simp] theorem State.modDie_refusals (d : Nat) (f : Die → Die) : (s.modDie d f).refusals = s.refusals := rfl
@[simp] theorem State.modDie_retrains (d : Nat) (f : Die → Die) : (s.modDie d f).retrains = s.retrains := rfl
@[simp] theorem State.modDie_slices (d : Nat) (f : Die → Die) : (s.modDie d f).slices = s.slices := rfl
@[simp] theorem State.modDie_appends (d : Nat) (f : Die → Die) : (s.modDie d f).appends = s.appends := rfl
@[simp] theorem State.modDie_launches (d : Nat) (f : Die → Die) : (s.modDie d f).launches = s.launches := rfl
@[simp] theorem State.modDie_cmds (d : Nat) (f : Die → Die) : (s.modDie d f).cmds = s.cmds := rfl
@[simp] theorem State.modDie_notices (d : Nat) (f : Die → Die) : (s.modDie d f).notices = s.notices := rfl
@[simp] theorem State.modDie_nextNotice (d : Nat) (f : Die → Die) : (s.modDie d f).nextNotice = s.nextNotice := rfl
@[simp] theorem State.modDie_plans (d : Nat) (f : Die → Die) : (s.modDie d f).plans = s.plans := rfl
@[simp] theorem State.modDie_asks (d : Nat) (f : Die → Die) : (s.modDie d f).asks = s.asks := rfl
@[simp] theorem State.modDie_stage (d : Nat) (f : Die → Die) : (s.modDie d f).stage = s.stage := rfl
@[simp] theorem State.modDie_fail (d : Nat) (f : Die → Die) : (s.modDie d f).fail = s.fail := rfl
@[simp] theorem State.modDie_fwerr (d : Nat) (f : Die → Die) : (s.modDie d f).fwerr = s.fwerr := rfl
@[simp] theorem State.modDie_clkBase (d : Nat) (f : Die → Die) : (s.modDie d f).clkBase = s.clkBase := rfl
@[simp] theorem State.modDie_mailbox (d : Nat) (f : Die → Die) : (s.modDie d f).mailbox = s.mailbox := rfl
@[simp] theorem State.modDie_ring (d : Nat) (f : Die → Die) : (s.modDie d f).ring = s.ring := rfl
@[simp] theorem State.modDie_nwseq (d : Nat) (f : Die → Die) : (s.modDie d f).nwseq = s.nwseq := rfl
@[simp] theorem State.modDie_nrseq (d : Nat) (f : Die → Die) : (s.modDie d f).nrseq = s.nrseq := rfl
@[simp] theorem State.modDie_staging (d : Nat) (f : Die → Die) : (s.modDie d f).staging = s.staging := rfl
@[simp] theorem State.modDie_firmware (d : Nat) (f : Die → Die) : (s.modDie d f).firmware = s.firmware := rfl
@[simp] theorem State.modDie_hwins (d : Nat) (f : Die → Die) : (s.modDie d f).hwins = s.hwins := rfl
@[simp] theorem State.modDie_hbms (d : Nat) (f : Die → Die) : (s.modDie d f).hbms = s.hbms := rfl
@[simp] theorem State.modDie_clockCap (d : Nat) (f : Die → Die) : (s.modDie d f).clockCap = s.clockCap := rfl
@[simp] theorem State.modDie_clockWant (d : Nat) (f : Die → Die) : (s.modDie d f).clockWant = s.clockWant := rfl
@[simp] theorem State.modDie_limits (d : Nat) (f : Die → Die) : (s.modDie d f).limits = s.limits := rfl
@[simp] theorem State.modDie_errors (d : Nat) (f : Die → Die) : (s.modDie d f).errors = s.errors := rfl
@[simp] theorem State.modDie_harvest (d : Nat) (f : Die → Die) : (s.modDie d f).harvest = s.harvest := rfl
@[simp] theorem State.modDie_suspects (d : Nat) (f : Die → Die) : (s.modDie d f).suspects = s.suspects := rfl
@[simp] theorem State.modDie_msix (d : Nat) (f : Die → Die) : (s.modDie d f).msix = s.msix := rfl
@[simp] theorem State.modDie_aer (d : Nat) (f : Die → Die) : (s.modDie d f).aer = s.aer := rfl
@[simp] theorem State.modDie_partitionLosses (d : Nat) (f : Die → Die) : (s.modDie d f).partitionLosses = s.partitionLosses := rfl
@[simp] theorem State.modDie_partitionLost (d : Nat) (f : Die → Die) : (s.modDie d f).partitionLost = s.partitionLost := rfl
@[simp] theorem State.modDie_fused (d : Nat) (f : Die → Die) : (s.modDie d f).fused = s.fused := rfl
@[simp] theorem State.modDie_hostReply (d : Nat) (f : Die → Die) : (s.modDie d f).hostReply = s.hostReply := rfl
@[simp] theorem State.modDie_hostWidth (d : Nat) (f : Die → Die) : (s.modDie d f).hostWidth = s.hostWidth := rfl
@[simp] theorem State.modDie_hostRate (d : Nat) (f : Die → Die) : (s.modDie d f).hostRate = s.hostRate := rfl
@[simp] theorem State.modDie_nextKey (d : Nat) (f : Die → Die) : (s.modDie d f).nextKey = s.nextKey := rfl
@[simp] theorem State.modDie_agenda (d : Nat) (f : Die → Die) : (s.modDie d f).agenda = s.agenda := rfl

/-! ### bump -/

@[simp] theorem State.bump_cur : (s.bump).cur = s.cur := rfl
@[simp] theorem State.bump_others : (s.bump).others = s.others := rfl
@[simp] theorem State.bump_groups : (s.bump).groups = s.groups := rfl
@[simp] theorem State.bump_kernels : (s.bump).kernels = s.kernels := rfl
@[simp] theorem State.bump_ctxs : (s.bump).ctxs = s.ctxs := rfl
@[simp] theorem State.bump_mem : (s.bump).mem = s.mem := rfl
@[simp] theorem State.bump_poison : (s.bump).poison = s.poison := rfl
@[simp] theorem State.bump_guards : (s.bump).guards = s.guards := rfl
@[simp] theorem State.bump_loads : (s.bump).loads = s.loads := rfl
@[simp] theorem State.bump_posts : (s.bump).posts = s.posts := rfl
@[simp] theorem State.bump_engs : (s.bump).engs = s.engs := rfl
@[simp] theorem State.bump_counts : (s.bump).counts = s.counts := rfl
@[simp] theorem State.bump_mats : (s.bump).mats = s.mats := rfl
@[simp] theorem State.bump_binds : (s.bump).binds = s.binds := rfl
@[simp] theorem State.bump_early : (s.bump).early = s.early := rfl
@[simp] theorem State.bump_ahead : (s.bump).ahead = s.ahead := rfl
@[simp] theorem State.bump_sent : (s.bump).sent = s.sent := rfl
@[simp] theorem State.bump_remoteWaits : (s.bump).remoteWaits = s.remoteWaits := rfl
@[simp] theorem State.bump_landing : (s.bump).landing = s.landing := rfl
@[simp] theorem State.bump_reports : (s.bump).reports = s.reports := rfl
@[simp] theorem State.bump_combRegs : (s.bump).combRegs = s.combRegs := rfl
@[simp] theorem State.bump_combPackets : (s.bump).combPackets = s.combPackets := rfl
@[simp] theorem State.bump_combs : (s.bump).combs = s.combs := rfl
@[simp] theorem State.bump_msus : (s.bump).msus = s.msus := rfl
@[simp] theorem State.bump_cores : (s.bump).cores = s.cores := rfl
@[simp] theorem State.bump_quads : (s.bump).quads = s.quads := rfl
@[simp] theorem State.bump_dies : (s.bump).dies = s.dies := rfl
@[simp] theorem State.bump_coreMap : (s.bump).coreMap = s.coreMap := rfl
@[simp] theorem State.bump_outOfService : (s.bump).outOfService = s.outOfService := rfl
@[simp] theorem State.bump_clk : (s.bump).clk = s.clk := rfl
@[simp] theorem State.bump_rank : (s.bump).rank = s.rank := rfl
@[simp] theorem State.bump_podSize : (s.bump).podSize = s.podSize := rfl
@[simp] theorem State.bump_spare : (s.bump).spare = s.spare := rfl
@[simp] theorem State.bump_incarnation : (s.bump).incarnation = s.incarnation := rfl
@[simp] theorem State.bump_peerInc : (s.bump).peerInc = s.peerInc := rfl
@[simp] theorem State.bump_ports : (s.bump).ports = s.ports := rfl
@[simp] theorem State.bump_peerLinks : (s.bump).peerLinks = s.peerLinks := rfl
@[simp] theorem State.bump_override : (s.bump).override = s.override := rfl
@[simp] theorem State.bump_route : (s.bump).route = s.route := rfl
@[simp] theorem State.bump_pathless : (s.bump).pathless = s.pathless := rfl
@[simp] theorem State.bump_holds : (s.bump).holds = s.holds := rfl
@[simp] theorem State.bump_pathSeq : (s.bump).pathSeq = s.pathSeq := rfl
@[simp] theorem State.bump_landed : (s.bump).landed = s.landed := rfl
@[simp] theorem State.bump_landedMore : (s.bump).landedMore = s.landedMore := rfl
@[simp] theorem State.bump_heldSignals : (s.bump).heldSignals = s.heldSignals := rfl
@[simp] theorem State.bump_apertures : (s.bump).apertures = s.apertures := rfl
@[simp] theorem State.bump_splits : (s.bump).splits = s.splits := rfl
@[simp] theorem State.bump_used : (s.bump).used = s.used := rfl
@[simp] theorem State.bump_coFrames : (s.bump).coFrames = s.coFrames := rfl
@[simp] theorem State.bump_reserved : (s.bump).reserved = s.reserved := rfl
@[simp] theorem State.bump_refusals : (s.bump).refusals = s.refusals := rfl
@[simp] theorem State.bump_retrains : (s.bump).retrains = s.retrains := rfl
@[simp] theorem State.bump_slices : (s.bump).slices = s.slices := rfl
@[simp] theorem State.bump_appends : (s.bump).appends = s.appends := rfl
@[simp] theorem State.bump_launches : (s.bump).launches = s.launches := rfl
@[simp] theorem State.bump_cmds : (s.bump).cmds = s.cmds := rfl
@[simp] theorem State.bump_notices : (s.bump).notices = s.notices := rfl
@[simp] theorem State.bump_nextNotice : (s.bump).nextNotice = s.nextNotice := rfl
@[simp] theorem State.bump_plans : (s.bump).plans = s.plans := rfl
@[simp] theorem State.bump_asks : (s.bump).asks = s.asks := rfl
@[simp] theorem State.bump_stage : (s.bump).stage = s.stage := rfl
@[simp] theorem State.bump_fail : (s.bump).fail = s.fail := rfl
@[simp] theorem State.bump_fwerr : (s.bump).fwerr = s.fwerr := rfl
@[simp] theorem State.bump_clkBase : (s.bump).clkBase = s.clkBase := rfl
@[simp] theorem State.bump_mailbox : (s.bump).mailbox = s.mailbox := rfl
@[simp] theorem State.bump_ring : (s.bump).ring = s.ring := rfl
@[simp] theorem State.bump_nwseq : (s.bump).nwseq = s.nwseq := rfl
@[simp] theorem State.bump_nrseq : (s.bump).nrseq = s.nrseq := rfl
@[simp] theorem State.bump_staging : (s.bump).staging = s.staging := rfl
@[simp] theorem State.bump_firmware : (s.bump).firmware = s.firmware := rfl
@[simp] theorem State.bump_hwins : (s.bump).hwins = s.hwins := rfl
@[simp] theorem State.bump_hbms : (s.bump).hbms = s.hbms := rfl
@[simp] theorem State.bump_clockCap : (s.bump).clockCap = s.clockCap := rfl
@[simp] theorem State.bump_clockWant : (s.bump).clockWant = s.clockWant := rfl
@[simp] theorem State.bump_limits : (s.bump).limits = s.limits := rfl
@[simp] theorem State.bump_errors : (s.bump).errors = s.errors := rfl
@[simp] theorem State.bump_harvest : (s.bump).harvest = s.harvest := rfl
@[simp] theorem State.bump_suspects : (s.bump).suspects = s.suspects := rfl
@[simp] theorem State.bump_msix : (s.bump).msix = s.msix := rfl
@[simp] theorem State.bump_aer : (s.bump).aer = s.aer := rfl
@[simp] theorem State.bump_partitionLosses : (s.bump).partitionLosses = s.partitionLosses := rfl
@[simp] theorem State.bump_partitionLost : (s.bump).partitionLost = s.partitionLost := rfl
@[simp] theorem State.bump_fused : (s.bump).fused = s.fused := rfl
@[simp] theorem State.bump_hostReply : (s.bump).hostReply = s.hostReply := rfl
@[simp] theorem State.bump_hostWidth : (s.bump).hostWidth = s.hostWidth := rfl
@[simp] theorem State.bump_hostRate : (s.bump).hostRate = s.hostRate := rfl
@[simp] theorem State.bump_nextKey : (s.bump).nextKey = s.nextKey + 1 := rfl
@[simp] theorem State.bump_agenda : (s.bump).agenda = s.agenda := rfl

/-! ### Updates of the team in focus -/

theorem State.setS_eq (i : Nat) (c : SCell) : s.setS i c = s.modCur fun t => { t with s := t.s.set SCell.zero i c } := rfl
theorem State.setQ_eq (i : Nat) (c : PCell) : s.setQ i c = s.modCur fun t => { t with q := t.q.set PCell.zero i c } := rfl
theorem State.addFlags_eq (f : NFlags) :
    s.addFlags f = s.modCur fun t => { t with sys := { t.sys with nstat := t.sys.nstat ||| f } } := rfl
theorem State.advance_eq : s.advance = s.modCur Team.advance := rfl
theorem State.goto_eq (pc : Word) : s.goto pc = s.modCur fun t => { t.goto pc with seq := t.seq + 1 } := rfl

/-! ### Moves of the program counter: every register of the team stays -/

@[simp] theorem Team.goto_id (t : Team) (pc : Word) : (t.goto pc).id = t.id := rfl
@[simp] theorem Team.goto_lanes (t : Team) (pc : Word) : (t.goto pc).lanes = t.lanes := rfl
@[simp] theorem Team.goto_regs (t : Team) (pc : Word) : (t.goto pc).regs = t.regs := rfl
@[simp] theorem Team.goto_accs (t : Team) (pc : Word) : (t.goto pc).accs = t.accs := rfl
@[simp] theorem Team.goto_teams (t : Team) (pc : Word) : (t.goto pc).teams = t.teams := rfl
@[simp] theorem Team.goto_ftz (t : Team) (pc : Word) : (t.goto pc).ftz = t.ftz := rfl
@[simp] theorem Team.goto_prio (t : Team) (pc : Word) : (t.goto pc).prio = t.prio := rfl
@[simp] theorem Team.goto_v (t : Team) (pc : Word) : (t.goto pc).v = t.v := rfl
@[simp] theorem Team.goto_s (t : Team) (pc : Word) : (t.goto pc).s = t.s := rfl
@[simp] theorem Team.goto_p (t : Team) (pc : Word) : (t.goto pc).p = t.p := rfl
@[simp] theorem Team.goto_q (t : Team) (pc : Word) : (t.goto pc).q = t.q := rfl
@[simp] theorem Team.goto_mask (t : Team) (pc : Word) : (t.goto pc).mask = t.mask := rfl
@[simp] theorem Team.goto_ctl (t : Team) (pc : Word) : (t.goto pc).ctl = t.ctl := rfl
@[simp] theorem Team.goto_stack (t : Team) (pc : Word) : (t.goto pc).stack = t.stack := rfl
@[simp] theorem Team.goto_gang (t : Team) (pc : Word) : (t.goto pc).gang = t.gang := rfl
@[simp] theorem Team.goto_sys (t : Team) (pc : Word) : (t.goto pc).sys = t.sys := rfl
@[simp] theorem Team.goto_fr (t : Team) (pc : Word) : (t.goto pc).fr = t.fr := rfl
@[simp] theorem Team.goto_shadow (t : Team) (pc : Word) : (t.goto pc).shadow = t.shadow := rfl
@[simp] theorem Team.goto_mode (t : Team) (pc : Word) : (t.goto pc).mode = t.mode := rfl
@[simp] theorem Team.goto_state (t : Team) (pc : Word) : (t.goto pc).state = t.state := rfl
@[simp] theorem Team.goto_inSet (t : Team) (pc : Word) : (t.goto pc).inSet = t.inSet := rfl
@[simp] theorem Team.goto_age (t : Team) (pc : Word) : (t.goto pc).age = t.age := rfl
@[simp] theorem Team.goto_readyAt (t : Team) (pc : Word) : (t.goto pc).readyAt = t.readyAt := rfl
@[simp] theorem Team.goto_issuedAt (t : Team) (pc : Word) : (t.goto pc).issuedAt = t.issuedAt := rfl
@[simp] theorem Team.goto_parkDue (t : Team) (pc : Word) : (t.goto pc).parkDue = t.parkDue := rfl
@[simp] theorem Team.goto_faultPark (t : Team) (pc : Word) : (t.goto pc).faultPark = t.faultPark := rfl
@[simp] theorem Team.goto_restored (t : Team) (pc : Word) : (t.goto pc).restored = t.restored := rfl
@[simp] theorem Team.goto_deferred (t : Team) (pc : Word) : (t.goto pc).deferred = t.deferred := rfl
@[simp] theorem Team.goto_sf (t : Team) (pc : Word) : (t.goto pc).sf = t.sf := rfl
@[simp] theorem Team.goto_fences (t : Team) (pc : Word) : (t.goto pc).fences = t.fences := rfl
@[simp] theorem Team.goto_wait (t : Team) (pc : Word) : (t.goto pc).wait = t.wait := rfl
@[simp] theorem Team.goto_heldRegs (t : Team) (pc : Word) : (t.goto pc).heldRegs = t.heldRegs := rfl
@[simp] theorem Team.goto_method (t : Team) (pc : Word) : (t.goto pc).method = t.method := rfl

@[simp] theorem Team.advance_id (t : Team) : t.advance.id = t.id := by
  unfold Team.advance; split <;> [split; skip] <;> rfl
@[simp] theorem Team.advance_lanes (t : Team) : t.advance.lanes = t.lanes := by
  unfold Team.advance; split <;> [split; skip] <;> rfl
@[simp] theorem Team.advance_regs (t : Team) : t.advance.regs = t.regs := by
  unfold Team.advance; split <;> [split; skip] <;> rfl
@[simp] theorem Team.advance_accs (t : Team) : t.advance.accs = t.accs := by
  unfold Team.advance; split <;> [split; skip] <;> rfl
@[simp] theorem Team.advance_teams (t : Team) : t.advance.teams = t.teams := by
  unfold Team.advance; split <;> [split; skip] <;> rfl
@[simp] theorem Team.advance_ftz (t : Team) : t.advance.ftz = t.ftz := by
  unfold Team.advance; split <;> [split; skip] <;> rfl
@[simp] theorem Team.advance_prio (t : Team) : t.advance.prio = t.prio := by
  unfold Team.advance; split <;> [split; skip] <;> rfl
@[simp] theorem Team.advance_v (t : Team) : t.advance.v = t.v := by
  unfold Team.advance; split <;> [split; skip] <;> rfl
@[simp] theorem Team.advance_s (t : Team) : t.advance.s = t.s := by
  unfold Team.advance; split <;> [split; skip] <;> rfl
@[simp] theorem Team.advance_p (t : Team) : t.advance.p = t.p := by
  unfold Team.advance; split <;> [split; skip] <;> rfl
@[simp] theorem Team.advance_q (t : Team) : t.advance.q = t.q := by
  unfold Team.advance; split <;> [split; skip] <;> rfl
@[simp] theorem Team.advance_mask (t : Team) : t.advance.mask = t.mask := by
  unfold Team.advance; split <;> [split; skip] <;> rfl
@[simp] theorem Team.advance_ctl (t : Team) : t.advance.ctl = t.ctl := by
  unfold Team.advance; split <;> [split; skip] <;> rfl
@[simp] theorem Team.advance_stack (t : Team) : t.advance.stack = t.stack := by
  unfold Team.advance; split <;> [split; skip] <;> rfl
@[simp] theorem Team.advance_gang (t : Team) : t.advance.gang = t.gang := by
  unfold Team.advance; split <;> [split; skip] <;> rfl
@[simp] theorem Team.advance_sys (t : Team) : t.advance.sys = t.sys := by
  unfold Team.advance; split <;> [split; skip] <;> rfl
@[simp] theorem Team.advance_fr (t : Team) : t.advance.fr = t.fr := by
  unfold Team.advance; split <;> [split; skip] <;> rfl
@[simp] theorem Team.advance_shadow (t : Team) : t.advance.shadow = t.shadow := by
  unfold Team.advance; split <;> [split; skip] <;> rfl
@[simp] theorem Team.advance_mode (t : Team) : t.advance.mode = t.mode := by
  unfold Team.advance; split <;> [split; skip] <;> rfl
@[simp] theorem Team.advance_state (t : Team) : t.advance.state = t.state := by
  unfold Team.advance; split <;> [split; skip] <;> rfl
@[simp] theorem Team.advance_inSet (t : Team) : t.advance.inSet = t.inSet := by
  unfold Team.advance; split <;> [split; skip] <;> rfl
@[simp] theorem Team.advance_age (t : Team) : t.advance.age = t.age := by
  unfold Team.advance; split <;> [split; skip] <;> rfl
@[simp] theorem Team.advance_readyAt (t : Team) : t.advance.readyAt = t.readyAt := by
  unfold Team.advance; split <;> [split; skip] <;> rfl
@[simp] theorem Team.advance_issuedAt (t : Team) : t.advance.issuedAt = t.issuedAt := by
  unfold Team.advance; split <;> [split; skip] <;> rfl
@[simp] theorem Team.advance_parkDue (t : Team) : t.advance.parkDue = t.parkDue := by
  unfold Team.advance; split <;> [split; skip] <;> rfl
@[simp] theorem Team.advance_faultPark (t : Team) : t.advance.faultPark = t.faultPark := by
  unfold Team.advance; split <;> [split; skip] <;> rfl
@[simp] theorem Team.advance_restored (t : Team) : t.advance.restored = t.restored := by
  unfold Team.advance; split <;> [split; skip] <;> rfl
@[simp] theorem Team.advance_deferred (t : Team) : t.advance.deferred = t.deferred := by
  unfold Team.advance; split <;> [split; skip] <;> rfl
@[simp] theorem Team.advance_sf (t : Team) : t.advance.sf = t.sf := by
  unfold Team.advance; split <;> [split; skip] <;> rfl
@[simp] theorem Team.advance_fences (t : Team) : t.advance.fences = t.fences := by
  unfold Team.advance; split <;> [split; skip] <;> rfl
@[simp] theorem Team.advance_wait (t : Team) : t.advance.wait = t.wait := by
  unfold Team.advance; split <;> [split; skip] <;> rfl
@[simp] theorem Team.advance_heldRegs (t : Team) : t.advance.heldRegs = t.heldRegs := by
  unfold Team.advance; split <;> [split; skip] <;> rfl
@[simp] theorem Team.advance_method (t : Team) : t.advance.method = t.method := by
  unfold Team.advance; split <;> [split; skip] <;> rfl

theorem Team.advance_with_v (t : Team) (m : SMap VCell) : Team.advance { t with v := m } = { t.advance with v := m } := by
  cases h : t.clause with
  | none => simp only [Team.advance, h]
  | some c =>
    simp only [Team.advance, h, Team.goto, Team.nextClause]
    split <;> rfl
theorem Team.advance_with_s (t : Team) (m : SMap SCell) : Team.advance { t with s := m } = { t.advance with s := m } := by
  cases h : t.clause with
  | none => simp only [Team.advance, h]
  | some c =>
    simp only [Team.advance, h, Team.goto, Team.nextClause]
    split <;> rfl
theorem Team.advance_with_p (t : Team) (m : SMap PCell) : Team.advance { t with p := m } = { t.advance with p := m } := by
  cases h : t.clause with
  | none => simp only [Team.advance, h]
  | some c =>
    simp only [Team.advance, h, Team.goto, Team.nextClause]
    split <;> rfl
theorem Team.advance_with_q (t : Team) (m : SMap PCell) : Team.advance { t with q := m } = { t.advance with q := m } := by
  cases h : t.clause with
  | none => simp only [Team.advance, h]
  | some c =>
    simp only [Team.advance, h, Team.goto, Team.nextClause]
    split <;> rfl
theorem Team.advance_with_sys (t : Team) (m : SysRegs) : Team.advance { t with sys := m } = { t.advance with sys := m } := by
  cases h : t.clause with
  | none => simp only [Team.advance, h]
  | some c =>
    simp only [Team.advance, h, Team.goto, Team.nextClause]
    split <;> rfl
theorem Team.advance_with_v_sys (t : Team) (m : SMap VCell) (r : SysRegs) :
    Team.advance { t with v := m, sys := r } = { t.advance with v := m, sys := r } := by
  cases h : t.clause with
  | none => simp only [Team.advance, h]
  | some c =>
    simp only [Team.advance, h, Team.goto, Team.nextClause]
    split <;> rfl

end Sys2Proof.Machine
end

