-- ==== Sys2Proof/Laws/Memory.lean ====
section
/-! SUPPORT. Memory: reads after writes, and that every operation on bytes and marks keeps the canonical form. -/

namespace Sys2Proof.Machine

/-! ### Bytes -/

@[simp] theorem State.byte_setByte_same (s : State) (a : Nat) (b : Byte) : (s.setByte a b).byte a = b :=
  SMap.get_set_same _ _ _ _
theorem State.byte_setByte_ne (s : State) {a c : Nat} (b : Byte) (h : c ≠ a) : (s.setByte a b).byte c = s.byte c :=
  SMap.get_set_ne _ _ _ h

theorem get_writeMap (m : SMap Byte) (a : Nat) (bs : List Byte) (c : Nat) :
    SMap.get 0 (writeMap m a bs) c = if h : a ≤ c ∧ c < a + bs.length then bs[c - a]'(by omega) else SMap.get 0 m c := by
  induction bs generalizing m a with
  | nil => simp [writeMap]
  | cons b bs ih =>
    rw [writeMap, ih]
    by_cases h : a + 1 ≤ c ∧ c < a + 1 + bs.length
    · rw [dif_pos h, dif_pos (by simp; omega)]
      have : c - a = (c - (a + 1)) + 1 := by omega
      simp [this]
    · rw [dif_neg h, SMap.get_set]
      by_cases he : c = a
      · subst he; simp
      · rw [if_neg he, dif_neg (by simp; omega)]
/-- A write of bytes: what every byte reads as then. -/
theorem State.byte_physWrite (s : State) (a : Nat) (bs : List Byte) (c : Nat) :
    (s.physWrite a bs).byte c = if h : a ≤ c ∧ c < a + bs.length then bs[c - a]'(by omega) else s.byte c :=
  get_writeMap _ _ _ _
theorem State.byte_physWrite_out (s : State) (a : Nat) (bs : List Byte) (c : Nat) (h : c < a ∨ a + bs.length ≤ c) :
    (s.physWrite a bs).byte c = s.byte c := by
  rw [State.byte_physWrite, dif_neg (by omega)]

@[simp] theorem length_readMap (m : SMap Byte) (a n : Nat) : (readMap m a n).length = n := by
  induction n generalizing a with
  | zero => rfl
  | succ n ih => simp [readMap, ih]
theorem getElem_readMap (m : SMap Byte) (a n i : Nat) (h : i < (readMap m a n).length) :
    (readMap m a n)[i] = SMap.get 0 m (a + i) := by
  induction n generalizing a i with
  | zero => simp [readMap] at h
  | succ n ih =>
    cases i with
    | zero => simp [readMap]
    | succ i => simp [readMap, ih]; congr 1; omega
/-- Bytes written are the bytes read. -/
theorem readMap_writeMap (m : SMap Byte) (a : Nat) (bs : List Byte) : readMap (writeMap m a bs) a bs.length = bs := by
  apply List.ext_getElem
  · simp
  · intro i h1 h2
    rw [getElem_readMap, get_writeMap, dif_pos (by omega)]
    simp
theorem State.physRead_physWrite (s : State) (a : Nat) (bs : List Byte) : (s.physWrite a bs).physRead a bs.length = bs :=
  readMap_writeMap _ _ _

/-! ### The canonical form -/

theorem wf_writeMap {m : SMap Byte} (a : Nat) (bs : List Byte) (h : Memory.wf m = true) : Memory.wf (writeMap m a bs) = true := by
  induction bs generalizing m a with
  | nil => exact h
  | cons b bs ih => exact ih _ (SMap.wf_set h)
theorem wf_foldl_marks (us : List Nat) (f : SMap Bool → Nat → SMap Bool) (hf : ∀ p u, Marks.wf p = true → Marks.wf (f p u) = true)
    {p : SMap Bool} (h : Marks.wf p = true) : Marks.wf (us.foldl f p) = true := by
  induction us generalizing p with
  | nil => exact h
  | cons u us ih => exact ih (hf p u h)
theorem wf_clearPoison {p : SMap Bool} (a n : Nat) (h : Marks.wf p = true) : Marks.wf (clearPoison p a n) = true := by
  refine wf_foldl_marks _ _ (fun p u hp => ?_) h
  split
  · exact SMap.wf_set hp
  · exact hp
theorem wf_setPoison {p : SMap Bool} (a n : Nat) (h : Marks.wf p = true) : Marks.wf (setPoison p a n) = true :=
  wf_foldl_marks _ _ (fun _ _ hp => SMap.wf_set hp) h

theorem Scratch.wf_iff (x : Scratch) :
    x.wf = true ↔ Memory.wf x.mem = true ∧ Marks.wf x.guard = true ∧ Marks.wf x.poison = true := by
  simp [Scratch.wf, and_assoc]
theorem Group.wf_scratch {g : Group} (h : g.wf = true) (sp : Space) : (g.scratch sp).wf = true := by
  simp only [Group.wf, Bool.and_eq_true] at h
  cases sp <;> simp [Group.scratch, h]
  rfl
theorem Group.wf_setScratch {g : Group} (h : g.wf = true) (sp : Space) {x : Scratch} (hx : x.wf = true) :
    (g.setScratch sp x).wf = true := by
  simp only [Group.wf, Bool.and_eq_true] at h
  cases sp <;> simp [Group.setScratch, Group.wf, h, hx]
theorem State.wf_iff (s : State) : s.wf = true ↔
    Memory.wf s.mem = true ∧ Marks.wf s.poison = true ∧ Marks.wf s.guards = true ∧ ∀ g ∈ s.groups, g.wf = true := by
  simp [State.wf, and_assoc]

/-- One byte written keeps the form. -/
theorem State.wf_setByte {s : State} (h : s.wf = true) (a : Nat) (b : Byte) : (s.setByte a b).wf = true := by
  rw [State.wf_iff] at h ⊢
  exact ⟨SMap.wf_set h.1, h.2⟩
/-- Bytes written keep the form. -/
theorem State.wf_physWrite {s : State} (h : s.wf = true) (a : Nat) (bs : List Byte) : (s.physWrite a bs).wf = true := by
  rw [State.wf_iff] at h ⊢
  exact ⟨wf_writeMap a bs h.1, wf_clearPoison a _ h.2.1, h.2.2⟩
theorem State.wf_modGroup {s : State} (h : s.wf = true) (gid : Nat) {f : Group → Group}
    (hf : ∀ g, g.wf = true → (f g).wf = true) : (s.modGroup gid f).wf = true := by
  rw [State.wf_iff] at h ⊢
  refine ⟨h.1, h.2.1, h.2.2.1, ?_⟩
  intro g hg
  simp only [State.modGroup, List.mem_map] at hg
  obtain ⟨g', hm, he⟩ := hg
  subst he
  split
  · exact hf _ (h.2.2.2 _ hm)
  · exact h.2.2.2 _ hm
/-- A write at any place keeps the form. -/
theorem State.wf_placeWrite {s : State} (h : s.wf = true) (p : Place) (bs : List Byte) : (s.placeWrite p bs).wf = true := by
  cases p with
  | phys a => exact State.wf_physWrite h a bs
  | scratch gid sp off =>
    refine State.wf_modGroup h gid fun g hg => Group.wf_setScratch hg sp ?_
    have hx := (Scratch.wf_iff _).mp (Group.wf_scratch hg sp)
    exact (Scratch.wf_iff _).mpr ⟨wf_writeMap _ _ hx.1, hx.2.1, wf_clearPoison _ _ hx.2.2⟩
  | peer r a => exact h
  | nowhere => exact h
theorem State.wf_placePoison {s : State} (h : s.wf = true) (p : Place) (n : Nat) : (s.placePoison p n).wf = true := by
  cases p with
  | phys a =>
    rw [State.wf_iff] at h ⊢
    exact ⟨h.1, wf_setPoison _ _ h.2.1, h.2.2⟩
  | scratch gid sp off =>
    refine State.wf_modGroup h gid fun g hg => Group.wf_setScratch hg sp ?_
    have hx := (Scratch.wf_iff _).mp (Group.wf_scratch hg sp)
    exact (Scratch.wf_iff _).mpr ⟨hx.1, hx.2.1, wf_setPoison _ _ hx.2.2⟩
  | peer r a => exact h
  | nowhere => exact h
theorem State.wf_setGuard {s : State} (h : s.wf = true) (p : Place) (on : Bool) : (s.setGuard p on).wf = true := by
  cases p with
  | phys a =>
    rw [State.wf_iff] at h ⊢
    exact ⟨h.1, h.2.1, SMap.wf_set h.2.2.1, h.2.2.2⟩
  | scratch gid sp off =>
    refine State.wf_modGroup h gid fun g hg => Group.wf_setScratch hg sp ?_
    have hx := (Scratch.wf_iff _).mp (Group.wf_scratch hg sp)
    exact (Scratch.wf_iff _).mpr ⟨hx.1, SMap.wf_set hx.2.1, hx.2.2⟩
  | peer r a => exact h
  | nowhere => exact h
/-- The state after reset has the form. -/
theorem State.wf_reset : State.reset.wf = true := rfl

end Sys2Proof.Machine
end

