-- ==== Sys2Proof/Laws/Pages.lean ====
section
/-! SUPPORT. The walk of the page tables: one leaf throughout the page that it maps. -/

namespace Sys2Proof.Machine

/-- Equal quotients stay equal under a coarser division. -/
theorem div_coarse {u v : Nat} (m n : Nat) (h : m ≤ n) (e : u / 2 ^ m = v / 2 ^ m) : u / 2 ^ n = v / 2 ^ n := by
  have : ∀ x : Nat, x / 2 ^ n = x / 2 ^ m / 2 ^ (n - m) := fun x => by
    rw [Nat.div_div_eq_div_mul, ← Nat.pow_add, Nat.add_sub_cancel' h]
  rw [this u, this v, e]
/-- Equal quotients have equal bits above. -/
theorem bitsAt_of_div {u v : Nat} (m lo n : Nat) (h : m ≤ lo) (e : u / 2 ^ m = v / 2 ^ m) : bitsAt u lo n = bitsAt v lo n := by
  simp only [bitsAt, Nat.shiftRight_eq_div_pow, div_coarse m lo h e]
/-- The sizes of pages (R317). -/
theorem sizeBytes_pow (k : Nat) : ∃ n, sizeBytes k = 2 ^ n ∧ n ≤ 26 ∧ (k = 0 → n = 16) ∧ (k = 1 → n = 21) := by
  unfold sizeBytes; split <;> [exact ⟨16, by simp⟩; exact ⟨21, by simp⟩; exact ⟨26, by simp_all⟩]

/-- A walk gives one leaf throughout the page that the leaf maps (R316, R317, R320). -/
theorem State.walk_page {s : State} {root u v : Nat} {e : Word} (h : s.walk root v = .ok e)
    (hp : u / sizeBytes (pteSize e) = v / sizeBytes (pteSize e)) : s.walk root u = .ok e := by
  obtain ⟨n, hn, h26, h0, h1⟩ := sizeBytes_pow (pteSize e)
  rw [hn] at hp
  have b1 := bitsAt_of_div n 42 15 (by omega) hp
  have b2 := bitsAt_of_div n 26 16 h26 hp
  unfold State.walk at h ⊢
  simp only [bind, Except.bind, b1, b2] at h ⊢
  cases r1 : s.readPte (root + 8 * bitsAt v 42 15) with
  | error f => rw [r1] at h; cases h
  | ok e1 =>
    rw [r1] at h
    dsimp only at h ⊢
    split at h
    · cases h
    · rename_i c1
      rw [if_neg c1]
      cases r2 : s.readPte (pteNext e1 + 8 * bitsAt v 26 16) with
      | error f => rw [r2] at h; cases h
      | ok e2 =>
        rw [r2] at h
        dsimp only at h ⊢
        split at h
        · rename_i c2
          rw [if_pos c2]; exact h
        · rename_i c2
          rw [if_neg c2]
          split at h
          · cases h
          · rename_i c3
            rw [if_neg c3]
            generalize pteNext e2 = t3 at h ⊢
            have small : n ≤ 21 → alignDown 32 (bitsAt u 16 10) = alignDown 32 (bitsAt v 16 10) := fun hl => by
              have := div_coarse n 21 hl hp
              simp only [alignDown, bitsAt, Nat.shiftRight_eq_div_pow]
              omega
            split at h
            · cases h
            · rename_i e3 r3
              split at h
              · rename_i c4
                cases h
                simp only [Bool.and_eq_true, State.leafOk, Bool.or_eq_true, beq_iff_eq] at c4
                have hle : pteSize e ≤ 1 := by simpa using c4.1.2.1.1.1.1.1.1.1.1.1.2
                have hi := small (by rcases Nat.le_one_iff_eq_zero_or_eq_one.mp hle with z | z
                                     · have := h0 z; omega
                                     · have := h1 z; omega)
                rw [hi]
                rcases c4.2 with big | z
                · simp_all [State.leafOk]
                · have h16 := bitsAt_of_div n 16 10 (by have := h0 z; omega) hp
                  rw [h16, r3]
                  simp_all [State.leafOk]
              · cases h
end Sys2Proof.Machine
end

