-- ==== Sys2Proof/Laws/Registers.lean ====
section
/-! SUPPORT. What a register read answers after each register write. -/

namespace Sys2Proof

/-- A read after writes at consecutive keys in ascending or any order without repeats. -/
theorem SMap.get_foldl_set {α : Type} [DecidableEq α] (d : α) (b : Nat) (f : Nat → α) (ls : List Nat) (h : ls.Nodup)
    (m : SMap α) (k : Nat) :
    SMap.get d (ls.foldl (fun m L => SMap.set d m (b + L) (f L)) m) k
      = if b ≤ k ∧ k - b ∈ ls then f (k - b) else SMap.get d m k := by
  induction ls generalizing m with
  | nil => simp
  | cons L ls ih =>
    obtain ⟨hL, hn⟩ := List.nodup_cons.mp h
    rw [List.foldl_cons, ih hn]
    by_cases hk : b ≤ k ∧ k - b ∈ ls
    · rw [if_pos hk, if_pos ⟨hk.1, List.mem_cons_of_mem _ hk.2⟩]
    · rw [if_neg hk, SMap.get_set]
      by_cases he : k = b + L
      · subst he; simp
      · rw [if_neg he, if_neg]
        rintro ⟨h1, h2⟩
        rcases List.mem_cons.mp h2 with h2 | h2
        · omega
        · exact hk ⟨h1, h2⟩

namespace Machine

@[simp] theorem Team.length_laneList (t : Team) : t.laneList.length = t.lanes := List.length_range
theorem Team.nodup_laneList (t : Team) : t.laneList.Nodup := List.nodup_range
@[simp] theorem Team.mem_laneList (t : Team) (L : Nat) : L ∈ t.laneList ↔ L < t.lanes := List.mem_range

/-! ### Scalars and scalar predicates -/

theorem State.sreg_setS (s : State) (i j : Nat) (c : SCell) :
    (s.setS i c).cur.sreg j = if j = i then c else s.cur.sreg j := SMap.get_set _ _ _ _ _
theorem State.qreg_setQ (s : State) (i j : Nat) (c : PCell) :
    (s.setQ i c).cur.qreg j = if j = i then c else s.cur.qreg j := SMap.get_set _ _ _ _ _

/-- A scalar result under a guard that is true. -/
theorem State.writeS_true (s : State) (g : TeamGuard) (d : Nat) (x : Word) (tint : Bool) (h : (s.cur.tguard g).val = true) :
    s.writeS g d x tint = s.setS d { val := x, tint := tint || (s.cur.tguard g).tint || s.cur.ctlAny } := by
  simp [State.writeS, h]
/-- Under a guard that is false and untinted nothing is written. -/
theorem State.writeS_false (s : State) (g : TeamGuard) (d : Nat) (x : Word) (tint : Bool)
    (h : (s.cur.tguard g).val = false) (h' : (s.cur.tguard g).tint = false) : s.writeS g d x tint = s := by
  simp [State.writeS, h, h']
/-- Every scalar write is a write of its destination. -/
theorem State.writeS_frame (s : State) (g : TeamGuard) (d : Nat) (x : Word) (tint : Bool) :
    ∃ m, s.writeS g d x tint = s.modCur (fun t => { t with s := m }) ∧ ∀ j, j ≠ d → SMap.get SCell.zero m j = s.cur.sreg j := by
  unfold State.writeS
  dsimp only
  split
  · exact ⟨_, rfl, fun j h => SMap.get_set_ne _ _ _ h⟩
  · split
    · exact ⟨_, rfl, fun j h => SMap.get_set_ne _ _ _ h⟩
    · exact ⟨s.cur.s, rfl, fun j _ => rfl⟩
theorem State.writeQ_true (s : State) (g : TeamGuard) (d : Nat) (x tint : Bool) (h : (s.cur.tguard g).val = true) :
    s.writeQ g d x tint = s.setQ d { val := x, tint := tint || (s.cur.tguard g).tint || s.cur.ctlAny } := by
  simp [State.writeQ, h]
theorem State.writeQ_frame (s : State) (g : TeamGuard) (d : Nat) (x tint : Bool) :
    ∃ m, s.writeQ g d x tint = s.modCur (fun t => { t with q := m }) ∧ ∀ j, j ≠ d → SMap.get PCell.zero m j = s.cur.qreg j := by
  unfold State.writeQ
  dsimp only
  split
  · exact ⟨_, rfl, fun j h => SMap.get_set_ne _ _ _ h⟩
  · split
    · exact ⟨_, rfl, fun j h => SMap.get_set_ne _ _ _ h⟩
    · exact ⟨s.cur.q, rfl, fun j _ => rfl⟩

/-! ### Vector registers and predicates -/

theorem Team.laneCell_off (t : Team) (g : LaneGuard) (L : Nat) (old new : VCell) (h : t.mask.getLsbD L = false) :
    t.laneCell g L old new = old := by simp [Team.laneCell, h]
theorem Team.laneP_off (t : Team) (g : LaneGuard) (L : Nat) (old new : PCell) (h : t.mask.getLsbD L = false) :
    t.laneP g L old new = old := by simp [Team.laneP, h]

/-- One register of every lane written: what lane `L` of register `q` holds then. -/
theorem Team.vreg_writeLanes (t : Team) (g : LaneGuard) (r : Nat) (f : Nat → VCell) (q L : Nat) (hL : L < 1024) :
    (t.writeLanes g r f).vreg q L
      = if q = r ∧ L < t.lanes then t.laneCell g L (t.vreg r L) (f L) else t.vreg q L := by
  have h := SMap.get_foldl_set VCell.zero (1024 * r) (fun L => t.laneCell g L (t.vreg r L) (f L)) t.laneList
    t.nodup_laneList t.v (1024 * q + L)
  have e : (t.writeLanes g r f).vreg q L = SMap.get VCell.zero (t.laneList.foldl (fun m L =>
      SMap.set VCell.zero m (1024 * r + L) (t.laneCell g L (t.vreg r L) (f L))) t.v) (1024 * q + L) := rfl
  rw [e, h]
  by_cases hq : q = r
  · subst hq
    have : 1024 * q + L - 1024 * q = L := by omega
    rw [this]
    by_cases hl : L < t.lanes
    · rw [if_pos ⟨by omega, by simpa using hl⟩, if_pos ⟨rfl, hl⟩]
    · rw [if_neg (by simp [hl]), if_neg (by simp [hl])]; rfl
  · rw [if_neg (show ¬(q = r ∧ L < t.lanes) from fun h => hq h.1)]
    split
    · rename_i hc
      have hoff : t.mask.getLsbD (1024 * q + L - 1024 * r) = false := BitVec.getLsbD_of_ge _ _ (by omega)
      rw [Team.laneCell_off _ _ _ _ _ hoff]
      show SMap.get VCell.zero t.v (1024 * r + (1024 * q + L - 1024 * r)) = _
      rw [show 1024 * r + (1024 * q + L - 1024 * r) = 1024 * q + L by omega]; rfl
    · rfl

/-- The write of a vector predicate: what lane `L` of predicate `q` holds then. -/
theorem State.preg_writeP (s : State) (g : LaneGuard) (i : Nat) (f : Nat → PCell) (q L : Nat) (hL : L < 1024) (hi : i ≠ 0) :
    (s.writeP g i f).cur.preg q L
      = if q = i ∧ L < s.cur.lanes then s.cur.laneP g L (s.cur.preg i L) (f L) else s.cur.preg q L := by
  have h := SMap.get_foldl_set PCell.zero (1024 * i) (fun L => s.cur.laneP g L (s.cur.preg i L) (f L)) s.cur.laneList
    s.cur.nodup_laneList s.cur.p (1024 * q + L)
  have e : (s.writeP g i f).cur.preg q L = if q = 0 then { val := true, tint := false } else
      SMap.get PCell.zero (s.cur.laneList.foldl (fun m L =>
        SMap.set PCell.zero m (1024 * i + L) (s.cur.laneP g L (s.cur.preg i L) (f L))) s.cur.p) (1024 * q + L) := rfl
  rw [e]
  by_cases hz : q = 0
  · subst hz; simp [Team.preg, Ne.symm hi]
  rw [if_neg hz, h]
  by_cases hq : q = i
  · subst hq
    have : 1024 * q + L - 1024 * q = L := by omega
    rw [this]
    by_cases hl : L < s.cur.lanes
    · rw [if_pos ⟨by omega, by simpa using hl⟩, if_pos ⟨rfl, hl⟩]
    · rw [if_neg (by simp [hl]), if_neg (by simp [hl])]; simp [Team.preg, hz]
  · rw [if_neg (show ¬(q = i ∧ L < s.cur.lanes) from fun h => hq h.1)]
    split
    · rename_i hc
      have hoff : s.cur.mask.getLsbD (1024 * q + L - 1024 * i) = false := BitVec.getLsbD_of_ge _ _ (by omega)
      rw [Team.laneP_off _ _ _ _ _ hoff, Team.preg, Team.preg, if_neg hi, if_neg hz]
      rw [show 1024 * i + (1024 * q + L - 1024 * i) = 1024 * q + L by omega]
    · simp [Team.preg, hz]

/-! ### Records of expired loads: a register write touches nothing else -/

theorem State.pruneLoads_eq (s : State) : ∃ l, s.pruneLoads = { s with loads := l } := ⟨_, rfl⟩
theorem State.abandonOf_eq (s : State) (id : TeamId) (r : Nat) (ls : List Nat) :
    ∃ l, s.abandonOf id r ls = { s with loads := l } := by
  unfold State.abandonOf
  split
  · exact ⟨_, rfl⟩
  · exact ⟨s.loads, rfl⟩
/-- A vector result touches registers of the team in focus and records of its loads, nothing else. -/
theorem State.writeV_eq (s : State) (g : LaneGuard) (r : Nat) (f : Nat → VCell) :
    ∃ l, s.writeV g r f = { s with loads := l, cur := s.cur.writeLanes g r f } := by
  obtain ⟨l, h⟩ := s.abandonOf_eq s.cur.id r (s.cur.activeLanes g)
  exact ⟨l, by simp [State.writeV, State.abandon, h, State.modCur]⟩
theorem State.writeVal_one (s : State) (g : LaneGuard) (d : Nat) (f : Nat → Val) :
    s.writeVal g 1 d f = s.writeV g d fun L => { val := BitVec.ofNat 32 (f L).1, tint := (f L).2 } := rfl
theorem State.writeVal_two (s : State) (g : LaneGuard) (d : Nat) (f : Nat → Val) :
    ∃ l, s.writeVal g 2 d f = { s with
      loads := l,
      cur := ((s.cur.writeLanes g d fun L => { val := BitVec.ofNat 32 (f L).1, tint := (f L).2 }).writeLanes g (d + 1)
        fun L => { val := BitVec.ofNat 32 ((f L).1 / 2 ^ 32), tint := (f L).2 }) } := by
  obtain ⟨l, h⟩ := s.abandonOf_eq s.cur.id d (s.cur.activeLanes g)
  obtain ⟨l', h'⟩ := (s.abandon d (s.cur.activeLanes g)).abandonOf_eq s.cur.id (d + 1) (s.cur.activeLanes g)
  refine ⟨l', ?_⟩
  simp only [State.abandon, h] at h'
  simp [State.writeVal, State.abandon, h, h', State.modCur]

end Machine

end Sys2Proof
end

