-- ==== Sys2Proof/Laws/Results.lean ====
section
/-! SUPPORT. Everything a register write can do, in the terms that claims use. -/

namespace Sys2Proof.Machine

theorem State.sameBytes_of {s t : State} (hm : t.mem = s.mem) (hg : t.groups = s.groups) : s.sameBytes t := by
  intro p
  unfold State.byteAt State.placeRead State.physRead State.group?
  rw [hm, hg]

/-- A scalar write under a true guard. -/
theorem State.wroteS_writeS (s : State) (g : TeamGuard) (d : Nat) (x : Word) (tint : Bool) (h : (s.cur.tguard g).val = true) :
    s.wroteS (s.writeS g d x tint).advance d { val := x, tint := tint || (s.cur.tguard g).tint || s.cur.ctlAny } := by
  rw [State.writeS_true s g d x tint h]
  refine ⟨?_, ?_, ?_, rfl, State.sameBytes_of rfl rfl⟩
  · simp [State.setS_eq, State.advance_eq, Team.sreg]
  · intro j hj; simp [State.setS_eq, State.advance_eq, Team.sreg, SMap.get_set_ne _ _ _ hj]
  · simp only [State.setS_eq, State.advance_eq, State.modCur_cur, Team.passed, Team.advance_with_s]

/-- A scalar predicate written outright. -/
theorem State.wroteQ_setQ (s : State) (d : Nat) (c : PCell) : s.wroteQ (s.setQ d c).advance d c := by
  refine ⟨?_, ?_, ?_, rfl, State.sameBytes_of rfl rfl⟩
  · simp [State.setQ_eq, State.advance_eq, Team.qreg]
  · intro j hj; simp [State.setQ_eq, State.advance_eq, Team.qreg, SMap.get_set_ne _ _ _ hj]
  · simp only [State.setQ_eq, State.advance_eq, State.modCur_cur, Team.passed, Team.advance_with_q]
/-- A scalar predicate under a true guard. -/
theorem State.wroteQ_writeQ (s : State) (g : TeamGuard) (d : Nat) (x tint : Bool) (h : (s.cur.tguard g).val = true) :
    s.wroteQ (s.writeQ g d x tint).advance d { val := x, tint := tint || (s.cur.tguard g).tint || s.cur.ctlAny } := by
  rw [State.writeQ_true s g d x tint h]
  exact s.wroteQ_setQ d _

/-! ### The late-answer records of what is overwritten -/

theorem LoadLane.release_lane (l : LoadLane) (n i : Nat) : (l.release n i).lane = l.lane := by
  unfold LoadLane.release; split <;> rfl
/-- A lane without anything to come has nothing to come after another release. -/
theorem LoadLane.over_release (l : LoadLane) (n i : Nat) (h : l.over n = true) : (l.release n i).over n = true := by
  unfold LoadLane.release
  by_cases he : l.st = .expired
  · rw [if_pos he]
    simp only [LoadLane.over, he, Bool.and_eq_true, List.all_eq_true, Bool.not_eq_true'] at h
    obtain ⟨hl, hr⟩ := h
    by_cases hg : l.gone ||| 2 ^ i = 2 ^ n - 1
    · simp only [LoadLane.over, if_pos hg]; exact hl
    · simp only [LoadLane.over, if_neg hg, hl, Bool.true_and, List.all_eq_true, Bool.not_eq_true']
      intro j hj
      have := hr j hj
      simp only [LoadLane.record, he, hl, Nat.testBit_or, Bool.not_or] at this ⊢
      revert this
      cases l.gone.testBit j <;> cases (2 ^ i).testBit j <;> cases l.dem.testBit j <;> simp
  · rw [if_neg he]; exact h
theorem Load.ended_mono (ld ld' : Load) (f : LoadLane → LoadLane) (hf : ∀ l, l.over ld.regs = true → (f l).over ld.regs = true)
    (e : ld' = { ld with lanes := ld.lanes.map f }) (h : ld.ended = true) : ld'.ended = true := by
  subst e
  simp only [Load.ended, Bool.and_eq_true, List.all_eq_true, List.mem_map] at h ⊢
  exact ⟨h.1, by rintro _ ⟨l, hl, rfl⟩; exact hf l (h.2 l hl)⟩
theorem Load.after_zero (ld : Load) (id : TeamId) (d : Nat) (ls : List Nat) : ld.after id d 0 ls = ld := by
  simp [Load.after]
theorem Load.after_succ (ld : Load) (id : TeamId) (d n : Nat) (ls : List Nat) :
    ld.after id d (n + 1) ls = (ld.after id d n ls).after id (d + n) 1 ls := by
  have hl : ∀ l : LoadLane, ((List.range n).foldl (fun l k => if ld.hit id (d + k) && ls.contains l.lane then l.release ld.regs (d + k - ld.d) else l) l).lane = l.lane := by
    intro l
    generalize List.range n = ks
    induction ks generalizing l with
    | nil => rfl
    | cons k ks ih =>
      rw [List.foldl_cons, ih]
      split
      · exact LoadLane.release_lane ..
      · rfl
  simp only [Load.after, Load.hit, List.map_map, List.range_succ, List.foldl_append, List.foldl_cons, List.foldl_nil, List.range_zero,
    List.nil_append, Nat.add_zero]
  rfl
theorem Load.ended_after (ld : Load) (id : TeamId) (d : Nat) (ls : List Nat) (h : ld.ended = true) : (ld.after id d 1 ls).ended = true := by
  refine Load.ended_mono ld _ _ (fun l hl => ?_) rfl h
  simp only [List.range_succ, List.range_zero, List.nil_append, List.foldl_cons, List.foldl_nil]
  split
  · exact LoadLane.over_release _ _ _ hl
  · exact hl
/-- A write of a register releases the records there and nothing else. -/
theorem State.abandonOf_released (s : State) (id : TeamId) (r : Nat) (ls : List Nat) :
    ∃ l, s.abandonOf id r ls = { s with loads := l } ∧ s.released { s with loads := l } id r 1 ls := by
  have hf : ∀ e : Load, (if e.hit id r then { e with lanes := e.lanes.map fun l => if ls.contains l.lane then l.release e.regs (r - e.d) else l } else e)
      = e.after id r 1 ls := by
    intro e
    unfold Load.after
    by_cases h : e.hit id r <;> simp [h, List.range_succ]
  unfold State.abandonOf
  by_cases h : (s.loads.any fun ld => ld.hit id r) = true
  · rw [if_pos h]
    refine ⟨_, rfl, ?_, ?_⟩
    · simp only [hf]; exact List.filter_sublist
    · intro e he
      simp only [hf, List.mem_filter, List.mem_map]
      by_cases hd : (e.after id r 1 ls).ended = true
      · exact .inr hd
      · refine .inl ⟨⟨e, he, rfl⟩, ?_⟩
        unfold Load.ended at hd
        cases h : ((e.after id r 1 ls).written && (e.after id r 1 ls).lanes.all fun l => l.over (e.after id r 1 ls).regs)
        · rfl
        · exact absurd h hd
  · rw [if_neg h]
    have h1 : ∀ e ∈ s.loads, e.after id r 1 ls = e := by
      intro e he
      have : e.hit id r = false := by
        by_contra hc
        exact h (List.any_eq_true.mpr ⟨e, he, by simpa using hc⟩)
      rw [← hf]; simp [this]
    refine ⟨s.loads, rfl, ?_, fun e he => .inl (by rw [h1 e he]; exact he)⟩
    rw [List.map_congr_left h1, List.map_id']
/-- Writes of the registers of a group, one after another. -/
theorem State.released_succ {s t u : State} {id : TeamId} {d n : Nat} {ls : List Nat} (h : s.released t id d n ls) (h' : t.released u id (d + n) 1 ls) :
    s.released u id d (n + 1) ls := by
  have e : (fun x : Load => x.after id d (n + 1) ls) = (fun x => x.after id (d + n) 1 ls) ∘ fun x => x.after id d n ls := by
    funext x; exact Load.after_succ ..
  refine ⟨?_, fun x hx => ?_⟩
  · rw [e, ← List.map_map]; exact h'.1.trans (h.1.map _)
  · rw [Load.after_succ]
    rcases h.2 x hx with hm | hd
    · exact h'.2 _ hm
    · exact .inr (Load.ended_after _ _ _ _ hd)
theorem State.released_refl (s : State) (id : TeamId) (d : Nat) (ls : List Nat) : s.released s id d 0 ls := by
  refine ⟨?_, fun e he => .inl (by rw [Load.after_zero]; exact he)⟩
  simp [Load.after_zero]
/-- One register of every lane. -/
theorem State.writeV_released (s : State) (g : LaneGuard) (r : Nat) (f : Nat → VCell) :
    ∃ l, s.writeV g r f = { s with loads := l, cur := s.cur.writeLanes g r f } ∧ s.released { s with loads := l } s.cur.id r 1 (s.cur.activeLanes g) := by
  obtain ⟨l, h, hr⟩ := s.abandonOf_released s.cur.id r (s.cur.activeLanes g)
  exact ⟨l, by simp [State.writeV, State.abandon, h, State.modCur], hr⟩
/-- A pair of registers. -/
theorem State.writeVal_two_released (s : State) (g : LaneGuard) (d : Nat) (f : Nat → Val) :
    ∃ l, s.writeVal g 2 d f = { s with
      loads := l,
      cur := ((s.cur.writeLanes g d fun L => { val := BitVec.ofNat 32 (f L).1, tint := (f L).2 }).writeLanes g (d + 1)
        fun L => { val := BitVec.ofNat 32 ((f L).1 / 2 ^ 32), tint := (f L).2 }) }
      ∧ s.released { s with loads := l } s.cur.id d 2 (s.cur.activeLanes g) := by
  obtain ⟨l, h, hr⟩ := s.abandonOf_released s.cur.id d (s.cur.activeLanes g)
  obtain ⟨l', h', hr'⟩ := (s.abandon d (s.cur.activeLanes g)).abandonOf_released s.cur.id (d + 1) (s.cur.activeLanes g)
  have h1 : s.released (s.abandon d (s.cur.activeLanes g)) s.cur.id d 1 (s.cur.activeLanes g) := by rw [State.abandon, h]; exact hr
  refine ⟨l', ?_, State.released_succ h1 hr'⟩
  simp only [State.abandon, h] at h'
  simp [State.writeVal, State.abandon, h, h', State.modCur]

/-- What a lane holds after a write: an active lane the result, an inactive one its value. -/
theorem Team.laneCell_eq (t : Team) (g : LaneGuard) (L : Nat) (old new : VCell) :
    t.laneCell g L old new = if t.active g L then { val := new.val, tint := t.taints g L new.tint }
      else { val := old.val, tint := t.keeps g L old.tint } := by
  unfold Team.laneCell Team.active Team.taints Team.keeps
  by_cases hm : t.mask.getLsbD L = true
  · by_cases hg : (t.lguard g L).val = true
    · simp [hm, hg]
    · by_cases ht : (t.lguard g L).tint = true <;> simp [hm, hg, ht]
  · simp [hm]
theorem Team.laneP_eq (t : Team) (g : LaneGuard) (L : Nat) (old new : PCell) :
    t.laneP g L old new = if t.active g L then { val := new.val, tint := t.taints g L new.tint }
      else { val := old.val, tint := t.keeps g L old.tint } := by
  unfold Team.laneP Team.active Team.taints Team.keeps
  by_cases hm : t.mask.getLsbD L = true
  · by_cases hg : (t.lguard g L).val = true
    · simp [hm, hg]
    · by_cases ht : (t.lguard g L).tint = true <;> simp [hm, hg, ht]
  · simp [hm]

/-- One vector register written lane by lane, with flags. -/
theorem State.wroteV_one (s : State) (g : LaneGuard) (d : Nat) (f : Nat → VCell) (r : Nat → Nat × Bool) (fl : NFlags)
    (hf : ∀ L, f L = { val := BitVec.ofNat 32 (r L).1, tint := (r L).2 }) :
    s.wroteV ((s.writeV g d f).addFlags fl).advance g d 1 r fl := by
  obtain ⟨l, h, hr⟩ := s.writeV_released g d f
  rw [h]
  refine ⟨?_, ?_, ?_, ⟨rfl, hr⟩, State.sameBytes_of rfl rfl⟩
  · intro k L hk hl hL
    obtain rfl : k = 0 := by omega
    have e : ((({ s with loads := l, cur := s.cur.writeLanes g d f } : State).addFlags fl).advance).cur.vreg (d + 0) L
        = (s.cur.writeLanes g d f).vreg d L := by simp [State.addFlags_eq, State.advance_eq, Team.vreg]
    rw [e, Team.vreg_writeLanes _ _ _ _ _ _ hL, if_pos ⟨rfl, hl⟩, Team.laneCell_eq, hf]
    simp
  · intro q L hq hL
    have e : ((({ s with loads := l, cur := s.cur.writeLanes g d f } : State).addFlags fl).advance).cur.vreg q L
        = (s.cur.writeLanes g d f).vreg q L := by simp [State.addFlags_eq, State.advance_eq, Team.vreg]
    rw [e, Team.vreg_writeLanes _ _ _ _ _ _ hL, if_neg (by omega)]
  · exact (Team.advance_with_v_sys s.cur _ _).trans (by simp [Team.passed, State.addFlags_eq, State.advance_eq]; exact ⟨rfl, rfl, rfl, rfl, rfl⟩)

/-- A pair of vector registers written lane by lane. -/
theorem State.wroteV_two (s : State) (g : LaneGuard) (d : Nat) (r : Nat → Val) (fl : NFlags) :
    s.wroteV ((s.writeVal g 2 d r).addFlags fl).advance g d 2 r fl := by
  obtain ⟨l, h, hr⟩ := s.writeVal_two_released g d r
  rw [h]
  have key : ∀ (t : Team) (lo hi : Nat → VCell) (q L : Nat), L < 1024 → ((t.writeLanes g d lo).writeLanes g (d + 1) hi).vreg q L
      = if q = d + 1 ∧ L < t.lanes then t.laneCell g L (t.vreg (d + 1) L) (hi L)
        else if q = d ∧ L < t.lanes then t.laneCell g L (t.vreg d L) (lo L) else t.vreg q L := by
    intro t lo hi q L hL
    rw [Team.vreg_writeLanes _ _ _ _ _ _ hL]
    by_cases hq : q = d + 1 ∧ L < t.lanes
    · rw [if_pos (show q = d + 1 ∧ L < (t.writeLanes g d lo).lanes from hq), if_pos hq,
        Team.vreg_writeLanes _ _ _ _ _ _ hL, if_neg (by omega)]
      rfl
    · rw [if_neg (show ¬(q = d + 1 ∧ L < (t.writeLanes g d lo).lanes) from hq), if_neg hq, Team.vreg_writeLanes _ _ _ _ _ _ hL]
  refine ⟨?_, ?_, ?_, ⟨rfl, hr⟩, State.sameBytes_of rfl rfl⟩
  · intro k L hk hl hL
    rw [show ∀ q, ∀ (c : Team), ((({ s with loads := l, cur := c } : State).addFlags fl).advance).cur.vreg q L = c.vreg q L from
      fun q c => by simp [State.addFlags_eq, State.advance_eq, Team.vreg]]
    rw [key _ _ _ _ _ hL]
    obtain rfl | rfl : k = 0 ∨ k = 1 := by omega
    · rw [if_neg (by omega), if_pos ⟨rfl, hl⟩, Team.laneCell_eq]; simp
    · rw [if_pos ⟨rfl, hl⟩, Team.laneCell_eq]
  · intro q L hq hL
    rw [show ∀ (c : Team), ((({ s with loads := l, cur := c } : State).addFlags fl).advance).cur.vreg q L = c.vreg q L from
      fun c => by simp [State.addFlags_eq, State.advance_eq, Team.vreg]]
    rw [key _ _ _ _ _ hL, if_neg (by omega), if_neg (by omega)]
  · exact (Team.advance_with_v_sys s.cur _ _).trans (by simp [Team.passed, State.addFlags_eq, State.advance_eq]; exact ⟨rfl, rfl, rfl, rfl, rfl⟩)

theorem State.addFlags_zero (s : State) : s.addFlags 0 = s := by
  simp [State.addFlags]
/-- A vector result of one or two registers. -/
theorem State.wroteV_val (s : State) (g : LaneGuard) (n d : Nat) (r : Nat → Val) (fl : NFlags) (hn : n = 1 ∨ n = 2) :
    s.wroteV ((s.writeVal g n d r).addFlags fl).advance g d n r fl := by
  rcases hn with rfl | rfl
  · rw [State.writeVal_one]; exact s.wroteV_one g d _ r fl fun _ => rfl
  · exact s.wroteV_two g d r fl

/-- A vector predicate written lane by lane. -/
theorem State.wroteP_writeP (s : State) (g : LaneGuard) (d : Nat) (f : Nat → PCell) (hd : d ≠ 0) :
    s.wroteP (s.writeP g d f).advance g d f := by
  refine ⟨?_, ?_, ?_, rfl, State.sameBytes_of rfl rfl⟩
  · intro L hl hL
    have e : ((s.writeP g d f).advance).cur.preg d L = (s.writeP g d f).cur.preg d L := by simp [State.advance_eq, Team.preg]
    rw [e, State.preg_writeP _ _ _ _ _ _ hL hd, if_pos ⟨rfl, hl⟩, Team.laneP_eq]
  · intro i L hi hL
    have e : ((s.writeP g d f).advance).cur.preg i L = (s.writeP g d f).cur.preg i L := by simp [State.advance_eq, Team.preg]
    rw [e, State.preg_writeP _ _ _ _ _ _ hL hd, if_neg (by simp [hi])]
  · simp only [State.writeP, State.advance_eq, State.modCur_cur, Team.passed, Team.advance_with_p]

theorem IntTy.regs_cases (ty : IntTy) : ty.regs = 1 ∨ ty.regs = 2 := by cases ty <;> simp [IntTy.regs, IntTy.bits]

end Sys2Proof.Machine
end

