-- ==== Sys2Proof/Tests/Slice0.lean ====
section
/-! SUPPORT. Tests: ill-formed terms that the checks refuse, words written out from the spec's encoding tables, single steps with results taken from the spec, and for every statement with hypotheses a state that meets them. -/

namespace Sys2Proof.Tests
open Sys2Proof.Machine
set_option Elab.async false

/-! ### Well-formedness -/

def g0 : TeamGuard := { neg := false, q := none }
def l0 : LaneGuard := { neg := false, p := 0 }
/-- A team of 32 lanes with 64 registers and 4 tiles, of a group of 2. -/
def env0 : Env := { regs := 64, accs := 4, lanes := 32, teams := 2, idx := 0 }
/-- The instruction is refused, for the team of `env0`. -/
def bad (l : List Instr) : Bool := l.all fun i => !i.wf env0

/-- Types outside an instruction's list (R100, R103). -/
theorem test_wf_types : bad [.smin ⟨g0, .b32, 1, 2, .reg 3⟩, .vadds ⟨l0, .b32, 1, 2, .reg 3⟩, .vmul ⟨l0, .i64, 2, 4, .reg 6⟩, .vabs ⟨l0, .n32, 1, 2⟩,
    .vmin ⟨l0, .b32, 1, 2, .reg 3⟩, .vclz ⟨l0, .i64, 2, 4⟩, .vperm ⟨l0, .i32, 1, 2, .reg 3, .reg 4⟩, .vmad ⟨l0, .n64, 2, 4, .reg 6, .reg 8⟩,
    .vbfe ⟨l0, .i64, 2, 4, .imm 0 1⟩, .vred ⟨l0, .b32, .min, false, 1, 2⟩, .hadd2 ⟨l0, .f32, .rn, 1, 2, .reg 3⟩] = true := by decide +kernel
/-- Registers that do not exist, and pairs that begin at an odd register (R27, R55). -/
theorem test_wf_registers : bad [.vmov ⟨l0, .i32, 64, 2⟩, .vadd ⟨l0, .i64, 3, 4, .reg 6⟩, .vmovi ⟨l0, .i64, 5, 0⟩, .vbcst ⟨l0, .i32, 200, 0⟩,
    .vsel ⟨l0, .i32, 1, 2, .reg 64, 0⟩, .vlea ⟨l0, 1, 2, .reg 64, 0⟩, .vshf ⟨l0, .i32, 1, 2, .idx (.reg 99)⟩, .vscan ⟨l0, .i64, .add, false, 1, 2⟩,
    .vbal ⟨l0, 64, 1⟩, .fadd ⟨l0, .f32, .rn, 1, 2, .reg 64⟩, .ffma ⟨l0, .f32, .rn, 1, 2, .imm 0, .reg 1⟩, .fabs ⟨l0, .f32, .rn, 64, 0⟩,
    .gdemShort ⟨l0, 64⟩, .comb ⟨l0, 0, 3, .base 0, 4⟩, .crep ⟨g0, 3⟩, .srd ⟨g0, .v 64, 0⟩, .mrdaStatus ⟨g0, 64, 0⟩] = true := by decide +kernel
/-- p0 as a destination, mixed predicate kinds, a guard on a scalar form (R55, R110, R168). -/
theorem test_wf_predicates : bad [.vcmp ⟨l0, .i32, .eq, 0, 1, .reg 2⟩, .fcmp ⟨l0, .f32, .num, 0, 1, .reg 2⟩, .pand ⟨l0, .p 1, .p 2, .q 0⟩, .pnot ⟨l0, .p 0, .p 1⟩,
    .por ⟨⟨false, 1⟩, .q 1, .q 2, .q 0⟩, .fix ⟨⟨false, 1⟩, .s 3⟩, .gdrop ⟨l0, .pred (.p 0)⟩, .gtest ⟨l0, .q 1, .v 2⟩, .gtest ⟨l0, .p 1, .s 2⟩] = true := by
  decide +kernel
/-- Rounding and saturation where they are not accepted, an f16 immediate that is not exact, unlisted conversions (R117, R128-R132). -/
theorem test_wf_floating : bad [.fmin ⟨l0, .f32, .rz, 1, 2, .reg 3⟩, .fclass ⟨l0, .f32, .ru, 1, 2⟩, .frcp ⟨l0, .f32, .rd, 1, 2⟩,
    .fadd ⟨l0, .f32, .rz, 1, 2, .imm 0⟩, .fadd ⟨l0, .f16, .rn, 1, 2, .imm 1⟩, .cvt ⟨l0, .f32, .f32, .rn, false, 1, 2⟩, .cvt ⟨l0, .f32, .f16, .rz, false, 1, 2⟩,
    .cvt ⟨l0, .i32, .f32, .rn, true, 1, 2⟩, .pack ⟨l0, .f32, .f16, .rn, false, 1, 2⟩, .unpk ⟨l0, .f16, .f32, .rn, false, 2, 1⟩,
    .quant ⟨l0, .e4m3, .f32, .rn, false, 1, 2⟩, .deq ⟨l0, .f32, .e4m3, .rn, false, 1, 2⟩] = true := by decide +kernel
/-- Accesses with a signed 128-bit type, a scope without an order, an acquire with a limit, a gather in `.k`, an atomic of 8 bits (R59, R161, R165). -/
theorem test_wf_accesses : bad [.ld ⟨l0, .g, .w128, true, 0, false, .team, 4, .base 0⟩, .ld ⟨l0, .g, .w32, true, 0, false, .core, 4, .base 0⟩,
    .ld ⟨l0, .g, .w32, true, 3, true, .core, 4, .base 0⟩, .gath ⟨l0, .k, .w32, true, 0, false, .team, 4, .index 0 1 0⟩,
    .gath ⟨l0, .g, .w32, true, 0, false, .team, 4, .base 0⟩, .st ⟨l0, .g, .w64, true, false, .team, .base 0, 3⟩,
    .scat ⟨l0, .q, .w32, true, false, .team, .index 0 1 0, 3⟩, .atom ⟨l0, .g, .w8, true, .add, .plain, .core, .auto, 1, .index 0 1 0, 2⟩,
    .atom ⟨l0, .g, .w32, true, .add, .plain, .team, .auto, 1, .index 0 1 0, 2⟩, .atom ⟨l0, .g, .w64, true, .cas, .plain, .core, .auto, 2, .index 0 1 0, 2⟩,
    .red ⟨l0, .g, .w32, true, .xchg, .plain, .core, .auto, 0, .index 0 1 0, 2⟩, .red ⟨l0, .g, .w32, true, .add, .acq, .core, .auto, 0, .index 0 1 0, 2⟩,
    .gdemAddress ⟨l0, .g, .w64, true, 3, .base 0⟩, .tmov ⟨g0, .g, .k, some .g, 0, 1, 2, 3, 4⟩, .tmov ⟨g0, .g, .k, none, 0, 1, 2, 3, 4⟩,
    .pref ⟨l0, .g, .w128, true, 0, .base 0⟩] = true := by decide +kernel
/-- Tiles that the group does not declare, format pairs outside R187, fragments and windows that do not exist, gang masks without the own bit (R179, R187, R188, R200, R204). -/
theorem test_wf_matrices : bad [.mzero ⟨g0, false, 4⟩, .mma ⟨g0, .bf16, .f16, .k64, 0, .frag 0, 1⟩, .mmag ⟨g0, .mxe4m3, .mxe4m3, .k64, 0, .frag 0, 1⟩,
    .mma ⟨g0, .bf16, .bf16, .k64, 0, .frag 32, 1⟩, .mtrn ⟨g0, .k64, 0, 8, 1⟩, .mtrnDlt ⟨g0, .k64, 0, 5, 0, 1, 2⟩, .mrda ⟨g0, false, false, .rn, .n8, 1, 0, 0, 1⟩,
    .mwra ⟨g0, .f32, 0, 0, 0, 1⟩, .mgang ⟨g0, 0b10⟩, .mgang ⟨g0, 0b101⟩, .mgang ⟨g0, 0b1⟩] = true := by decide +kernel
/-- Scopes of barrier objects, an immediate of 0, operands of absent barriers, empty fences, signals and sends (R221, R228, R229, R232, R366). -/
theorem test_wf_units : bad [.binit ⟨g0, ⟨.k, .pkg⟩, 1, .imm 1⟩, .binit ⟨g0, ⟨.k, .team⟩, 1, .imm 0⟩, .binv ⟨g0, ⟨.g, .team⟩, 1⟩, .barv ⟨g0, ⟨.g, .core⟩, 1, 2⟩,
    .bexp ⟨g0, ⟨.d, .die⟩, false, 1, 2⟩, .bwait ⟨g0, ⟨.q, .pod⟩, none, 1, 2⟩, .btest ⟨g0, ⟨.g, .quad⟩, 0, 1, 2⟩, .bbind ⟨g0, ⟨.k, .die⟩, .tl, 1, 2, 3⟩,
    .cpy ⟨g0, .g, .k, none, false, 0, 1, 2, 3, 4⟩, .cpytLd ⟨g0, .g, false, none, false, 1, 2, 0, 0⟩, .cpytSt ⟨g0, .k, false, none, false, 1, 62, 0, 0⟩,
    .cpytLd ⟨g0, .k, false, none, false, 1, 2, 0, 3⟩, .fence ⟨g0, false, false, .core⟩, .xsend ⟨g0, false, .auto, false, false, 1, 2, 3, 4⟩,
    .xfetch ⟨l0, .w32, true, 2, true, false, 4, .base 0⟩, .xatom ⟨l0, .w32, true, .add, .plain, false, 4, .base 0, 5⟩,
    .xatomNr ⟨l0, .w32, true, .cas, .plain, false, 0, .index 0 1 0, 6⟩, .xsig ⟨g0, .st, false, true, true, 1, 2⟩, .srd ⟨g0, .s 1, 0⟩, .srd ⟨g0, .s 1, 0x16⟩,
    .swr ⟨g0, 0x18, 1⟩] = true := by decide +kernel

/-! ### Words -/

/-- A word by its fields: op, guard (gneg and gpred), mod, dst, srca, srcb, srcc, ext (R54). -/
def word (op guard mod dst a b c ext : Nat) : Word :=
  BitVec.ofNat 64 (op * 2 ^ 56 + guard * 2 ^ 52 + mod * 2 ^ 48 + dst * 2 ^ 40 + a * 2 ^ 32 + b * 2 ^ 24 + c * 2 ^ 16 + ext)
/-- The same with an immediate or an offset in bits 31 to 0 (R58). -/
def wordImm (op guard mod dst a imm : Nat) : Word := word op guard mod dst a 0 0 0 + BitVec.ofNat 64 imm
/-- Every word decodes to the instruction beside it. -/
def reads (l : List (Word × Instr)) : Bool := l.all fun p => decide ((decodeWord Env.table p.1).toOption = some p.2)

/-- Control (R58, R102, R112, R114): the guard codes of R56, offsets, codes. -/
theorem test_words_control : reads [
    (word 0x00 0 0 0 0 0 0 0, .nop g0),
    (wordImm 0x01 0x6 0 0 0 0xFFFFFFF0, .bra ⟨⟨false, some 2⟩, 0xFFFFFFF0⟩),
    (wordImm 0x02 0 0 1 0x0B 0x0000002B, .brq ⟨g0, true, 3, 0x2B⟩),
    (wordImm 0x03 0xA 0 0 0x01 5, .brd ⟨⟨true, 2⟩, false, 1, 5⟩),
    (word 0x04 0xC 0 0 0 0 0 0, .join ⟨true, some 0⟩),
    (wordImm 0x05 0 0 0 0x0C 0xFFFFFFFB, .loop ⟨g0, 12, 0xFFFFFFFB⟩),
    (wordImm 0x06 0 0 0x1E 0 4, .call ⟨g0, 30, 4⟩),
    (word 0x07 0 0 0 0x1E 0 0 0, .ret ⟨g0, 30⟩),
    (word 0x08 0x8 0 0 0 0 0 0, .exit ⟨true, none⟩),
    (word 0x09 0 0 0 0 0 0 0x1234, .bkpt ⟨g0, 0x1234⟩),
    (wordImm 0x0A 0 8 0x1B 0 0xD8, .slda ⟨g0, 27, 0xD8⟩)] = true := by decide +kernel
/-- Scalar instructions (R96, R100, R101). -/
theorem test_words_scalar : reads [
    (word 0x10 0 5 8 0 0 0 0, .smov ⟨g0, .n64, 8, 0⟩), (wordImm 0x11 0 0xC 9 0 0xFFFFFFFE, .smovi ⟨g0, .i64, 9, 0xFFFFFFFE⟩),
    (word 0x12 0 0 1 2 3 0 0, .sadd ⟨g0, .i32, 1, 2, .reg 3⟩), (wordImm 0x13 0 9 1 2 7, .ssub ⟨g0, .n32, 1, 2, .imm 7⟩),
    (word 0x14 0 2 1 2 63 0 0, .smul ⟨g0, .b32, 1, 2, .reg 63⟩), (word 0x15 0 4 1 2 3 0 0, .smulh ⟨g0, .i64, 1, 2, .reg 3⟩),
    (wordImm 0x16 0 0xD 28 28 0xFF, .sand ⟨g0, .n64, 28, 28, .imm 0xFF⟩), (word 0x17 0 6 1 2 3 0 0, .sor ⟨g0, .b64, 1, 2, .reg 3⟩),
    (word 0x18 0 5 1 2 3 0 0, .sxor ⟨g0, .n64, 1, 2, .reg 3⟩), (wordImm 0x19 0 0xD 9 9 1, .sshl ⟨g0, .n64, 9, 9, .imm 1⟩),
    (word 0x1A 0x5 5 9 9 8 0 0, .sshr ⟨⟨false, some 1⟩, .n64, 9, 9, .reg 8⟩), (word 0x1B 0 0 1 2 3 0 0, .ssar ⟨g0, .i32, 1, 2, .reg 3⟩),
    (word 0x1C 0 1 1 2 3 0 0, .smin ⟨g0, .n32, 1, 2, .reg 3⟩), (word 0x1D 0 4 1 2 3 0 0, .smax ⟨g0, .i64, 1, 2, .reg 3⟩),
    (word 0x1E 0 0xD 0x0A 28 0 1 1, .scmp ⟨g0, .n64, .ne, 2, 28, .imm 1⟩), (word 0x1F 0 0 1 2 3 0x0B 0, .ssel ⟨g0, .i32, 1, 2, 3, 3⟩)] = true := by
  decide +kernel
/-- Vector integer instructions: types, immediates, scalar broadcasts in ext bits 15 and 14 (R58, R96, R103-R106). -/
theorem test_words_vector : reads [
    (word 0x20 0x1 1 10 8 0 0 0, .vmov ⟨⟨false, 1⟩, .n32, 10, 8⟩), (wordImm 0x21 0 8 2 0 9, .vmovi ⟨l0, .i32, 2, 9⟩),
    (word 0x22 0 4 2 63 0 0 0, .vbcst ⟨l0, .i64, 2, 63⟩), (word 0x23 0 0 6 5 1 0 0, .vadd ⟨l0, .i32, 6, 5, .reg 1⟩),
    (word 0x24 0 6 2 4 6 0 0, .vsub ⟨l0, .b64, 2, 4, .reg 6⟩), (wordImm 0x25 0 8 1 2 5, .vadds ⟨l0, .i32, 1, 2, .imm 5⟩),
    (word 0x26 0 1 1 2 3 0 0x8000, .vsubs ⟨l0, .n32, 1, 2, .bcast 3⟩), (word 0x27 0 2 1 2 3 0 0, .vmul ⟨l0, .b32, 1, 2, .reg 3⟩),
    (word 0x28 0 0 1 2 3 0 0, .vmulh ⟨l0, .i32, 1, 2, .reg 3⟩), (word 0x29 0 0 1 2 3 4 0x4000, .vmad ⟨l0, .i32, 1, 2, .reg 3, .bcast 4⟩),
    (word 0x2A 0 0 1 2 0 0 0, .vabs ⟨l0, .i32, 1, 2⟩), (word 0x2B 0x9 0 1 2 0 0 0, .vneg ⟨⟨true, 1⟩, .i32, 1, 2⟩),
    (word 0x2C 0 5 2 4 6 0 0, .vmin ⟨l0, .n64, 2, 4, .reg 6⟩), (wordImm 0x2D 0 9 1 2 3, .vmax ⟨l0, .n32, 1, 2, .imm 3⟩),
    (word 0x2E 0 1 2 1 9 0 0x8000, .vand ⟨l0, .n32, 2, 1, .bcast 9⟩), (word 0x2F 0 0 1 2 3 0 0, .vor ⟨l0, .i32, 1, 2, .reg 3⟩),
    (word 0x30 0 0 1 2 3 0 0, .vxor ⟨l0, .i32, 1, 2, .reg 3⟩), (word 0x31 0 4 2 4 0 0 0, .vnot ⟨l0, .i64, 2, 4⟩),
    (wordImm 0x32 0 8 1 2 31, .vshl ⟨l0, .i32, 1, 2, .imm 31⟩), (wordImm 0x33 0 9 23 22 8, .vshr ⟨l0, .n32, 23, 22, .imm 8⟩),
    (word 0x34 0 0 1 2 3 0 0, .vsar ⟨l0, .i32, 1, 2, .reg 3⟩), (word 0x35 0 1 1 2 0 0 0, .vclz ⟨l0, .n32, 1, 2⟩),
    (word 0x36 0 2 1 2 0 0 0, .vpopc ⟨l0, .b32, 1, 2⟩), (word 0x37 0 0 1 2 3 4 0xC000, .vbfe ⟨l0, .i32, 1, 2, .src (.bcast 3) (.bcast 4)⟩),
    (wordImm 0x38 0 9 1 2 (32 * 256 + 31), .vbfi ⟨l0, .n32, 1, 2, .imm 31 32⟩), (word 0x39 0 2 1 2 3 4 0, .vperm ⟨l0, .b32, 1, 2, .reg 3, .reg 4⟩),
    (word 0x3A 0 8 1 2 0 7 0xFFFF, .vsel ⟨l0, .i32, 1, 2, .imm 0xFFFF, 7⟩), (word 0x3B 0 1 1 0 10 0 0x8000, .vcmp ⟨l0, .n32, .eq, 1, 0, .bcast 10⟩),
    (word 0x3C 0 0 1 2 3 0 2, .vlea ⟨l0, 1, 2, .reg 3, 2⟩)] = true := by decide +kernel
/-- Lane exchange and predicates (R107-R111). -/
theorem test_words_lanes : reads [
    (word 0x40 0 0 1 2 3 0 0x8000, .vshf ⟨l0, .i32, 1, 2, .idx (.bcast 3)⟩), (word 0x40 0 4 2 4 0 0 (1 * 512 + 31), .vshf ⟨l0, .i64, 2, 4, .up 31⟩),
    (word 0x40 0 0 1 2 0 0 (2 * 512 + 1), .vshf ⟨l0, .i32, 1, 2, .dn 1⟩), (word 0x40 0 0 1 2 0 0 (3 * 512 + 16), .vshf ⟨l0, .i32, 1, 2, .bfly 16⟩),
    (word 0x41 0 1 6 4 0 0 0, .vred ⟨l0, .n32, .add, false, 6, 4⟩), (word 0x42 0 1 5 4 0 0 0x0080, .vscan ⟨l0, .n32, .add, true, 5, 4⟩),
    (word 0x42 0 0 5 4 0 0 0x0200, .vscan ⟨l0, .i32, .max, false, 5, 4⟩), (word 0x43 0 0 4 3 0 0 0, .vbal ⟨l0, 4, 3⟩), (word 0x48 0 0 1 2 3 0 0, .pand ⟨l0, .p 1, .p 2, .p 3⟩),
    (word 0x49 0 0 8 9 0xB 0 0, .por ⟨l0, .q 0, .q 1, .q 3⟩), (word 0x4A 0xB 0 1 0 7 0 0, .pxor ⟨⟨true, 3⟩, .p 1, .p 0, .p 7⟩),
    (word 0x4B 0 0 1 2 0 0 0, .pnot ⟨l0, .p 1, .p 2⟩), (word 0x4C 0 0 0xA 8 0 0 0, .pmov ⟨l0, .q 2, .q 0⟩),
    (word 0x4D 0 0 0xB 3 0 0 0, .pany ⟨l0, 3, 3⟩), (word 0x4E 0x2 0 8 0 0 0 0, .pall ⟨⟨false, 2⟩, 0, 0⟩)] = true := by decide +kernel
/-- Floating point: the float type codes of R115, rounding in ext 13:12 (R58, R117, R121). -/
theorem test_words_floating : reads [
    (word 0x50 0 0 1 2 3 0 0x1000, .fadd ⟨l0, .f32, .rz, 1, 2, .reg 3⟩), (wordImm 0x51 0 8 1 2 0x3F800000, .fsub ⟨l0, .f32, .rn, 1, 2, .imm 0x3F800000⟩),
    (word 0x52 0 1 1 2 3 0 0xB000, .fmul ⟨l0, .f16, .ru, 1, 2, .bcast 3⟩), (word 0x53 0 2 1 2 3 4 0x2000, .ffma ⟨l0, .bf16, .rd, 1, 2, .reg 3, .reg 4⟩),
    (word 0x54 0 0 1 2 3 0 0, .fmin ⟨l0, .f32, .rn, 1, 2, .reg 3⟩), (wordImm 0x55 0 9 1 2 0x3F800000, .fmax ⟨l0, .f16, .rn, 1, 2, .imm 0x3F800000⟩),
    (word 0x56 0 1 1 2 0 0 0, .fabs ⟨l0, .f16, .rn, 1, 2⟩), (word 0x57 0 0 1 2 0 0 0, .fneg ⟨l0, .f32, .rn, 1, 2⟩),
    (word 0x58 0 0 1 2 3 0x0A 0, .fcmp ⟨l0, .f32, .rel .lt true, 1, 2, .reg 3⟩), (word 0x58 0 2 7 2 3 0x0E 0x8000, .fcmp ⟨l0, .bf16, .nan, 7, 2, .bcast 3⟩),
    (word 0x59 0 0 1 2 0 0 0, .fclass ⟨l0, .f32, .rn, 1, 2⟩), (word 0x5A 0 0 1 2 0 0 0x3000, .frnd ⟨l0, .f32, .ru, 1, 2⟩),
    (word 0x5B 0 1 1 2 3 0 0, .hadd2 ⟨l0, .f16, .rn, 1, 2, .reg 3⟩), (word 0x5C 0 2 1 2 3 0 0x1000, .hmul2 ⟨l0, .bf16, .rz, 1, 2, .reg 3⟩),
    (word 0x5D 0 1 1 2 3 4 0, .hfma2 ⟨l0, .f16, .rn, 1, 2, .reg 3, .reg 4⟩), (word 0x5E 0 2 1 2 3 4 0x4000, .fdot2 ⟨l0, .bf16, .rn, 1, 2, .reg 3, .bcast 4⟩),
    (word 0x60 0 0 1 2 0 0 0, .frcp ⟨l0, .f32, .rn, 1, 2⟩), (word 0x61 0 1 1 2 0 0 0, .frsq ⟨l0, .f16, .rn, 1, 2⟩), (word 0x62 0 2 1 2 0 0 0, .fsqrt ⟨l0, .bf16, .rn, 1, 2⟩),
    (word 0x63 0 0 1 2 0 0 0, .fexp2 ⟨l0, .f32, .rn, 1, 2⟩), (word 0x64 0 0 1 2 0 0 0, .flog2 ⟨l0, .f32, .rn, 1, 2⟩),
    (word 0x65 0 0 1 2 0 0 0, .fsinpi ⟨l0, .f32, .rn, 1, 2⟩), (word 0x66 0 0 1 2 0 0 0, .fcospi ⟨l0, .f32, .rn, 1, 2⟩),
    (word 0x67 0 0 1 2 0 0 0, .ftanh ⟨l0, .f32, .rn, 1, 2⟩), (word 0x68 0 0 20 12 0 0 0, .fsigm ⟨l0, .f32, .rn, 20, 12⟩)] = true := by decide +kernel
/-- Conversions: destination code in ext 9:5, source code in 4:0 (R29, R128-R132). -/
theorem test_words_conversions : reads [
    (word 0x6A 0 0 1 2 0 0 (0x1000 + 32 * 0x02 + 0x0A), .cvt ⟨l0, .i32, .f32, .rz, false, 1, 2⟩),
    (word 0x6A 0 0 2 4 0 0 (0x0800 + 32 * 0x00 + 0x07), .cvt ⟨l0, .i8, .n64, .rn, true, 2, 4⟩),
    (word 0x6B 0 0 1 4 0 0 (0x3000 + 32 * 0x0D + 0x0A), .pack ⟨l0, .e4m3, .f32, .ru, false, 1, 4⟩),
    (word 0x6C 0 0 4 1 0 0 (32 * 0x0A + 0x0E), .unpk ⟨l0, .f32, .e5m2, .rn, false, 4, 1⟩),
    (word 0x6D 0 0 22 21 0 0 0x020A, .quant ⟨l0, .mxe4m3, .f32, .rn, false, 22, 21⟩),
    (word 0x6E 0 0 1 2 0 0 (32 * 0x0B + 0x13), .deq ⟨l0, .f16, .q4, .rn, false, 1, 2⟩)] = true := by decide +kernel
/-- Accesses (R59, R161, R165, R168-R172). -/
theorem test_words_accesses : reads [
    (word 0x70 0 1 4 2 1 0 0x1308, .ld ⟨l0, .g, .w32, true, 6, false, .team, 4, .index 2 1 2⟩),
    (word 0x70 0 4 4 2 0 0 (0x4000 + 0x1800 + 0x0040 + 1), .ld ⟨l0, .k, .w64, false, 0, true, .pkg, 4, .base 2⟩),
    (word 0x71 0 1 0 3 1 4 0x1008, .st ⟨l0, .g, .w32, true, false, .team, .index 3 1 2, 4⟩),
    (word 0x71 0x3 8 0 11 24 20 (0xC000 + 0x2000 + 0x0010), .st ⟨⟨false, 3⟩, .d, .w128, false, true, .core, .index 11 24 0, 20⟩),
    (word 0x72 0 0 4 2 1 0 (0xC000 + 0x1000 + 0x0780 + 8), .gath ⟨l0, .d, .w32, false, 15, false, .team, 4, .index 2 1 2⟩),
    (word 0x73 0 1 0 2 1 4 (0x0800 + 4), .scat ⟨l0, .g, .w16, true, false, .team, .index 2 1 1, 4⟩),
    (word 0x74 0 0xD 4 2 1 5 (0x1000 + 0x0300 + 0x0050 + 8 + 1), .atom ⟨l0, .g, .w32, true, .xchg, .acqrel, .pod, .near, 4, .index 2 1 2, 5⟩),
    (word 0x74 0 0 8 2 1 12 (0xC000 + 0x1800 + 0x0380 + 0x0010 + 0xC), .atom ⟨l0, .d, .w64, false, .cas, .plain, .core, .auto, 8, .index 2 1 3, 12⟩),
    (word 0x75 0 8 0 2 1 5 (0x1000 + 0x0400 + 0x0020 + 2), .red ⟨l0, .g, .w32, false, .addF32, .rel, .quad, .home, 0, .index 2 1 0, 5⟩),
    (word 0x76 0 0 4 0 0 0 0, .fix ⟨l0, .v 4⟩), (word 0x76 0 1 4 0 0 0 0, .fix ⟨l0, .s 4⟩), (word 0x79 0 2 9 0 0 0 0, .gdrop ⟨l0, .pred (.q 1)⟩),
    (word 0x78 0 0 2 4 0 0 0, .gtest ⟨l0, .p 2, .v 4⟩), (word 0x78 0 1 8 4 0 0 0, .gtest ⟨l0, .q 0, .s 4⟩),
    (word 0x77 0 0 4 0 0 0 0, .gdemShort ⟨l0, 4⟩), (word 0x77 0 1 5 3 4 0 (0x1000 + 8 + 2), .gdemAddress ⟨l0, .g, .w32, true, 5, .index 3 4 2⟩),
    (word 0x7A 0 0 1 2 3 4 (0x4000 + 0x0800 + 0x0100), .tmov ⟨g0, .k, .g, some .k, 2, 1, 2, 3, 4⟩),
    (word 0x7A 0x4 0 1 2 3 0 (0x0000 + 3), .tmov ⟨⟨false, some 0⟩, .g, .d, none, 0, 1, 2, 3, 0⟩),
    (word 0x7B 0 1 0 2 1 0 (0x1000 + 0x0080 + 8), .pref ⟨l0, .g, .w32, true, 1, .index 2 1 2⟩)] = true := by decide +kernel
/-- `MMA.bf16.k64 a0, v16, s15`, the spec's own word, for a team of 256 lanes (R188, R190). -/
theorem test_word_mma : (decodeWord { Env.table with lanes := 256 } 0x810000100F00018C).toOption = some (.mma ⟨g0, .bf16, .bf16, .k64, 0, .frag 16, 15⟩) := by
  decide +kernel
/-- Matrix instructions (R190, R200-R204). -/
theorem test_words_matrices : reads [
    (word 0x80 0 0 7 0 0 0 1, .mzero ⟨g0, true, 7⟩), (word 0x81 0 0 0 64 15 0 (32 * 0x0C + 0x0C), .mma ⟨g0, .bf16, .bf16, .k64, 0, .frag 64, 15⟩),
    (word 0x81 0 0 1 3 4 5 (0x2000 + 0x0400 + 32 * 0x10 + 0x11), .mma ⟨g0, .mxe5m2, .mxe4m3, .k128, 1, .handle 3 5, 4⟩),
    (word 0x82 0 0 1 128 4 0 (0x0800 + 32 * 0x0E + 0x0D), .mmag ⟨g0, .e4m3, .e5m2, .k256, 1, .frag 128, 4⟩),
    (word 0x83 0 0 1 32 4 0 0, .mtrn ⟨g0, .k64, 1, 32, 4⟩), (word 0x83 0 0 1 32 4 5 (0x2000 + 0x12), .mtrnDlt ⟨g0, .k64, 0x12, 1, 32, 4, 5⟩),
    (word 0x84 0 0 0 1 2 0 0, .mldw ⟨g0, 1, 2⟩), (word 0x84 0 0 0 1 2 3 1, .mldwSave ⟨g0, 1, 2, 3⟩), (word 0x84 0 0 0 1 2 3 2, .mldwRaw ⟨g0, 1, 2, 3⟩),
    (0x85010C0007000A01, .mrda ⟨g0, true, false, .rn, .f32, 1, 12, 0, 7⟩),
    (word 0x85 0 0 12 1 7 0 (0x8000 + 0x6000 + 256 * 0x0D + 2), .mrda ⟨g0, false, true, .ru, .e4m3, 2, 12, 1, 7⟩),
    (word 0x85 0 0 12 0 7 0 (256 * 8), .mrdaStatus ⟨g0, 12, 7⟩), (word 0x86 0 0 0 3 7 0 0x0A01, .mwra ⟨g0, .f32, 1, 0, 3, 7⟩),
    (word 0x87 0 0 0 0 0 0 0x8003, .mgang ⟨g0, 0x8003⟩)] = true := by decide +kernel
/-- Barrier objects, copies and timelines (R221, R228-R232). -/
theorem test_words_sync : reads [
    (word 0x90 0 8 0 1 0 0 0x4001, .binit ⟨g0, ⟨.k, .team⟩, 1, .imm 1⟩), (word 0x90 0 0 0 1 2 0 (0x1800), .binit ⟨g0, ⟨.g, .die⟩, 1, .reg 2⟩),
    (word 0x91 0 0 0 1 0 0 0x8000, .binv ⟨g0, ⟨.q, .team⟩, 1⟩), (word 0x92 0 0 12 10 0 0 0x2000, .barv ⟨g0, ⟨.g, .pkg⟩, 12, 10⟩),
    (word 0x93 0 0 0 1 19 0 0x4001, .bexp ⟨g0, ⟨.k, .team⟩, true, 1, 19⟩), (word 0x94 0 0 0 10 12 0 0x4000, .bwait ⟨g0, ⟨.k, .team⟩, none, 10, 12⟩),
    (word 0x94 0 0 8 10 12 0 0x2800, .bwait ⟨g0, ⟨.g, .pod⟩, some 0, 10, 12⟩), (word 0x95 0 0 0xB 10 12 0 0xC000, .btest ⟨g0, ⟨.d, .team⟩, 3, 10, 12⟩),
    (word 0x96 0 0 0 1 2 3 0x4002, .bbind ⟨g0, ⟨.k, .team⟩, .watch, 1, 2, 3⟩),
    (word 0x97 0 0 9 17 18 1 0x1300, .cpy ⟨g0, .g, .k, some .k, true, 0, 9, 17, 18, 1⟩),
    (word 0x97 0x5 0 14 2 13 0 0x40F0, .cpy ⟨⟨false, some 1⟩, .k, .g, none, false, 15, 14, 2, 13, 0⟩),
    (word 0x98 0 0 1 2 3 4 (0x4000 + 0x1000 + 0x0800), .cpytLd ⟨g0, .k, true, some .g, false, 1, 2, 3, 4⟩),
    (word 0x98 0 0 1 2 0 0 (0x8000 + 0x2000 + 0x0100), .cpytSt ⟨g0, .q, false, none, true, 1, 2, 0, 0⟩),
    (word 0x99 0 0 8 1 2 0 0, .chtest ⟨g0, 0, 1, 2⟩), (word 0x9A 0 0 3 1 0 0 0x0050, .chwp ⟨g0, 5, 3, 1⟩),
    (word 0x9B 0 8 0 1 2 0 0x2000, .tlsig ⟨g0, true, .pkg, 1, 2⟩), (word 0x9C 0 4 3 1 0 0 0x2800, .tlrd ⟨g0, true, .pod, 3, 1⟩),
    (word 0x9D 0 0xC 0 0 0 0 0x0800, .fence ⟨g0, true, true, .core⟩)] = true := by decide +kernel
/-- Combiner and fabric instructions; the first three and the four of R366 are the spec's own words (R345, R346, R366). -/
theorem test_words_combiner_fabric : reads [
    (0xA000090500000000, .creg ⟨g0, 1, 5⟩), (0xA100090500000000, .cdreg ⟨g0, 1, 5⟩), (0xA300000600000000, .crep ⟨g0, 6⟩),
    (0xA2000C12000A1801, .comb ⟨l0, 0, 12, .base 18, 10⟩), (0xA2000C12030A183C, .comb ⟨l0, 3, 12, .index 18 3 3, 10⟩),
    (0xA850141516170001, .xsend ⟨⟨false, some 1⟩, false, .auto, false, true, 20, 21, 22, 23⟩),
    (word 0xA8 0 8 20 21 22 0 (0x0200 + 0x0070 + 4), .xsend ⟨g0, true, .via 7, true, false, 20, 21, 22, 0⟩),
    (0xA901040201001408, .xfetch ⟨l0, .w32, true, 8, false, false, 4, .index 2 1 2⟩),
    (0xAA000803020A185C, .xatom ⟨l0, .w64, false, .add, .plain, false, 8, .index 3 2 3, 10⟩),
    (word 0xAA 0 9 0 3 2 10 (0x1000 + 0x0100 + 0x0050 + 3), .xatomNr ⟨l0, .w32, true, .max, .rel, true, 0, .index 3 2 0, 10⟩),
    (0xAB50001819000004, .xsig ⟨⟨false, some 1⟩, .st, false, false, true, 24, 25⟩),
    (word 0xAB 0 8 0 24 25 0 0x000B, .xsig ⟨g0, .cnt, true, true, false, 24, 25⟩)] = true := by decide +kernel
/-- System instructions (R278, R279, R290, R294, R296); SRD, SWR and RTE are the spec's own words. -/
theorem test_words_system : reads [
    (word 0xB0 0 0 0 0 0 0 1, .trap ⟨g0, 1⟩), (word 0xB0 0x6 1 0 0 0 0 2, .trapKill ⟨⟨false, some 2⟩, 2⟩), (0xB100000000000000, .rte g0),
    (0xB201010000000000, .srd ⟨g0, .v 1, 0⟩), (word 0xB2 0 0 28 0x11 0 0 0, .srd ⟨g0, .s 28, 0x11⟩), (0xB300101B00000000, .swr ⟨g0, 0x10, 27⟩),
    (word 0xB4 0 0 0 0 0 0 0, .park g0), (word 0xB5 0 0 0 0 0 0 0, .yield g0), (word 0xB6 0 0 0 1 2 0 0, .ipref ⟨g0, 1, 2⟩),
    (word 0xB7 0 0 9 1 2 0 0, .ipin ⟨g0, 1, 1, 2⟩), (word 0xB8 0 0 0xB 1 2 0 0, .iunpin ⟨g0, 3, 1, 2⟩), (word 0xB9 0 0 0 1 0 0 0, .launch ⟨g0, 1⟩),
    (word 0xBA 0 0 0 1 2 0 0, .enq ⟨g0, 1, 2⟩), (word 0xBB 0 0 0 1 2 0 0, .rsh ⟨g0, 1, 2⟩)] = true := by decide +kernel
/-- Words that no instruction has, with the slot that the first failed check of R60 names: an unassigned opcode, a team guard of 0b001, a reserved type, a nonzero bit of a NOP, a nonzero unused slot. -/
theorem test_words_illegal :
    ([word 0x0B 0 0 0 0 0 0 0, word 0xFF 0 0 0 0 0 0 0, word 0x01 1 0 0 0 0 0 0, word 0x12 0 3 1 2 3 0 0, word 0x00 0 0 0 0 0 0 1, word 0x10 0 0 1 2 3 0 0,
      word 0x71 0 1 0 3 1 4 0x1088].map fun w => match decodeWord Env.table w with | .error sl => some sl.code | .ok _ => none)
      = [some 7, some 7, some 0, some 5, some 6, some 3, some 6] := by decide +kernel
/-- A header mark never decodes (R61). -/
theorem test_header_is_no_instruction : (decodeWord Env.table 0xC090000000000000).toOption = none := by decide +kernel

/-! ### States -/

/-- A leaf of 64 MiB (R317): kind, peer, the bits R, W and X, the frame. -/
def leaf (kind peer rwx frame : Nat) : Word :=
  BitVec.ofNat 64 (2 ^ 63 + 2 ^ 62 + 2 * 2 ^ 60 + kind * 2 ^ 57 + peer * 2 ^ 52 + rwx * 2 ^ 49 + frame)
def lpb0 : Lpb :=
  { code := 0x4000000, gx := 2, gy := 1, gz := 1, argq := 0, mig := true, retry := 3, idem := true, prio := 1, ftz := false, accs := 8, regs := 64,
    teams := 2, lanes := 32, d := 4096, q := 4096, k := 4096, wbuf := 4096, tlAddr := 0, tlVal := 5, stAddr := 0 }
def ctx0 : Ctx :=
  { slot := 0, id := 7, state := .active, root := 0x100000, table := 0x10000, tableLen := 4, errAddr := 0x20000, save := 0xC000000, saveSize := 0x1000000,
    const := 0x40000, constSize := 0x10000, setup := 0x50000, setupSize := 0x10000, handler := 0x4001000, queues := [], nextKernel := 1, maps := 0 }
def kernel0 : Kernel :=
  { kid := 3, ctx := 0, id := 1, state := .running, lpb := lpb0, raw := none, args := [], prio := 1, code := 0, cause := 0, retries := 0, made := 1,
    retired := 0, cmd := none }
def group0 : Group :=
  { gid := 1, kid := 3, ctx := 0, index := 0, state := .resident, lcore := 0, retry := 0, k := Scratch.zero, q := Scratch.zero, d := Scratch.zero,
    held := [], tl := [], tiles := [], tileIa := [], tileTint := [], wbuf := [], placement := 1, latch := none, saveAddr := some 0xC000000,
    constAddr := some 0x40000, residentSince := 0, cause := .none, parkAsked := none, migrateAsked := false, wakes := [], awake := false, images := [],
    savedGuards := [], savedBinds := [], imageLost := false, hasImage := false, dBase := 0, killCause := none, blockedSince := none }
/-- A team of 32 lanes in the middle of a clause of two words. -/
def team0 : Team :=
  { Team.create { gid := 1, idx := 0 } 32 64 8 2 false 1 0x4000000 0 with
    state := .active, inSet := true, clause := some { hdr := 0x4000000, header := 0, words := [0, 0], idx := 0 } }
/-- The bytes of words stored at physical addresses. -/
def stored (l : List (Nat × Word)) (s : State) : State := l.foldl (fun s p => s.physWrite p.1 (leBytes 8 p.2.toNat)) s
/-- One context, one kernel, one group with one team; virtual pages of 64 MiB: data, code, a window to package 1, a save page. -/
def base : State :=
  stored [(0x100000, BitVec.ofNat 64 (2 ^ 63 + 0x200000)), (0x200000, leaf 0 0 6 0x4000000), (0x200008, leaf 0 0 5 0x8000000),
    (0x200010, leaf 3 1 6 0xC000000), (0x200018, leaf 2 0 6 0x10000000)]
  { State.reset with cur := team0, groups := [group0], kernels := [kernel0], ctxs := [ctx0], stage := 7, nextKey := 10 }
/-- Scalar registers set, untinted. -/
def sets (l : List (Nat × Nat)) (s : State) : State :=
  { s with cur := { s.cur with s := l.foldl (fun m p => m.set SCell.zero p.1 { val := BitVec.ofNat 64 p.2, tint := false }) s.cur.s } }
/-- The state after instructions; a stop leaves it. -/
def after (l : List Instr) (s : State) : State := l.foldl (fun s i => match exec i s with | .next t => t | _ => s) s
/-- What holds of the next state. -/
def gives (i : Instr) (s : State) (p : State → Bool) : Bool := match exec i s with | .next t => p t | _ => false
/-- What holds of an answer that is there. -/
def there {α : Type} (o : Option α) (p : α → Bool) : Bool := match o with | some x => p x | none => false
def fine {ε α : Type} (o : Except ε α) (p : α → Bool) : Bool := match o with | .ok x => p x | .error _ => false
/-- A scalar predicate set. -/
def setQ (i : Nat) (c : PCell) (s : State) : State := { s with cur := { s.cur with q := s.cur.q.set PCell.zero i c } }
def setP (i : Nat) (l : List Nat) (tint : Bool) (s : State) : State :=
  { s with cur := { s.cur with p := l.foldl (fun m L => m.set PCell.zero (1024 * i + L) { val := true, tint }) s.cur.p } }
def setV (r : Nat) (f : Nat → VCell) (s : State) : State :=
  { s with cur := { s.cur with v := (List.range 32).foldl (fun m L => m.set VCell.zero (1024 * r + L) (f L)) s.cur.v } }
def modCur (f : Team → Team) (s : State) : State := { s with cur := f s.cur }
def lane1 (x : Nat) : VCell := { val := BitVec.ofNat 32 x, tint := false }

theorem test_base_form : base.wf = true := by decide +kernel
theorem test_base_maps : fine (base.locate .g needRW 0x1008 8) (fun x => x.place == .phys 0x4001008) = true := by decide +kernel

/-! ### Witnesses: states and operands that meet the hypotheses of the statements -/

theorem wit_EncodeDecode : (Instr.nop g0).wf Env.table = true ∧ encodeWord (.nop g0) = some 0 := by decide +kernel
theorem wit_DecodeEncode : fine (decodeWord Env.table 0x7001040201001308) (fun i => i.wf Env.table) = true := by decide +kernel
/-- A guard that is true, one that is false, and one that is false and tinted. -/
theorem wit_ScalarArithmetic :
    (base.cur.tguard g0).val = true ∧ (base.cur.tguard ⟨true, none⟩).val = false ∧ (base.cur.tguard ⟨true, none⟩).tint = false
    ∧ ((setQ 0 { val := false, tint := true } base).cur.tguard ⟨false, some 0⟩).val = false
    ∧ ((setQ 0 { val := false, tint := true } base).cur.tguard ⟨false, some 0⟩).tint = true := by decide +kernel
theorem wit_ScalarMoves : (base.cur.tguard g0).val = true ∧ ((setQ 3 { val := true, tint := false } base).cur.tguard ⟨false, some 3⟩).val = true := by
  decide +kernel
theorem wit_VectorFields : (VTriOps.mk l0 .b32 1 2 (.reg 3) (.reg 4)).ty = .b32 ∧ (VBfOps.mk l0 .i32 1 2 (.imm 0 32)).ty.bits = 32
    ∧ (VBfOps.mk l0 .n32 255 2 (.imm 31 1)).ty.bits = 32 := by decide +kernel
theorem wit_CompareAndPredicates : (VCmpOps.mk l0 .i32 .eq 1 2 (.reg 3)).d ≠ 0 ∧ (FCmpOps.mk l0 .f32 .num 7 2 (.reg 3)).d ≠ 0
    ∧ (PBinOps.mk l0 (.p 1) (.p 0) (.p 7)).d = .p 1 ∧ (PBinOps.mk l0 (.q 3) (.q 0) (.q 1)).d = .q 3 := by decide +kernel
theorem wit_SpecialFunctions : there ((after [.frcp ⟨l0, .f32, .rn, 1, 2⟩] base).cur.sf.find? fun r => r.key == 10)
    (fun r => decide (r.lanes.map Prod.fst).Nodup && r.lanes.all (fun p => decide (p.1 < 1024)) && decide (r.lanes.length = 32)) = true := by decide +kernel
/-- Guards of both kinds, scalars that are 1, aligned and misaligned; the first and the last instruction of a clause. -/
theorem wit_BranchesAndPasses : there base.cur.clause (fun c => decide (c.idx + 1 < c.words.length)) = true
    ∧ there (after [.nop g0] base).cur.clause (fun c => decide (c.words.length ≤ c.idx + 1)) = true
    ∧ (base.cur.tguard g0).tint = false ∧ (base.cur.tguard g0).val = true ∧ (base.cur.tguard ⟨true, none⟩).tint = false
    ∧ (base.cur.tguard ⟨true, none⟩).val = false ∧ (base.cur.qreg 3).tint = false ∧ (base.cur.sreg 63).tint = false
    ∧ (sets [(5, 1)] base).cur.sval 5 = 1 ∧ (base.cur.sval 5).toNat % 8 = 0 ∧ ((sets [(5, 4)] base).cur.sval 5).toNat % 8 ≠ 0 := by decide +kernel
def full (s : State) (n : Nat) : State :=
  { s with cur := { s.cur with stack := List.replicate n { target := 0x4000100, mask := 1, ctl := 0 } } }
/-- A region that no lane enters, one that one lane enters, with a full stack and with room; stacks that are empty and not. -/
theorem wit_MaskAndExit :
    (∀ L, L < base.cur.lanes → (base.cur.mask.getLsbD L && (base.cur.lguard l0 L).val && xor (base.cur.preg 1 L).val false) = false
      ∧ (base.cur.mask.getLsbD L && ((base.cur.preg 1 L).tint || (base.cur.lguard l0 L).tint)) = false)
    ∧ (∃ L, L < base.cur.lanes ∧ (base.cur.mask.getLsbD L && (base.cur.lguard l0 L).val && xor ((setP 1 [31] false base).cur.preg 1 L).val false) = true)
    ∧ 32 ≤ (full base 32).cur.stack.length ∧ (full base 31).cur.stack.length < 32 ∧ base.cur.stack = []
    ∧ (base.cur.tguard g0).val = true ∧ (base.cur.tguard g0).tint = false ∧ base.cur.ctlMask = false
    ∧ (let s : State := { full base 1 with cur := { (full base 1).cur with mask := 0xFFFFFFFE } }
       (s.cur.stack.map fun e => e.mask &&& ~~~s.cur.mask) = [1] ∧ s.cur.ctlMask = false)
    ∧ ((full base 2).cur.stack.map fun e => e.mask &&& ~~~base.cur.mask) = [0, 0] := by decide +kernel
def inMode (m : Mode) (s : State) : State := { s with cur := { s.cur with mode := m } }
def withTvec (s : State) : State := { s with cur := { s.cur with sys := { s.cur.sys with tvec := 0x4002000 } } }
/-- Fields at their greatest values; a program with its own handler and without; the user handler; the system handler of a live group. -/
theorem wit_TrapEntry : (255 : Nat) < 256 ∧ (31 : Nat) < 32 ∧ (3 : Nat) < 4
    ∧ (0x09 : Nat) ∈ [0x01, 0x02, 0x08, 0x09] ∧ (withTvec base).cur.mode = .program ∧ (withTvec base).cur.sys.tvec ≠ 0
    ∧ base.cur.mode = .program ∧ base.cur.sys.tvec = 0 ∧ (base.ctx? (base.ctxOf base.cur)).isSome = true
    ∧ (inMode .user base).cur.mode = .user ∧ (0x10 : Nat) ∉ [0x01, 0x02, 0x08, 0x09, 0x1A, 0x1C]
    ∧ (inMode .system base).cur.mode = .system ∧ there ((inMode .system base).group? 1) (fun g => g.state.live) = true := by decide +kernel
def trapped (c : Nat) (s : State) : State := { s with cur := { s.cur with fr := { s.cur.fr with cause := BitVec.ofNat 64 c } } }
/-- A handler that returns inside its clause, one that returns to the whole clause, and one into the user handler. -/
theorem wit_SoftwareTrapsAndReturn : (base.cur.tguard g0).val = true ∧ (base.cur.tguard g0).tint = false ∧ base.cur.ctlMask = false
    ∧ (inMode .user base).cur.mode = .user
    ∧ (let s := inMode .system (trapped (0x18 + 31 * 256 + 2 ^ 14) base)
       s.cur.mode = .system ∧ s.cur.fr.cause.toNat % 256 ≠ 0x3A ∧ s.cur.fr.cause.toNat / 2 ^ 8 % 32 = 31 ∧ s.cur.fr.cause.toNat / 2 ^ 14 % 4 = 1)
    ∧ (let s := inMode .user (trapped (0x08 + 23 * 256 + 2 ^ 13) base)
       s.cur.fr.cause.toNat / 2 ^ 8 % 32 = 23 ∧ s.cur.fr.cause.getLsbD 13 = true) := by decide +kernel

def ldOps : LoadOps := ⟨l0, .g, .w32, true, 6, false, .team, 4, .base 2⟩
/-- s2 names the word at virtual 0x1000, physical 0x4001000, which holds −2. -/
def s2 : State := sets [(2, 0x1000)] (stored [(0x4001000, 0xFFFFFFFE)] base)
def ldS : State := after [.ld ldOps] s2
def zeroReply : Reply := .value 0
def answered : State := after ((List.range 32).map fun L => .exactAnswerArrival 10 L zeroReply) ldS
/-- Every active lane of an access is aligned and lies at a place. -/
def reachesB (s : State) (g : LaneGuard) (sp : Space) (need : Need) (w : Width) (a : AddrOp) (pl : Nat → Place) : Bool :=
  (s.cur.activeLanes g).all fun L => (s.cur.memAddr a L).1 % w.bytes == 0
    && fine (s.locate sp need (s.cur.memAddr a L).1 w.bytes) (fun x => x.place == pl L)
def cleanB (s : State) (g : LaneGuard) (a : AddrOp) : Bool :=
  (s.cur.activeLanes g).all (fun L => !(s.cur.memAddr a L).2)
    && (List.range s.cur.lanes).all (fun L => !(s.cur.lguard g L).tint && !s.cur.ctl.getLsbD L)
/-- An aligned and mapped load; a misaligned one; one whose page is not mapped. -/
theorem wit_LoadIssues : s2.cur.method = none ∧ cleanB s2 l0 (.base 2) = true ∧ reachesB s2 l0 .g needR .w32 (.base 2) (fun _ => .phys 0x4001000) = true
    ∧ s2.cur.sys.gdrill = false ∧ (s2.cur.activeLanes l0).length = 32
    ∧ (let m := sets [(2, 0x1002)] base; (m.cur.memAddr (.base 2) 0).1 % 4 ≠ 0 ∧ 0 ∈ m.cur.activeLanes l0)
    ∧ (let m := sets [(2, 0x10000000)] base; fine (m.locate .g needR (m.cur.memAddr (.base 2) 31).1 4) (fun _ => true) = false) := by decide +kernel
/-- A load of the team in focus that has all its answers. -/
def settledB (s : State) (ld : Load) : Bool :=
  decide (ld.team = s.cur.id) && decide (s.cur.id.gid ≠ 0) && decide (ld.kind = .load) && !ld.written && !ld.redirected && decide (ld.keep = [])
    && ld.lanes.all (fun l => decide (l.st = .exact) && l.bad.isNone && l.gd.isNone && decide (l.lane < 1024)) && decide (ld.lanes.map LoadLane.lane).Nodup
/-- The state after the LD, and the one after its 32 answers. -/
theorem wit_LoadCompletes :
    there (ldS.load? 10) (fun ld => decide (ld.kind = .load) && decide (ldS.clk ≤ limitEnd ld.issued ld.limit) && !ld.written && there (ld.lane? 31) fun l =>
      decide (l.st = .waiting) && l.gd.isNone && !l.performed && !l.place.isPeer && l.place != .nowhere && ldS.laneOk ld l && !ldS.placePoisoned l.place 4) = true
    ∧ there (answered.load? 10) (fun ld => settledB answered ld && decide (ld.lanes.length = 32)) = true := by decide +kernel
def late (n : Nat) (s : State) : State := { s with clk := s.clk + n }
def expired : State := after [.loadExpiry 10] (late 100000 ldS)
def poisonedS : State := after ((List.range 32).map fun L => .exactAnswerArrival 10 L zeroReply) (ldS.placePoison (.phys 0x4001000) 32)
def numberedB (s : State) : Bool := decide (s.loads.map Load.key).Nodup && s.loads.all fun ld => decide (ld.key < s.nextKey)
/-- Another load of the core, expired, with records for 255 registers. -/
def crowded (s : State) : State :=
  { s with loads := s.loads ++ s.loads.map fun ld =>
      { ld with key := 9, d := 0, regs := 255, written := true, limit := 0, lanes := (ld.lanes.take 1).map fun l => { l with st := .expired } } }
/-- The load's first lane alone is in flight, and a GDEM waits for its record. -/
def demanding : State :=
  let s := after [.loadDestinationWrite 10] expired
  after [.gdemShort ⟨l0, 4⟩] s
/-- A limit that has passed with room for its records and with none; an expired lane with nothing held, which a GDEM waits for; a load with poisoned data, its team standing; special functions on their way; a load with all its answers behind one that waits. -/
theorem wit_GuessedLoads :
    (let s := late 100000 ldS
     numberedB s = true ∧ there (s.load? 10) (fun ld => decide (ld.limit ≠ 0) && !ld.written && decide (limitEnd ld.issued ld.limit < s.clk)
       && ld.lanes.all (fun l => decide (l.lane / 32 = 0) && decide (l.st = .waiting) && !l.tintAddr)
       && decide (s.recordsUsed ld.core + ld.rows.length * ld.regs ≤ 256)) = true)
    ∧ (let s := crowded (crowded (late 100000 ldS))
       let t := { s with loads := s.loads.take 1 ++ (s.loads.drop 1).take 1 ++ ((s.loads.drop 2).take 1).map fun ld => { ld with key := 8, regs := 1 } }
       numberedB t = true ∧ there (t.load? 10) (fun ld => decide (256 < t.recordsUsed ld.core + ld.regs) && decide (ld.limit ≠ 0)) = true)
    ∧ there (expired.load? 10) (fun ld => decide (ld.kind = .load) && !ld.written && there (ld.lane? 5) fun l => decide (l.st = .expired) && !l.late
      && l.gd.isNone && !l.performed && !l.place.isPeer && l.place != .nowhere && expired.laneOk ld l && !expired.placePoisoned l.place 4) = true
    ∧ there (demanding.load? 10) (fun ld => ld.written && there (ld.lane? 5) fun l => decide (l.st = .expired) && !l.late && !l.performed
      && !l.gone.testBit 0 && !l.dem.testBit 0) = false
    ∧ (demanding.loads.any fun e => decide (e.kind = .gdem) && !e.written && e.lanes.any fun m => decide (m.lane = 5) && decide (m.st = .waiting)
      && decide (m.gd = some { links := [(0, 10, 0)], got := [], again := [] })) = true
    ∧ (let s := modCur (fun t => { t with clause := none }) poisonedS
       there (s.load? 10) (fun ld => decide (ld.kind = .load) && decide (ld.team = s.cur.id) && decide (s.cur.id.gid ≠ 0) && !ld.written && !ld.redirected
         && there ld.lanes.head? (fun l => !l.tintAddr && decide (l.bad = some 0x1D)) && ld.lanes.all (fun l => decide (l.st = .exact)) && s.stands ld) = true
        ∧ s.cur.state = .active)
    ∧ (let s := after [.frcp ⟨l0, .f32, .rn, 1, 2⟩, .fsqrt ⟨l0, .f32, .rn, 3, 2⟩] base
       there s.cur.sf.head? (fun r => decide (r.lanes.map Prod.fst).Nodup && r.lanes.all (fun p => decide (p.1 < 1024)) && s.cur.sf.tail.all fun x => x.key != r.key) = true
        ∧ s.cur.sf.length = 2)
    ∧ (let s := { answered with loads := ldS.loads.map (fun e => { e with key := 9 }) ++ answered.loads }
       s.cur.sf = [] ∧ there (s.loads.drop 1).head? (fun ld => settledB s ld && (s.loads.take 1).all fun e => e.key != ld.key
         && e.lanes.any fun l => decide (l.st = .waiting)) = true) := by decide +kernel
/-- No bank is held where no stack has told of an activation alert. -/
theorem not_backedOff (s : State) (h : s.hbms = []) (p : Place) : s.backedOff p = false := by
  cases p <;> simp [State.backedOff, h, Stack.init]
/-- Stores that every active lane may make, to memory and to core scratchpad up to its last word. -/
theorem wit_Stores : s2.cur.method = none ∧ cleanB s2 l0 (.base 2) = true
    ∧ (∀ L, L ∈ s2.cur.activeLanes l0 → ∀ k, k < Width.w32.regs → (s2.cur.vreg (4 + k) L).tint = false)
    ∧ reachesB s2 l0 .g needW .w32 (.base 2) (fun _ => .phys 0x4001000) = true ∧ s2.cur.activeLanes l0 ≠ []
    ∧ s2.accepts = true ∧ s2.loads = [] ∧ s2.posts = [] ∧ s2.mats = [] ∧ s2.engs = [] ∧ s2.cur.fences = [] ∧ s2.early = [] ∧ s2.hbms = []
    ∧ (let s := sets [(2, 4092)] base
       reachesB s l0 .k needW .w32 (.base 2) (fun _ => .scratch 1 .k 4092) = true ∧ s.placeGuarded (.scratch 1 .k 4092) 4 = false) := by decide +kernel
def atomA : AtomOps := ⟨l0, .g, .w32, true, .add, .plain, .pkg, .home, 4, .index 2 1 2, 5⟩
def atS : State := after [.atom atomA] s2
/-- An ATOM that issues, and its first lane at its home. -/
theorem wit_Atomics : cleanB s2 l0 (.index 2 1 2) = true ∧ (∀ L, L ∈ s2.cur.activeLanes l0 → ∀ k, k < atomRegs .w32 .add → (s2.cur.vreg (5 + k) L).tint = false)
    ∧ reachesB s2 l0 .g needRW .w32 (.index 2 1 2) (fun _ => .phys 0x4001000) = true ∧ s2.placeGuarded (.phys 0x4001000) 4 = false
    ∧ s2.cur.activeLanes l0 ≠ [] ∧ s2.outOk (s2.coreOf s2.cur.id.gid) (s2.kidOf s2.cur) = true
    ∧ there (atS.load? 10) (fun ld => decide (ld.kind = .atom .add) && decide (atS.clk ≤ limitEnd ld.issued ld.limit) && !ld.written && there (ld.lane? 0) fun l => decide (l.st = .waiting) && l.gd.isNone
      && !l.performed && decide (l.place = .phys 0x4001000) && atS.laneOk ld l) = true
    ∧ atS.poisoned 0x4001000 4 = false ∧ atS.guarded 0x4001000 4 = false ∧ (atS.regOver 0x4001000 4).isNone = true := by decide +kernel
/-- The destination has taken its guesses; the records wait for their late answers. -/
def guessed : State := after [.loadDestinationWrite 10] expired
/-- The late answers of the load have come. -/
def lateAll (s : State) : State := after ((List.range 32).map fun L => .lateAnswerArrival 10 L zeroReply) s
def gdemS : State := lateAll demanding
/-- Destinations of GTEST and FIX; a GDEM of registers whose records are not lost, with their answers due and held; its address form on a page that is mapped; a GDEM that has its registers. -/
theorem wit_GuessInstructions : (PredReg.p 1 : PredReg) = .p 1 ∧ (1 : Fin 8) ≠ 0 ∧ cleanB s2 l0 (.base 2) = true
    ∧ (∀ L, L ∈ guessed.cur.activeLanes l0 → there (guessed.recordOf guessed.cur.id 4 L) (fun x => decide (x.2.1.bad ≠ some 0x52)) = true)
    ∧ (∀ L, L ∈ guessed.cur.activeLanes l0 → fine (guessed.checkLane .g needR 4 (guessed.cur.memAddr (.base 2) L).1) (fun _ => true) = true)
    ∧ (∀ L, L ∈ guessed.cur.activeLanes l0 → (guessed.cur.vreg 4 L).tint = true ∧ there (guessed.recordOf guessed.cur.id 4 L) (fun x => !x.2.1.late) = true)
    ∧ guessed.cur.activeLanes l0 ≠ [] ∧ guessed.cur.id.gid ≠ 0 ∧ numberedB (lateAll guessed) = true ∧ (lateAll guessed).cur.lanes = 32
    ∧ (∀ L, L ∈ (lateAll guessed).cur.activeLanes l0 → ((lateAll guessed).cur.vreg 4 L).tint = true
      ∧ there ((lateAll guessed).recordOf guessed.cur.id 4 L) (fun x => x.2.1.late && x.2.1.bad.isNone) = true)
    ∧ cleanB (lateAll guessed) l0 (.base 2) = true
    ∧ there gdemS.loads.getLast? (fun ld => decide (ld.kind = .gdem) && decide (ld.team = gdemS.cur.id) && decide (gdemS.cur.id.gid ≠ 0) && !ld.written
      && !ld.redirected && decide (ld.keep = []) && ld.lanes.all (fun l => decide (l.st = .exact) && l.bad.isNone && decide (l.lane < 1024)
        && there l.gd fun x => decide (x.got.length = 1)) && decide (ld.lanes.map LoadLane.lane).Nodup && decide (ld.lanes.length = 32)) = true := by
  decide +kernel
/-- A guard that is false, one that is tinted, control tint in the mask. -/
theorem wit_TeamGuards : beyondRegisters (.fence ⟨g0, true, true, .core⟩) = none ∧ beyondRegisters (.bkpt ⟨⟨true, none⟩, 1⟩) = some ⟨true, none⟩
    ∧ (base.cur.tguard ⟨true, none⟩).val = false ∧ (base.cur.tguard ⟨true, none⟩).tint = false
    ∧ ((setQ 0 { val := false, tint := true } base).cur.tguard ⟨false, some 0⟩).tint = true
    ∧ ({ base with cur := { base.cur with ctl := 1 } } : State).cur.ctlMask = true := by decide +kernel
/-- The shape word of TMOV for 2 rows of 8 bytes, 16 bytes apart at both sides (R170). -/
def shape2 : Nat := 2 * 2 ^ 45 + 2 * 2 ^ 26 + 2 * 2 ^ 13 + 1
def tmS : State := sets [(1, 0x100), (2, 0x1000), (3, shape2)] base
def tmA : TmovOps := ⟨g0, .k, .g, none, 2, 1, 2, 3, 0⟩
def tmR : State := after [.tmov tmA] tmS
/-- No outstanding entry of core 0 is free. -/
def full64 (s : State) : State := s.modCore 0 fun c => { c with out := (List.range 64).map fun i => { kid := 100 + i, count := 1 } }
/-- A prefetch whose lanes translate, in a drill and outside one; a TMOV of 2 rows with room and without, and one of no bytes; one past its limit; a prefetch past its limit; a line that is leased. -/
theorem wit_PrefetchAndTiles :
    (s2.cur.activeLanes l0).length = 32 ∧ fine (s2.checkLane .g needR 4 (s2.cur.memAddr (.base 2) 31).1) (fun _ => true) = true
    ∧ s2.cur.sys.gdrill = false ∧ (modCur (fun t => { t with sys := { t.sys with gdrill := true } }) s2).cur.sys.gdrill = true
    ∧ (tmS.cur.tguard g0).val = true ∧ (tmS.cur.tguard g0).tint = false ∧ tmS.cur.ctlMask = false
    ∧ ([1, 2, 3].all fun r => !(tmS.cur.sreg r).tint) = true ∧ (tmS.cur.sval 1).toNat % 8 = 0 ∧ (tmS.cur.sval 2).toNat % 8 = 0
    ∧ fine (tmS.rectRuns .g needR 0x1000 (tileShape (tmS.cur.sval 3)).sstride (tileShape (tmS.cur.sval 3)).len 2) (fun l => decide (l.length = 2)) = true
    ∧ fine (tmS.rectRuns .k needW 0x100 (tileShape (tmS.cur.sval 3)).dstride (tileShape (tmS.cur.sval 3)).len 2)
      (fun l => l.all fun r => r.all fun x => !tmS.placeGuarded x.1 x.2) = true
    ∧ fine (tmS.copyBar none 0) (fun b => b.1.isNone) = true ∧ tmS.accepts = true ∧ (full64 tmS).accepts = false
    ∧ (tileShape ((sets [(3, 0)] tmS).cur.sval 3)).len = 0
    ∧ there ((late 100000 tmR).eng? 10) (fun e => decide (e.kind = .tmov) && decide (e.limit ≠ 0) && decide (limitEnd e.issued e.limit < 100000)) = true
    ∧ (let s := late 100000 (after [.pref ⟨l0, .g, .w32, true, 1, .base 2⟩] s2)
       (s.eng? 10).isNone = true ∧ there (s.load? 10) (fun ld => decide (ld.kind = .pref) && decide (ld.limit ≠ 0) && decide (limitEnd ld.issued ld.limit < s.clk)) = true)
    ∧ 5 ∈ ((base.modCore 0 fun c => { c with lease := [5] }).coreAt 0).lease := by decide +kernel
def gmod (f : Group → Group) (s : State) : State := s.modGroup 1 f
def iaTile (d : Nat) (s : State) : State := gmod (fun g => { g with tileIa := g.tileIa.set false d true }) s
/-- A tensor layout record at handle 2: bf16, rank 2, 4 × 1 elements, base 0x2000, unsharded (R174). -/
def tensor (s : State) : State :=
  stored [(0x4010200, 0x8000000700000000 + 0x4C000000), (0x4010208, 0x2000), (0x4010228, 0x100000004), (0x4010230, 0x100000001), (0x4010238, 0x100000001),
    (0x4010240, 1), (0x4010248, 4)] s
def tnS : State := sets [(1, 2), (7, 0)] (tensor base)
/-- A weight image of bf16 and K = 64 with no stored element at offset 0, of its header alone (R184). -/
def image (s : State) : State :=
  gmod (fun g => { g with wbuf := ([0x0C, 1, 0, 0, 16, 0, 0, 0, 0, 0, 0, 0, 0, 0, 0, 0] : List Byte).zipIdx.map fun p => (p.2, some p.1) }) s
/-- What makes a window's bytes readable: each is a constant or lies at a page that may be read. -/
def winFine (s : State) (w : WinByte) : Bool := match w with | .fixed _ => true | .at_ va _ => fine (s.locate .g needR va 1) fun _ => true
theorem winLanes_ok (s : State) : ∀ (ws : List WinByte) (n : Nat), ws.all (winFine s) = true → ∃ ls, s.winLanes ws n = .ok ls
  | [], _, _ => ⟨[], rfl⟩
  | .fixed x :: ws, n, h => by
    obtain ⟨ls, h'⟩ := winLanes_ok s ws (n + 1) (by simpa [winFine] using h)
    exact ⟨_, by simp [State.winLanes, h']; rfl⟩
  | .at_ va p :: ws, n, h => by
    simp only [List.all_cons, Bool.and_eq_true] at h
    obtain ⟨ls, h'⟩ := winLanes_ok s ws (n + 1) h.2
    have h1 := h.1
    simp only [winFine, fine] at h1
    split at h1
    · next x hx => exact ⟨_, by simp [State.winLanes, h', hx]; rfl⟩
    · cases h1
/-- Tiles of both formats, a record and a window that lies outside its extents but for one element, a whole tile, ranges of the region up to its end. -/
theorem wit_MatrixInstructions : (base.cur.tguard g0).val = true ∧ (base.cur.tguard g0).tint = false ∧ base.cur.ctlMask = false ∧ (base.cur.sreg 7).tint = false
    ∧ base.wCheck (base.cur.sval 7).toNat 16 = none ∧ base.tileIa 1 0 = false ∧ (iaTile 3 base).tileIa 1 3 = true
    ∧ there base.myGroup (fun x => decide ((base.cur.sval 7).toNat + 64 * 64 ≤ base.spaceSize x .k)) = true
    ∧ fine (tnS.tlr 2) (fun r => decide (r.fmt = some .bf16) && decide (2 ≤ r.rank) && there (r.meshRank tnS.rank) fun m =>
        (winBytes r m .bf16 64 3 0).all (winFine tnS)) = true
    ∧ 128 * 32 = 4096 ∧ (base.cur.matLanes g0).length = 32
    ∧ base.wCheck 0 4096 = none ∧ base.wCheck 8 4088 = none
    ∧ fine (s2.locateRange .g needW 0x1000 (pagesIn 4096) 4096) (fun r => decide (r = [(.phys 0x4001000, 4096)])) = true
    ∧ fine (s2.locateRange .g needR 0x1000 (pagesIn 16) 16) (fun r => decide (r = [(.phys 0x4001000, 16)])) = true
    ∧ (let s := stored [(0x4001000, 0x100000010C)] base
       s.poisoned 0x4001000 16 = false ∧ there (imgHdr (s.physWord 0x4001000).toNat (s.physWord 0x4001008).toNat) (fun h =>
         decide (s.wCheck 0 h.len = none) && fine (s.locateRange .g needR 0x1000 (pagesIn h.len) h.len) fun _ => true) = true) := by decide +kernel
def part0 (t : Nat) : MatPart :=
  { team := { gid := 1, idx := t }, seq := 0, pc := 0, num := 1, d := 0, frag := List.replicate 4096 0, win := none, tint := false, skip := false, blind := false }
def ganged (l : Option Latch) : State :=
  gmod (fun g => { g with latch := l }) { base with cur := { base.cur with gang := 0b11 } }
def latch1 : Latch := { mask := 0b11, fa := .bf16, fb := .bf16, shape := .k64, sb := some 0, handle := false, since := 0, arrived := [part0 1] }
/-- A first arrival, a last one, and a latch whose bound has passed. -/
theorem wit_Rendezvous : (base.cur.tguard g0).val = true ∧ (ganged none).cur.gang ≠ 0 ∧ ((ganged none).cur.sreg 7).tint = false
    ∧ (ganged none).wCheck ((ganged none).cur.sval 7).toNat 16 = none ∧ (ganged none).tileIa 1 0 = false
    ∧ there (ganged none).myGroup (fun x => x.latch.isNone) = true
    ∧ ((List.range 16).any fun i => decide (i ≠ (ganged none).cur.id.idx) && (ganged none).cur.gang.getLsbD i) = true
    ∧ there ((ganged (some latch1)).group? 1) (fun x => there x.latch fun l => l.mask == (ganged (some latch1)).cur.gang && l.fa == .bf16 && l.shape == .k64
        && l.sb == some ((ganged (some latch1)).cur.sval 7) && l.arrived.all (fun q => decide (q.team.idx ≠ 0))
        && (List.range 16).all (fun i => !(ganged (some latch1)).cur.gang.getLsbD i || i == 0 || l.arrived.any fun q => q.team.idx == i)
        && decide (l.since + 65536 < (late 65537 (ganged (some latch1))).clk)) = true := by decide +kernel
/-- A matrix instruction in the queue of core 0. -/
def job (k : MatKind) (started : Option Nat) (s : State) : State :=
  { s with clk := 100000, mats := [{ key := 9, team := { gid := 1, idx := 0 }, seq := 0, pc := 0, core := 0, num := some 1, fences := [], kind := k, started }] }
def heads (s : State) (p : MatJob → Bool) : Bool := there (s.matHead 0) p
def ldwS : State := after ((List.range 2).map fun L => .exactAnswerArrival 10 L zeroReply) (after [.mldwRaw ⟨g0, 2, 7, 8⟩] (sets [(8, 16)] s2))
/-- Heads of the queue that start: with a valid image, with a save, with an invalid image; heads that are done, one for each effect. -/
theorem wit_MatrixEngine :
    heads (job (.mma .bf16 .bf16 64 0 [part0 0]) none (image base)) (fun j => j.started.isNone && decide (j.kind.loads = [])) = true
    ∧ (image base).imgOk 1 0 64 .bf16 = true ∧ (image base).imgOk 1 0 64 .i8 = false
    ∧ heads (job (.save 0 16 0x1000 [(.phys 0x4001000, 16)] none) none base) (fun j => j.started.isNone) = true
    ∧ there (base.group? 1) (fun x => x.state.live) = true
    ∧ ([MatKind.zero 7 true false, .mark 0, .wra 0 false [(0, 1), (4095, 2)] false true, .status 3 [(0, false), (31, true)]].all fun k =>
        heads (job k (some 0) base) fun j => decide (0 + j.kind.occupancy ≤ 100000)) = true
    ∧ heads (job (.mma .bf16 .bf16 64 0 [part0 0]) (some 0) (image base)) (fun j => decide (0 + j.kind.occupancy ≤ 100000)) = true
    ∧ there ((image base).group? 1) (fun x => there (x.image 4096 0) fun p => decide (p.2.length = 64)) = true
    ∧ heads (job (.trn 64 0 (part0 0) none) (some 0) (image base)) (fun j => decide (0 + j.kind.occupancy ≤ 100000)) = true
    ∧ heads ldwS (fun j => decide (j.kind = .ldw 0 16 (some 10))) = true
    ∧ there (ldwS.load? 10) (fun ld => ld.lanes.all (fun l => l.bad.isNone && l.performed) && decide (ld.lanes.length = 2)) = true := by decide +kernel
/-- A valid object with 2 arrivals at .k offset 256, one of the two applied; s1 names it. -/
def obK : ObjSpace := ⟨.k, .team⟩
def barS (n : Nat) : State := after [.binit ⟨g0, obK, 1, .imm (BitVec.ofNat 11 n)⟩] (sets [(1, 256)] base)
def barIs (s : State) (p : BarObj → Bool) : Bool := there (s.bar? (.scratch 1 .k 256)) p
def waitS : State := after [.bwait ⟨g0, obK, some 1, 1, 5⟩] (barS 1)
def inWait (a : Option (Option Nat)) (n : Nat) (s : State) : State :=
  { s with cur := { s.cur with wait := s.cur.wait.map fun w => { w with answer := a, count := n } } }
/-- Objects to create, with arrivals to come, at their last arrival, with phases equal and different; blocked teams with both answers;
an object to bind, a byte count and a comparison that came true. -/
theorem wit_Barriers : (barS 2).cur.ctlMask = false ∧ ((barS 2).cur.sreg 1).tint = false ∧ (barS 2).tintAny = false
    ∧ fine ((barS 2).objAt obK 256) (fun l => decide (l = .scratch 1 .k 256)) = true
    ∧ base.bar? (.scratch 1 .k 256) = none ∧ there ((sets [(1, 256)] base).group? 1) (fun x => decide (x.held = [])) = true
    ∧ (barS 2).barExpected (.scratch 1 .k 256) = false ∧ base.gRoom .g = true
    ∧ barIs (barS 2) (fun b => !b.fl && decide (1 < b.pend) && decide (b.gen = 0) && !b.w) = true
    ∧ relDone (barS 2) (barS 2).cur.id (barS 2).cur.seq (some (objScope obK)) = true
    ∧ ((sets [(5, 2 ^ 31 - 1)] (barS 2)).cur.sval 5).toNat < 2 ^ 32
    ∧ barIs (barS 1) (fun b => !b.fl && decide (b.pend = 1) && decide (b.inb = 0) && decide (b.outb = 0) && decide (b.bk = 0)) = true
    ∧ there waitS.cur.wait (fun w => decide (w.q = some 1)) = true ∧ waitS.cur.state = .blocked
    ∧ there (inWait (some none) 3 waitS).cur.wait (fun w => decide (w.answer = some none) && decide (w.idx + 1 < w.count)) = true
    ∧ there (inWait (some none) 2 waitS).cur.wait (fun w => decide (w.answer = some none) && decide (w.count ≤ w.idx + 1)) = true
    ∧ there (inWait (some (some 0x2F)) 2 waitS).cur.wait (fun w => decide (w.answer = some (some 0x2F))) = true
    ∧ (let s := sets [(2, 2 ^ 63), (3, 5)] (barS 2)
       fine (s.bindCond .k .tl (s.cur.sval 2) (s.cur.sval 3)) (fun c => !s.condDue c && !s.condHolds c && there (s.bindRoom (.scratch 1 .k 256) c) fun _ => true)
         = true ∧ s.binds = [] ∧ s.gRoom .k = true ∧ s.bindHeld s.nextKey = false)
    ∧ (let c : BarCount := { key := 5, op := 4, obj := .scratch 1 .k 256, va := 256, out := false, n := 2 ^ 31 - 1, ctx := 0, core := 0, hdr := ReqHdr.nobody, held := false }
       let s : State := { barS 2 with counts := [c] }
       there (s.counts.find? fun x => x.key == 5) (fun x => decide (x = c)) = true ∧ (0 : Int) ≤ 0 - (2 ^ 31 - 1) + 2 ^ 31)
    ∧ (let s : State := after [.bbind ⟨g0, obK, .tl, 1, 2, 3⟩] (sets [(2, 2 ^ 63), (3, 5)] (barS 2))
       barIs s (fun b => !b.fl && decide (b.bk ≠ 0) && decide (b.pend ≠ 0)) = true
         ∧ (s.binds.map fun b => { b with fired := true }).length = 1) := by decide +kernel
/-- s9, s17 and s18: 16 bytes from .k offset 256 to virtual 0x3000. -/
def cpS : State := sets [(9, 0x3000), (17, 256), (18, 16)] base
def cpR : State := after [.cpy ⟨g0, .g, .g, none, false, 15, 9, 19, 18, 0⟩] (sets [(19, 0x1000)] cpS)
/-- CPYT of the one row of the record of handle 2: s20 the scratchpad address, s21 to s23 the descriptor. -/
def ctS : State := sets [(20, 64), (21, 2), (22, 0), (23, 4 + 2 ^ 16 + 8 * 2 ^ 32)] (tensor base)
def ctR (i : Instr) : State := after [i] ctS
/-- A place of this package that takes an engine's bytes. -/
def takesB (s : State) (p : Place) (n : Nat) : Bool := !s.rejects p n && (s.frozen p).isNone && match p with
  | .phys _ => true
  | .scratch gid sp _ => sp != .g && (s.group? gid).isSome
  | _ => false
def hereB (p : Place) : Bool := !p.isPeer && p != .nowhere
/-- Operations of the block engine by their units: those not done, each with what it needs. -/
def unitsOk (s : State) (q : EngOp → EngUnit → Bool) : Bool :=
  s.engs != [] && s.engs.all fun e => e.accepted && e.bar.isNone && e.map.isNone && e.units != [] && e.units.all fun u => !u.done && takesB s u.dst u.bytes && q e u
def ldT : State := ctR (.cpytLd ⟨g0, .k, false, none, false, 20, 21, 0, 0⟩)
def stT : State := ctR (.cpytSt ⟨g0, .k, false, none, false, 20, 21, 0, 0⟩)
/-- The row after the record's one. -/
def outT : State := after [.cpytLd ⟨g0, .k, false, none, false, 20, 21, 0, 0⟩] (sets [(22, 2 ^ 32)] ctS)
/-- The same with a chunk map at scratchpad offset 0. -/
def mapT : State := after [.cpytLd ⟨g0, .k, true, none, false, 20, 21, 0, 7⟩] (sets [(7, 0)] ctS)
/-- The state after the reads of an operation's four units. -/
def readAll (s : State) : State := after ((List.range 4).map fun i => .blockTransferBytes ⟨10, false⟩ i) s
/-- A unit that is read and may be written. -/
def landsB (s : State) (e : EngOp) (u : EngUnit) : Bool := u.got && !u.bad && decide (u.data.length = u.bytes) && s.engWriteOk e u.dst u.bytes
/-- A CPY that is accepted; a CPYT of four elements; an engine word, a unit and a tile row that are read and written; an operation whose bytes are all written. -/
theorem wit_Copies : cpS.cur.ctlMask = false ∧ fine (cpS.copyRange .k needR 256 16) (fun _ => true) = true
    ∧ fine (cpS.copyRange .g needW 0x3000 16) (fun r => decide (r = [(.phys 0x4003000, 16)])) = true ∧ (cpS.chanOps 0 0).length < 16
    ∧ cpS.accepts = true ∧ (full64 cpS).accepts = false
    ∧ (let n := 2 ^ 24; n ≤ 2 ^ 24 ∧ n % 8 = 0)
    ∧ fine (ctS.cpytTlr 2 0 0 4 1) (fun r => decide (r.2.2 = 16) && decide (ctS.firstFail needR (winPieces r.1 r.2.1 16 0 0 4 1 8) = none)
        && fine (ctS.pieceSides needR .k 1 64 true (winPieces r.1 r.2.1 16 0 0 4 1 8)) fun us => decide (us.length = 4)) = true
    ∧ fine (ctS.copyRange .k needW 64 8) (fun _ => true) = true ∧ ctS.placeGuarded (.scratch 1 .k 64) 8 = false
    ∧ there (cpR.eng? 10) (fun e => decide (e.kind = .cpy 15) && decide (e.fetched < e.total) && e.bar.isNone
        && decide (((cpR.chanOps e.core 15).find? fun x => decide (x.fetched < x.total)) = some e) && decide (runPlace e.src 0 = .phys 0x4001000)
        && cpR.engReadOk e (.phys 0x4001000) 8 && cpR.engRoom (runPlace e.dst 0) (8 * e.flight.length + 8) && (cpR.chanOps e.core 15).all (·.flying == [])) = true
    ∧ unitsOk ldT (fun e u => decide (e.kind = .cpytLd) && !u.got && ldT.engReadOk e u.src u.bytes && (decide (u.mask = 0) || hereB u.src)) = true
    ∧ ldT.engs.any (fun e => e.units.any fun u => u.mask != 0) = true ∧ unitsOk outT (fun e u => decide (e.kind = .cpytLd) && decide (u.mask = 0) && !u.got && outT.engReadOk e u.src u.bytes) = true
    ∧ unitsOk stT (fun e u => decide (e.kind = .cpytSt) && !u.got && e.map.isNone && stT.engReadOk e u.src u.bytes && (decide (u.mask = 0) || hereB u.src)) = true
    ∧ (unitsOk tmR (fun e u => decide (e.kind = .tmov) && !u.got && tmR.engReadOk e u.src u.bytes && hereB u.src) = true
        ∧ unitsOk (readAll tmR) (fun e u => landsB (readAll tmR) e u && decide (e.kind = .tmov) && e.map.isNone) = true
        ∧ (readAll tmR).engs.all (fun e => (List.range e.units.length).all fun i => there e.units[i]? (e.unitFree i)) = true)
    ∧ unitsOk (readAll ldT) (landsB (readAll ldT)) = true ∧ unitsOk (readAll stT) (fun e u => landsB (readAll stT) e u && decide (u.mask < 2 ^ (8 * u.bytes))) = true
    ∧ (let s := after [.blockTransferBytes ⟨10, true⟩ 0, .blockTransferBytes ⟨10, true⟩ 1, .blockTransferBytes ⟨10, true⟩ 2] (readAll mapT)
       there (s.eng? 10) (fun e => decide (e.kind = .cpytLd) && decide (e.map = some 0) && there e.units[3]? fun u => decide (u.chunk = some 0) && landsB s e u
        && e.units.all fun v => v == u || v.done) = true ∧ (s.group? 1).isSome = true)
    ∧ (let s := after [.copyChannelWord ⟨10, false⟩] cpR
       there (s.eng? 10) (fun e => decide (e.kind = .cpy 15) && decide (e.flight.map (fun x => (x.1.length, x.2)) = [(8, false)]) && decide (e.flying = [.phys 0x4003000])
        && s.engWriteOk e (.phys 0x4003000) 8 && takesB s (.phys 0x4003000) 8 && decide (((s.chanOps e.core 15).find? fun x => !x.flight.isEmpty) = some e)) = true)
    ∧ (let s := after [.copyChannelWord ⟨10, false⟩, .copyChannelWord ⟨10, true⟩, .copyChannelWord ⟨10, false⟩, .copyChannelWord ⟨10, true⟩] cpR
       there (s.eng? 10) (fun e => decide (e.landed = e.total) && decide (e.fetched = e.total) && decide (e.num = 1)) = true ∧ s.counts = []
         ∧ there (s.group? 1) (fun x => decide ((x.tline 15).value + 1 = 1) && decide ((x.tline 15).done = [])) = true) := by decide +kernel
/-- A chunk map, a copy that is complete, one that is under way and one to come; timelines of an engine and of memory; a fence that is done and one that waits. -/
theorem wit_TimelinesAndFences : (base.cur.tguard g0).val = true ∧ (base.cur.sreg 1).tint = false
    ∧ there base.myGroup (fun x => decide (4080 + 16 ≤ base.spaceSize x .k)) = true ∧ base.earlierHit base.cur.id base.cur.seq (.scratch 1 .k 4080) 16 = false
    ∧ (cpR.tline 1 15).value < 1 ∧ there (cpR.engs.find? fun e => e.team.gid == 1 && e.kind == .cpy 15 && e.accepted && e.num == 1) (fun _ => true) = true
    ∧ (sets [(1, 2 ^ 63 + 21)] base).cur.sval 1 = BitVec.ofNat 64 (2 ^ 63 + 21)
    ∧ fine (s2.locateRange .g needR 0x1000 (pagesIn 8) 8) (fun r => decide (r = [(.phys 0x4001000, 8)])) = true ∧ s2.poisoned 0x4001000 8 = false
    ∧ fine (s2.locate .g needW 0x1000 8) (fun _ => true) = true ∧ base.tintAny = false
    ∧ base.fenceDone base.cur.id base.cur.seq .pod = true
    ∧ (let s := after [.st ⟨l0, .g, .w32, true, false, .team, .base 2, 4⟩] s2
       s.fenceDone s.cur.id s.cur.seq .pkg = false ∧ s.tintAny = false ∧ s.loads = []) := by decide +kernel
/-- A combiner page at virtual 0x14000000, a descriptor of an object of 4096 bytes there at 0x1000, its record at 0x2000 (R333, R337). -/
def coS (gwin : Nat) : State :=
  sets [(1, 0x1000), (2, 0x14000000)]
    (stored [(0x200028, leaf 0 0 6 0x14000000 + BitVec.ofNat 64 (2 ^ 56)), (0x4001000, 0x14000000), (0x4001008, 0x4000000),
      (0x4001010, BitVec.ofNat 64 (4096 + gwin * 2 ^ 32)), (0x4001018, 0x2000)] base)
def cregOf (n : Fin 4) (a : Fin 64) : CregOps := ⟨g0, n, a⟩
def descOf (s : State) : RegDesc := regDesc ((List.range 8).map fun i => (s.physWord (0x4001000 + 8 * i)).toNat)
def coR : State := after [.creg (cregOf 1 1)] (coS 255)
def goesB (s : State) : Bool := (s.cur.tguard g0).val && !(s.cur.tguard g0).tint && !s.cur.ctlMask
def quietB (s : State) : Bool := decide (s.loads = []) && decide (s.posts = []) && decide (s.mats = []) && decide (s.engs = []) && decide (s.cur.fences = [])
  && decide (s.early = []) && decide (s.hbms = [])
def asMethod (s : State) : State :=
  let m : MethodCtx :=
    { msu := 8, reg := 11, ctx := 0, base := 0x14000000, size := 4096, phys := 0x14000000, stores := [], replies := [], failed := none }
  { s with cur := { s.cur with method := some m } }
/-- One registration of another state. -/
def regIn (st : RegState) (s : State) : State := { s with combRegs := s.combRegs.map fun r => { r with state := st } }
/-- TLBs that hold nothing hold nothing wrong. -/
theorem tlbs_none (s : State) (h : s.cores = [] ∧ s.quads = [] ∧ s.dies = []) : s.tlbsTrue := by
  intro tlb ht e he
  have : tlb = [] := by rcases ht with ⟨_, rfl⟩ | ⟨_, rfl⟩ | ⟨_, rfl⟩ <;> simp [State.coreAt, State.quadAt, State.dieAt, h] <;> rfl
  simp [this] at he
def bareB (s : State) : Bool := s.cores == [] && s.quads == [] && s.dies == []
/-- A descriptor that holds, one whose size is 0 and so refused; a registration to be freed in each state; a method whose team may reply. -/
theorem wit_CombinerRegistration : goesB (coS 255) = true ∧ quietB (coS 255) = true 
    ∧ fine ((coS 255).locateRange .g needR 0x1000 (pagesIn 64) 64) (fun r => decide (r = [(.phys 0x4001000, 64)])) = true ∧ (coS 255).poisoned 0x4001000 64 = false
    ∧ (descOf (coS 255)).base = 0x14000000 ∧ (descOf (coS 255)).size = 4096 ∧ (descOf (coS 255)).record = 0x2000
    ∧ fine ((coS 255).locateRange .g needRW 0x14000000 (pagesIn 4096) 4096) (fun r => decide (runPlace r 0 = .phys 0x14000000)) = true
    ∧ bareB (coS 255) = true ∧ (coS 255).cur.ctlAny = false ∧ (coS 255).loads = [] ∧ 0x4002000 + 64 ≤ 0x14000000
    ∧ fine ((coS 255).locateRange .g needX 0x4000000 (pagesIn 8) 8) (fun _ => true) = true
    ∧ fine ((coS 255).locateRange .g needW 0x2000 (pagesIn 64) 64) (fun r => decide (r = [(.phys 0x4002000, 64)])) = true
    ∧ (coS 255).rejects (.phys 0x4002000) 64 = false
    ∧ (coS 255).regWhy (descOf (coS 255)) 0x14000000 ((coS 255).coMsu 0x14000000) = 0
    ∧ (let s := stored [(0x4001010, 0)] (coS 0); s.regWhy (descOf s) 0x14000000 (s.coMsu 0x14000000) = 1)
    ∧ fine (coR.locate .g needW 0x14000000 1) (fun _ => true) = true ∧ (coS 0).combRegs = []
    ∧ there (coR.combRegs.find? fun r => r.ctx == 0 && r.base == 0x14000000 && r.state != .draining)
      (fun r => decide (r.state = .live) && !coR.regBusy r && decide (coR.combRegs = [r])) = true
    ∧ (regIn .broken coR).combRegs.map CombReg.state = [.broken]
    ∧ base.cur.method = none ∧ (asMethod base).cur.method.isSome = true := by decide +kernel
/-- The address of each lane is the object's base. -/
def cmS : State := after [.comb ⟨l0, 1, 4, .base 2, 6⟩] (after [.creg (cregOf 1 1)] (coS 255))
def answeredComb (s : State) : State :=
  { s with combs := s.combs.map fun c => { c with replies := c.lanes.map fun L => (L, (5, false)) } }
/-- The first packet of the COMB has reached its home, and the collection window has passed. -/
def queuedS : State := late 100000 (after [.combinerRequestArrival 13] cmS)
def skeinS : State := after [.skeinForm 8] queuedS
/-- Lanes at an object; replies that are complete; packets that may arrive, to an object and to none; a skein to form; a write that falls on an object. -/
theorem wit_CombinerRequests : (let s := coR
      cleanB s l0 (.base 2) = true ∧ ((s.cur.activeLanes l0).all fun L => fine (s.combLane (s.cur.memAddr (.base 2) L).1) (fun p => p == .phys 0x14000000)) = true
        ∧ s.cur.activeLanes l0 ≠ [] ∧ (setP 0 [] false { s with cur := { s.cur with mask := 0 } }).cur.activeLanes l0 = [])
    ∧ ((answeredComb cmS).combs.all fun c => decide (c.team = (answeredComb cmS).cur.id) && !c.redirected && decide c.lanes.Nodup
        && c.lanes.all fun L => decide (L < 1024) && c.replies.any fun p => p.1 == L) = true ∧ cmS.combs.length = 1
    ∧ (cmS.combPackets.all fun p => decide (p.reqs.length = 32) && decide ((cmS.msuAt p.msu).queue.length + p.reqs.length ≤ 256)
        && relDone cmS p.team p.seq (some .pkg) && !cmS.acqHold p.team p.seq && p.reqs.all fun q => cmS.combRegs.any fun r => r.ctx == q.ctx
          && decide (r.state = .live) && decide (r.base ≤ q.va) && decide (q.va < r.base + r.size)) = true ∧ cmS.combPackets.map CombPacket.key = [13]
    ∧ (let s : State := { cmS with combRegs := [], combPackets := cmS.combPackets.map fun p => { p with reqs := p.reqs.take 1 } }
       s.combPackets.all (fun p => decide (p.reqs.length = 1)) = true ∧ s.combPackets ≠ [])
    ∧ (queuedS.msuAt 8).skein = none ∧ ((queuedS.msuAt 8).queue.length = 32)
    ∧ there ((queuedS.msuAt 8).queue.find? fun q => queuedS.combRegs.any fun r => r.key == q.reg && queuedS.qualifies r) (fun q => decide (q.reg = 11)) = true
    ∧ (let s := after [.st ⟨l0, .g, .w32, true, false, .team, .base 2, 4⟩] coR
       s.posts.all (fun q => !q.told && q.writes.all fun w => (s.regOver 0x14000000 w.data.length).isSome && decide (w.place = .phys 0x14000000)) = true
        ∧ there s.posts.head? (fun q => there q.writes.head? fun w => !w.done && s.writeOk q 0 w) = true) := by decide +kernel
/-- The method team of the skein, with a reply for each request. -/
def doneS : State :=
  { skeinS with others := skeinS.others.map fun u => if u.id.gid = 0 then { u with state := .exiting } else u }
def failedS : State :=
  { skeinS with others := skeinS.others.map fun u =>
      { u with method := u.method.map fun m => { m with failed := some { cause := 0x4A, pc := 0x4000008, lane := 3 } } } }
/-- A method that has returned, one that has failed, one whose time has passed. -/
theorem wit_CombinerMethods : there (doneS.msuAt 8).skein (fun k => decide (k.reqs.map fun q => (q.comb, q.lane)).Nodup && decide (k.reqs.length = 32)
      && decide (k.reg = 11)) = true
    ∧ there (doneS.team? { gid := 0, idx := 8 }) (fun u => decide (u.state = .exiting) && there u.method fun m => m.failed.isNone && SMap.wf none m.stores
      && doneS.combRegs.all fun r => decide (r.record = .phys 0x4002000) && decide (0x4002000 + 64 ≤ m.phys)) = true
    ∧ there (failedS.team? { gid := 0, idx := 8 }) (fun u => there u.method fun m => there m.failed fun f => decide (f.cause = 0x4A)) = true
    ∧ (failedS.msuAt 8).queue = []
    ∧ there (failedS.combRegs.find? fun x => x.key == 11) (fun r => decide (r.state = .live)) = true
    ∧ there ((late 524288 skeinS).msuAt 8).skein (fun k => decide (k.start + 1048576 ≤ 2 * (late 524288 skeinS).clk)) = true := by decide +kernel
/-- s2 names a window of package 1, s1 a local source. -/
def xS : State := sets [(1, 0x1000), (2, 0x8000000), (3, 64)] base
def xPl (_ : Nat) : Place := .peer 1 0xC000000
def sendOps : XsendOps := ⟨g0, false, .auto, false, false, 2, 1, 3, 0⟩
theorem wit_FabricInstructions : cleanB xS l0 (.base 2) = true ∧ reachesB xS l0 .g needR .w32 (.base 2) xPl = true
    ∧ reachesB xS l0 .g needRW .w32 (.base 2) xPl = true ∧ (∀ L, L ∈ xS.cur.activeLanes l0 → (xPl L).isPeer = true) ∧ xS.cur.sys.gdrill = false
    ∧ xS.cur.activeLanes l0 ≠ [] ∧ xS.outOk (xS.coreOf 1) (xS.kidOf xS.cur) = true ∧ goesB xS = true
    ∧ fine (xS.locate .g needRW 0x8000000 8) (fun x => decide (x.place = .peer 1 0xC000000)) = true ∧ ((xS.cur.sval 3).toNat < 2 ^ 32)
    ∧ fine (xS.sendRuns true none 0x1000 (pagesIn 64) 64) (fun r => decide (r = [(.phys 0x4001000, 64)])) = true
    ∧ fine (xS.sendRuns false none 0x8000000 (pagesIn 64) 64) (fun r => decide (r = [(.peer 1 0xC000000, 64)])) = true
    ∧ fine (xS.sendBar sendOps 1) (fun b => b.1.isNone) = true ∧ xS.viaOk .auto 1 = true := by decide +kernel
def portIn (p : Nat) (x : Port) (s : State) : State := s.modPort p fun _ => x
/-- Ports 0, the spare and 6 of a pod of 8; a port in each state that an event starts from, with its tries and its hold. -/
theorem wit_PortsAndRoutes : (base.cabled 0).isSome = true ∧ (base.cabled 6).isSome = true ∧ (base.cabled 15).isSome = true ∧ (base.cabled 7).isSome = false
    ∧ (base.portAt 0).state = .down
    ∧ ([PortState.training, .trained, .degraded, .failed].all fun st => (portIn 0 { Port.init with state := st, lanes := 16 } base).portAt 0
        == { Port.init with state := st, lanes := 16 }) = true
    ∧ (let x := (portIn 0 { Port.init with state := .detoured, tries := 8 } base).portAt 0; x.lanes = 0 ∧ 8 ≤ x.tries)
    ∧ (let s := late 940000000 (portIn 0 { Port.init with state := .detoured, tries := 7 } base)
       (s.portAt 0).tries < 8 ∧ (s.portAt 0).since + 940000000 ≤ s.clk)
    ∧ 7 < base.podSize ∧ 7 ≠ base.rank := by decide +kernel
def peerS : State := { base with peerInc := [(1, some 5)], apertures := [(0, some { rank := 1, lo := 0x4000000, hi := 0x5000000, ctx := 0, write := true })] }
def postedP (a : Nat) : Packet :=
  { src := 1, srcInc := 5, tgt := 0, tgtInc := base.incarnation, ctx := 0, path := 0, offset := 0, relaxed := false, droppable := false, after := [], body := .posted a [1, 2, 3, 4] }
def sendS : State := after [.xsend sendOps] (portIn 0 { Port.init with state := .trained, lanes := 16 } { xS with route := (List.range 7).map fun i => (i + 1, i + 1) })
def sendE (f : EngOp → EngOp) : State := { sendS with engs := sendS.engs.map f }
/-- A rank not known, one known; packets that are stale, allowed and denied; an XSEND in flight, with bytes dropped, with a grant and with a grant whose window has passed. -/
theorem wit_FabricOperations : 6 ≤ peerS.stage ∧ base.peerInc.get none 1 = none ∧ peerS.peerInc.get none 1 = some 5 ∧ (1 : Nat) < base.podSize ∧ (1 : Nat) ≠ base.rank
    ∧ base.fresh (postedP 0x4001000) = false ∧ peerS.fresh (postedP 0x4001000) = true ∧ peerS.packetRoom (postedP 0x4001000) = true
    ∧ (postedP 0x4001000).tgt = peerS.rank ∧ peerS.heldSignals = []
    ∧ peerS.allowed 1 0x4001000 4 true = true ∧ peerS.allowed 1 0x4FFFFFC 4 true = true ∧ peerS.allowed 1 0x4FFFFFE 4 true = false
    ∧ peerS.regOver 0x4001000 4 = none ∧ peerS.guarded 0x4001000 4 = false
    ∧ there (sendS.eng? 10) (fun e => decide (e.kind = .xsend) && decide (0 + 8 ≤ e.total) && !meets 0 8 e.acked && sendS.rangeSent e 0 8 && !meets 0 8 e.dropped
        && sendS.grantOpen e 0 8 && decide (rangeSum e.acked + 8 < e.total) && sendS.rangeSent e 0 64 && decide (rangeSum e.acked + 64 = e.total)) = true
    ∧ (let s := sendE fun e => { e with dropped := [(0, 8)] }
       there (s.eng? 10) (fun e => decide (e.dropped ≠ []) && e.grant.isNone && decide (8 ≤ rangeSum e.dropped)) = true)
    ∧ (let s := late 8192 (sendE fun e => { e with dropped := [(0, 8)], grant := some (0, 8) })
       there (s.eng? 10) (fun e => s.grantOpen e 0 8 && decide (e.grant = some (0, 8)) && decide (0 + 8192 ≤ s.clk)) = true) := by decide +kernel
def sharing (f : Team → Team) (s : State) : State := { s with others := [f { team0 with id := { gid := 1, idx := 1 }, clause := none }] }
/-- Registers of each access code: to be read, read and written, write 1 to clear, and one that is not to be written. -/
theorem wit_SystemRegisters : (base.cur.tguard g0).val = true ∧ ([0, 1, 2, 3, 9, 0x10, 0x11, 0x12, 0x1B].all fun n => sysNum n) = true ∧ sysNum 255 = false
    ∧ sysWr 2 = false ∧ ([0x10, 0x11, 0x12, 0x13, 0x14, 0x15, 0x19, 0x1A, 0x1B].all sysWr) = true ∧ goesB base = true
    ∧ 5 ≤ base.stage ∧ base.myGroup.isSome = true := by decide +kernel
def code : Word := BitVec.ofNat 64 (12 * 2 ^ 60 + 2 ^ 55)
def line (ws : List Nat) : CodeLine :=
  { ctx := 0, line := 0x40000, bytes := ws.flatMap (leBytes 8) ++ List.replicate (256 - 8 * ws.length) 0, filling := false, pins := 0, used := 0, wants := [], by_ := none }
/-- The team before the clause at its pc, whose line its core holds. -/
def atClause (h : Nat) : State := (modCur (fun t => { t with clause := none }) base).modCore 0 fun c => { c with l0 := [line [h, 0]] }
/-- Programs and handlers, a park that is the last of its group's and one that is not, a core with no other team and with one that waits. -/
theorem wit_SystemTransfers : goesB base = true ∧ base.cur.mode = .program ∧ (inMode .user base).cur.mode = .user
    ∧ there ((inMode .user base).group? 1) (fun x => x.state.live) = true
    ∧ (let s := gmod (fun g => { g with state := .saving }) (inMode .system (trapped 0x38 base))
       s.cur.mode = .system ∧ s.cur.fr.cause.toNat % 256 = 0x38 ∧ s.tintAny = false ∧ s.loads = [] ∧ s.combs = [] ∧ s.others = []
        ∧ there (s.group? 1) (fun x => decide (x.state = .saving)) = true)
    ∧ ((sharing id (inMode .system (trapped 0x1A base))).others.any fun u => decide (u.state ≠ .saved) && decide (u.state ≠ .retired)) = true
    ∧ base.yieldTo = none
    ∧ (let s := modCur (fun t => { t with clause := team0.clause }) (sharing (fun u => { u with state := .pending, inSet := false }) (atClause code.toNat))
       goesB s = true ∧ there s.yieldTo (fun n => decide (n.id = { gid := 1, idx := 1 })) = true ∧ s.others.all (fun u => u.id != s.cur.id) = true) := by
  decide +kernel
/-- The clause that core 0 starts at its turn to issue. -/
def startOf (s : State) (q : State → Word → List Word → Bool) : Bool :=
  there ((s.fetchAll 0).arbitrate 0) fun r =>
    let u := r.1.focus r.2
    decide (r.2 = { gid := 1, idx := 0 }) && decide (u.cur.dueFault = none) && match (s.fetchAll 0).fetched u.cur with
      | .words h ws => q u h ws
      | _ => false
def filled (bad : Bool) (who : Option TeamId) : State :=
  let s := base.modQuad 0 fun q => { q with l1 := [{ line [] with filling := true, wants := [(0, who)] }] }
  if bad then s.placePoison (.phys 0x8000000) 32 else s
/-- A clause that passes its checks, one that does not; a team that takes a free position; a line to install and a poisoned one. -/
theorem wit_Clauses :
    clauseFault 0x4000000 code [0] = none ∧ clauseFault 0x4000000 0 [] ≠ none
    ∧ (atClause code.toNat).slotBusy 0 = false ∧ startOf (atClause code.toNat) (fun u h ws => (clauseFault u.cur.pc.toNat h ws).isNone && !u.waits u.cur h
      && decide (u.cur.start < ws.length)) = true
    ∧ startOf (atClause (code.toNat + 1)) (fun u h ws => (clauseFault u.cur.pc.toNat h ws).isSome) = true
    ∧ (let s := modCur (fun t => { t with pc := 0x10000000 }) (atClause code.toNat)
       there ((s.fetchAll 0).arbitrate 0) (fun r => decide ((r.1.focus r.2).cur.dueFault = none) && match (r.1.focus r.2).fetched (r.1.focus r.2).cur with
        | .bad _ => true
        | _ => false) = true)
    ∧ (let s := sharing (fun u => { u with state := .pending, inSet := false }) base
       there ((s.noteReady 0).nextPending 0) (fun n => decide (n.id.idx = 1)) = true
        ∧ ((s.noteReady 0).teams.filter fun t => (s.noteReady 0).onCore 0 t && t.inSet).length < 8)
    ∧ there ((filled false none).l1Line 0 0 0x40000) (fun f => f.filling && decide (f.wants = [(0, none)]) && !(filled false none).fillHeld f 0x8000000
        && ((filled false none).quadAt 0).l1.all fun l => !l.is 0 0x40000 || l == f) = true
    ∧ (filled false none).codePlace (some 0) 0 0x40000 = some 0x8000000 ∧ (filled false none).poisoned 0x8000000 256 = false
    ∧ (let s := filled true (some base.cur.id)
       s.codePlace (some 0) 0 0x40000 = some 0x8000000 ∧ s.poisoned 0x8000000 256 = true ∧ s.leaving s.cur.id = false
        ∧ there (s.l1Line 0 0 0x40000) (fun f => f.filling && decide (f.wants = [(0, some base.cur.id)]) && !s.fillHeld f 0x8000000) = true)
    ∧ (let s := (filled false none).physWrite 0x200008 (leBytes 8 0); s.codePlace (some 0) 0 0x40000 = none) := by decide +kernel
def pinS (n pins : Nat) : State := (sets [(1, 0x4000000), (2, n)] base).modQuad 0 fun q => { q with l1 := [{ line [] with pins := pins }] }
/-- Pinned lines of the set of line 0x40000. -/
def pinSet (n : Nat) : State :=
  (sets [(1, 0x4000000), (2, 1)] base).modQuad 0 fun q => { q with l1 := (List.range n).map fun i => { line [] with line := 0x50000 + 256 * i, pins := 1 } }
/-- Counts of 0, 1, 256 and 257; a line with 0, 1, 14 and 15 pins; one that is absent, one without a page, a set with six pinned lines. -/
theorem wit_CodePins :
    goesB (pinS 1 0) = true ∧ ([1, 2].all fun r => !((pinS 1 0).cur.sreg r).tint) = true ∧ bareB { pinS 1 0 with quads := [] } = true
    ∧ ((pinS 0 0).cur.sval 2).toNat = 0 ∧ ((pinS 256 0).cur.sval 2).toNat = 256 ∧ 256 < ((pinS 257 0).cur.sval 2).toNat
    ∧ (pinS 256 0).lineFail (pinS 256 0).cur 0x40000 256 = none ∧ ((pinS 1 0).lineFail (pinS 1 0).cur 0x200000 1).isSome = true
    ∧ (pinS 1 0).coreOf 1 / 4 = 0 ∧ (pinS 1 0).ctxOf (pinS 1 0).cur = 0
    ∧ fine ((pinS 1 0).codeAt (pinS 1 0).cur 0x4000000) (fun x => decide (x.place = .phys 0x8000000)) = true ∧ (pinS 1 0).l0Line 0 0 0x40000 = none
    ∧ ([0, 1, 14, 15].all fun p => there ((pinS 1 p).l1Line 0 0 0x40000) fun l => !l.filling && decide (l.pins = p)) = true
    ∧ ({ pinS 1 0 with quads := [] } : State).l1Line 0 0 0x40000 = none
    ∧ (((pinSet 6).quadAt 0).l1.filter fun l => l.pins != 0 && l.line % 256 == 0x40000 % 256).length = 6 ∧ (pinSet 6).l1Line 0 0 0x40000 = none := by decide +kernel
def noGroup : State := { base with groups := [], kernels := [{ kernel0 with made := 0 }], cur := Team.idle }
def place0 : Choice := { frames := [], save := 0xC000000, const := 0x40000 }
def retiredAll (s : State) : State := modCur (fun t => { t with state := .retired, clause := none }) s
def killedG (s : State) : State := gmod (fun g => { g with state := .killed }) s
/-- A kernel whose first group fits core 0; a team that has left its program; a group that is done; a killed one with a retry left, and one whose kernel does not run. -/
theorem wit_Groups : 7 ≤ noGroup.stage ∧ noGroup.placeOrder = [{ kernel0 with made := 0 }]
    ∧ (match noGroup.nextGroup { kernel0 with made := 0 } with | some (.inr 0) => true | _ => false) = true
    ∧ noGroup.bestCore lpb0 = some 0 ∧ noGroup.ctx? 0 = some ctx0 ∧ noGroup.groups = []
    ∧ poolPlace ctx0.save ctx0.saveSize (noGroup.areas 0 Group.saveAddr Lpb.saveSize) lpb0.saveSize place0.save ≠ none
    ∧ poolPlace ctx0.const ctx0.constSize (noGroup.areas 0 Group.constAddr Lpb.constSize) lpb0.constSize place0.const = some 0x40000
    ∧ (let s := modCur (fun t => { t with state := .exiting, clause := none }) base
       there (s.group? s.cur.id.gid) (fun g => decide (g.state = .resident)) = true ∧ s.busy s.cur = false ∧ s.cur.sys.gdrop = 0)
    ∧ ((retiredAll base).teams.all fun u => decide (u.state = .retired)) = true ∧ (retiredAll base).kernel? 3 = some kernel0
    ∧ there ((killedG base).group? 1) (fun g => decide (g.state = .killed) && lpb0.idem && decide (g.retry < lpb0.retry)) = true
    ∧ kernel0.state = .running ∧ ctx0.state = .active
    ∧ there (({ base with kernels := [{ kernel0 with state := .erroring }] } : State).kernel? 3) (fun k => decide (k.state ≠ .running)) = true := by
  decide +kernel
def pf : PageFault := { acc := 0, why := 1, va := 0x10000000, maps := 0, posted := false }
def parkS : State :=
  gmod (fun g => { g with state := .saving, cause := .park }) (modCur (fun t => { t with clause := none, parkDue := some 0x38 }) base)
/-- A load of one lane whose value goes to the save area, its team saved. -/
def redirS : State :=
  let s := after [.ld ldOps] (modCur (fun t => { t with mask := 1 }) s2)
  modCur (fun t => { t with state := .saved, inSet := false, clause := none })
    { s with loads := s.loads.map fun ld => { ld with redirected := true, lanes := ld.lanes.map fun l => { l with st := .exact, performed := true, value := 7 } } }
/-- A group at a blocking point and one that runs; a slice that has ended; a page fault; a park to be taken; a parked group that wakes; a redirected value. -/
theorem wit_Parking : (waitS.blockingPoint 1 = true ∧ there (waitS.group? 1) (fun g => decide (g.state = .resident)) = true ∧ waitS.cur.faultPark = none)
    ∧ base.blockingPoint 1 = false
    ∧ (let s := late 940000 base; 0 + s.slice (((s.kernel? 3).map Kernel.prio).getD 0) ≤ s.clk ∧ group0.parkAsked = none)
    ∧ (let s := modCur (fun t => { t with faultPark := some pf, clause := none }) base
       s.cur.faultPark = some pf ∧ pf.posted = false ∧ ctx0.maps = pf.maps ∧ s.notices = [])
    ∧ there (parkS.group? 1) (fun g => decide (g.state = .saving) && decide (g.saveAddr = some 0xC000000)) = true ∧ parkS.enginesDue 1 = false
    ∧ fine (parkS.devPlace 0 0xC000000 needW) (fun a => decide (a = 0x10000000)) = true ∧ parkS.others = [] ∧ parkS.cur.parkDue = some 0x38
    ∧ there (parkS.group? 1) (fun g => decide (parkS.saveFail g needW = none)) = true ∧ parkS.ctx? 0 = some ctx0
    ∧ (let s := gmod (fun g => { g with saveAddr := some 0x20000000 }) parkS
       there (s.group? 1) (fun g => decide (g.state = .saving) && decide (g.saveAddr = some 0x20000000) && (s.saveFail g needW).isSome) = true ∧ s.enginesDue 1 = false
        ∧ s.cur.parkDue = some 0x38)
    ∧ parkS.cur.faultPark = none ∧ parkS.cur.wait = none ∧ parkS.cur.clause = none ∧ parkS.cur.start = 0 ∧ parkS.cur.state = .active ∧ parkS.loads = []
    ∧ SMap.wf SCell.zero parkS.cur.s = true
    ∧ (let s := gmod (fun g => { g with state := .parked, wakes := [.now] }) base
       there (s.group? 1) (fun g => decide (g.state = .parked) && g.wakes.any fun w => s.wakeHolds 1 w) = true)
    ∧ there (redirS.load? 10) (fun ld => ld.redirected && decide (ld.lanes.length = 1) && decide (ld.regs = 1) && ld.lanes.all fun l => decide (l.st = .exact)
        && l.bad.isNone && l.gd.isNone && there (redirS.group? 1) fun g => there (redirS.team? ld.team) fun u => decide (u.state = .saved)
          && there (redirS.saveSlot g u ld.d l.lane) fun p => decide (p.1 % 65536 ≤ 65532)
            && fine (redirS.devPlace 0 p.1 needW) fun pa => fine (redirS.devPlace 0 p.1 needNone) fun pb => decide (pa = pb)
              && fine ((redirS.physWrite pa [7, 0, 0, 0]).devPlace 0 (p.2 % 2 ^ 60) needNone) fun pm => decide (pa + 4 ≤ pm)) = true := by decide +kernel
def movingS : State := gmod (fun g => { g with state := .moving }) { base with reserved := [(0, 8)] }
def restoringS : State := gmod (fun g => { g with state := .restoring, imageLost := true }) (modCur (fun t => { t with state := .saved, clause := none }) base)
/-- A core without groups, a target that is not idle; a group that may migrate; all Moving; a group that restores and one whose image is lost. -/
theorem wit_MigrationAndRestore : base.groupsOf 1 = [] ∧ base.idleCore 0 = false ∧ base.groupsOf 0 = [group0] ∧ group0.state = .resident ∧ lpb0.mig = true
    ∧ base.idleCore 8 = true ∧ base.reserved = [] ∧ there (base.kernel? 3) (fun k => k.lpb.mig) = true ∧ movingS.reserved.find? (fun r => r.1 == 0) = some (0, 8) ∧ movingS.lcoreAt 8 = some 8
    ∧ ((movingS.groupsOf 0).all fun g => decide (g.state = .moving)) = true ∧ (movingS.groupsOf 0).length = 1
    ∧ there (restoringS.group? 1) (fun g => decide (g.state = .restoring) && decide (g.saveAddr = some 0xC000000) && g.imageLost) = true
    ∧ restoringS.cur.state = .saved ∧ restoringS.ctx? 0 = some ctx0
    ∧ (let s := modCur (fun t => { t with state := .exiting }) restoringS; s.busy s.cur = false ∧ s.cur.sys.gdrop = 0 ∧ s.others = []) := by decide +kernel
def kern (f : Kernel → Kernel) (s : State) : State := { s with kernels := s.kernels.map f }
def ctxIn (f : Ctx → Ctx) (s : State) : State := { s with ctxs := s.ctxs.map f }
/-- The LPB of `lpb0`, of one group: word 3 with its classes, word 4 with its scratchpads (R287). -/
def lpbWords : List Nat := [0x4000000, 2 + 2 ^ 32, 1, 2 ^ 29 + 3 * 2 ^ 25 + 2 ^ 24 + 2 ^ 22 + 8 * 2 ^ 17 + 7 * 2 ^ 12 + 2 ^ 8, 16 * 2 ^ 9 + 4]
def lpbBytes : List Byte := lpbWords.flatMap (leBytes 8) ++ List.replicate 88 0
def fresh0 : Kernel := { kernel0 with state := .accepted, raw := some lpbBytes, lpb := lpbOf (wordsOf lpbBytes 16) }
def rep (kind : Nat) : Report :=
  { key := 5, ctx := 0, kind, cause := 0x41, pc := 0x4000008, addr := 0x1000, lanes := 0, kcode := 0, opnd := 0, team := 0, lcore := 0, pcore := 0, kernel := 1,
    group := 0 }
def reported (kind : Nat) (s : State) : State := { s with reports := [rep kind] }
def held (s : State) : State := s.modCore 0 fun c => { c with out := [{ kid := 3, count := 1 }] }
/-- Kernels at each state; entries held and none; a status word and a timeline to be written; reports of both kinds, with 0 and with 62 entries unread. -/
theorem wit_KernelsAndErrors : base.kernel? 3 = some kernel0
    ∧ (kern (fun _ => fresh0) base).lpbValid fresh0 = true ∧ base.lpbValid { fresh0 with raw := none } = false
    ∧ (held base).noneOut 3 = false ∧ base.noneOut 3 = true
    ∧ base.qePlace 0 0x3000 needW = some 0x4003000 ∧ base.rejects (.phys 0x4003000) 8 = false ∧ base.poisoned 0x4003000 8 = false ∧ 0x3000 % 8 = 0
    ∧ ((reported 2 base).reports.find? fun x => x.key == 5) = some (rep 2) ∧ base.ctx? 0 = some ctx0 ∧ base.ctx? 1 = none ∧ ctx0.errAddr % 65536 = 0
    ∧ fatalKind 0x09 = false ∧ fatalKind 2 = true
    ∧ ([0, 62].all fun n =>
        let s := stored [(0x4020000, BitVec.ofNat 64 n)] base
        fine (s.devPlace 0 0x20000 needNone) (fun a => decide (a = 0x4020000)) && fine (s.devPlace 0 0x20010 needNone) (fun a => decide (a = 0x4020010))
          && fine (s.devPlace 0 (0x20000 + 64 * (1 + n % 63)) needNone) (fun b => decide (0x4020000 + 64 ≤ b))
          && decide ((2 ^ 32 + (s.physWord 0x4020000).toNat % 2 ^ 32 - (s.physWord 0x4020010).toNat % 2 ^ 32) % 2 ^ 32 = n)
          && fine ((s.devWrite 0 (0x20000 + 64 * (1 + n % 63)) ((rep 9).words false n |>.flatMap (leBytes 8))).devPlace 0 0x20000 needNone) fun a => decide (a = 0x4020000))
      = true := by decide +kernel
/-- s1 names an LPB, s3 a queue's descriptor and s4 a block of a NOP. -/
def laS : State := sets [(1, 0x1000), (3, 0x2000), (4, 0x3000)] (stored (lpbWords.zipIdx.map fun p => (0x4001000 + 8 * p.2, BitVec.ofNat 64 p.1)) base)
def enqS : State := after [.enq ⟨g0, 3, 4⟩] laS
def swapped (o : Nat) : State := { enqS with appends := enqS.appends.map fun e => { e with old := some o } }
/-- An LPB that is aligned and one that is not, with its earlier accesses performed and with one in flight; a block of a NOP and one of a privileged command, with a free entry and without; an append to be swapped, and its two links. -/
theorem wit_LaunchAndEnqueue :
    goesB laS = true ∧ (sets [(1, 0x1008)] laS).cur.sval 1 = 0x1008 ∧ (laS.cur.sval 1).toNat % 256 = 0
    ∧ laS.ctx? (laS.ctxOf laS.cur) = some ctx0 ∧ laS.launchCheck 0x1000 128 = none ∧ laS.headerDue 0x1000 = false
    ∧ relDone laS laS.cur.id laS.cur.seq (some .pod) = true
    ∧ there (laS.qeRead 0 0x1000 128) (fun h => decide (argqOf (wordsOf h 16) = 0)) = true ∧ (laS.readLpb 0 0x1000).isSome = true
    ∧ laS.launchCheck 0x1080 0 = none ∧ laS.kernelsFull = false ∧ quietB laS = true ∧ bareB laS = true ∧ laS.appends = []
    ∧ (let s := after [.st ⟨l0, .g, .w32, true, false, .team, .base 9, 4⟩] (sets [(9, 0x1800)] laS)
       relDone s s.cur.id s.cur.seq (some .pod) = false ∧ s.headerDue 0x1000 = false ∧ goesB s = true)
    ∧ fine (laS.locateRange .g needR 0x3000 (pagesIn 256) 256) (fun r => decide (r = [(.phys 0x4003000, 256)])) = true ∧ laS.poisoned 0x4003000 256 = false
    ∧ (laS.physWord 0x4003008).toNat % 256 = 0 ∧ ((stored [(0x4003008, 4)] laS).physWord 0x4003008).toNat % 256 = 4
    ∧ fine (laS.locate .g needRW 0x2000 64) (fun _ => true) = true ∧ laS.outOk (laS.coreOf 1) (laS.kidOf laS.cur) = true
    ∧ (full64 laS).outOk (laS.coreOf 1) (laS.kidOf laS.cur) = false
    ∧ (enqS.appends.length = 1 ∧ (enqS.appends.all fun e => e.old.isNone && e.accepted && decide (e.desc = 0x2000) && decide (e.block = 0x3000)
        && relDone enqS e.team e.seq (some .pod)) = true)
    ∧ fine (enqS.devPlace 0 0x2000 needRW) (fun a => decide (a = 0x4002000)) = true ∧ enqS.rejects (.phys 0x4002000) 8 = false
    ∧ ([0x2000, 0x5000].all fun o => (swapped o).appends.all fun e => decide (e.old = some o)) = true
    ∧ fine (enqS.devPlace 0 0x2008 needW) (fun _ => true) = true ∧ fine (enqS.devPlace 0 0x5000 needW) (fun _ => true) = true := by decide +kernel
def queue0 : QueueReg :=
  { desc := 0x2000, prio := 1, privileged := false, state := .empty, cur := 0, block := [], curCmd := none, waiting := none, served := 0 }
/-- A queue in a state, with the words of its descriptor and its block. -/
def qS (q : QueueReg) (l : List (Nat × Word)) : State := ctxIn (fun c => { c with queues := [q] }) (stored l base)
def qOk (s : State) (p : QueueReg → Bool) : Bool := there (s.queue? 0 0) p
def heldQ : QueueReg := { queue0 with state := .held, cur := 0x3000, block := List.replicate 32 0 }
/-- HEAD empty and set; a block that is read, one misaligned, one without a page, one poisoned; a block that is dispatched; a next block, the last and one being appended; restarts. -/
theorem wit_QueueWalk : qOk (qS queue0 []) (fun q => decide (q = queue0)) = true
    ∧ (qS queue0 []).qePlace 0 0x2008 needW = some 0x4002008 ∧ (qS queue0 []).qeWord 0 0x2008 = some 0
    ∧ (qS queue0 [(0x4002008, 0x3000)]).qeWord 0 0x2008 = some 0x3000 ∧ (qS queue0 []).rejects (.phys 0x4002008) 8 = false
    ∧ (let q := { queue0 with state := .fetching, cur := 0x3000 }
       qOk (qS q []) (fun r => decide (r = q)) = true ∧ ((qS q []).qeRead 0 0x3000 256).isSome = true
        ∧ fine ((qS q []).translate ctx0 false needR 0x10000000) (fun _ => true) = false ∧ 0x3010 % 256 ≠ 0
        ∧ ((qS q []).placePoison (.phys 0x4003000) 32).qeRead 0 0x3000 256 = none ∧ (qS q []).qePlace 0 0x2018 needW = some 0x4002018)
    ∧ (qS heldQ []).canDispatch 0 heldQ = true ∧ (qS heldQ []).isTurn heldQ = true
    ∧ (let q := { heldQ with state := .linking, curCmd := some 4 }
       (qS q [(0x4003000, 0x5000)]).qeWord 0 0x3000 = some 0x5000 ∧ (qS q [(0x4002000, 0x3000)]).qeWord 0 0x3000 = some 0
        ∧ (qS q [(0x4002000, 0x3000)]).qeWord 0 0x2000 = some 0x3000 ∧ (qS q [(0x4002000, 0x5000)]).qeWord 0 0x2000 ≠ some q.cur)
    ∧ (let q := { queue0 with state := .stopped }
       (qS q []).qeWord 0 0x2010 = some 0 ∧ (qS q [(0x4002010, 1)]).qeWord 0 0x2010 = some 1) := by decide +kernel
def cmd0 (code w5 w6 : Nat) : Cmd :=
  { key := 4, ctx := 0, desc := 0x2000, block := 0x3000, words := [0, BitVec.ofNat 64 code, 0, 0, 0, BitVec.ofNat 64 w5, BitVec.ofNat 64 w6] ++ List.replicate 25 0,
    status := none, tl := none, started := false, detached := false }
def cS (c : Cmd) (l : List (Nat × Word)) : State := { stored l base with cmds := [c] }
/-- Each command; a timeline that has reached its value and one that has not; a record image that holds and one that does not; a detached block. -/
theorem wit_QueueCommands : ([0, 1, 2, 3, 4].all fun n => decide ((cmd0 n 0x6000 5).code = n) && there ((cS (cmd0 n 0x6000 5) []).cmd? 4) fun c => !c.started && c.status.isNone) = true
    ∧ ctx0.state ≠ .destroying ∧ base.kernelsFull = false
    ∧ ([4, 5].all fun n => let s := cS { cmd0 2 0x6000 5 with tl := some 0x4006000 } [(0x4006000, BitVec.ofNat 64 n)]
        there (s.cmd? 4) (fun c => !c.started && c.status.isNone && decide (c.tl = some 0x4006000)) && !s.poisoned 0x4006000 8
          && decide ((s.physWord 0x4006000).toNat = n)) = true
    ∧ (let s := ctxIn (fun c => { c with queues := [queue0] }) (cS (cmd0 2 0x6000 5) [])
       there (s.cmd? 4) (fun c => decide (c.tl = none) && !c.started) = true ∧ there (s.ctx? 0) (fun c => c.queues.any fun q => q.desc == 0x2000 && q.state != .stopped) = true)
    ∧ (cmd0 2 0x6000 5).word 6 = 5 ∧ (cmd0 3 0x6000 5).word 5 = 0x6000 ∧ base.qePlace 0 0x6000 needW = some 0x4006000 ∧ base.rejects (.phys 0x4006000) 8 = false
    ∧ base.poisoned 0x4006000 8 = false ∧ 0x6004 % 8 ≠ 0 ∧ base.qePlace 0 0x10000000 needW = none
    ∧ ctx0.tableLen = 4 ∧ (cmd0 4 3 0x7000).word 5 = 3 ∧ there (base.qeRead 0 0x7000 256) (fun bs => imageOk ctx0 bs) = true
    ∧ there ((stored [(0x4007000, BitVec.ofNat 64 (2 ^ 63))] base).qeRead 0 0x7000 256) (fun bs => !imageOk ctx0 bs) = true
    ∧ ctx0.table % 65536 = 0 ∧ fine (base.devPlace 0 (ctx0.table + 256 * 3) needNone) (fun _ => true) = true
    ∧ (let c := { cmd0 0 0 0 with status := some (0, 0), detached := true }
       c.word 2 % 2 ^ 57 = 0 ∧ (cS c []).qePlace 0 (0x3000 + 32) needW = some 0x4003020 ∧ (cS c []).rejects (.phys 0x4003020) 8 = false) := by decide +kernel
/-- MAP of one 64 KiB page, of kind 0 with R and W (R325). -/
def mapC (va len : Nat) : Cmd :=
  let c := cmd0 5 va len
  { c with words := c.words.set 7 (BitVec.ofNat 64 (6 * 2 ^ 49)) }
/-- The table of level 3 for virtual 0x18000000 to 0x1C000000 lies at 0x300000. -/
def l3S : State := stored [(0x200030, BitVec.ofNat 64 (2 ^ 63 + 0x300000))] base
def mapIn : State := { l3S with cmds := [mapC 0x18000000 65536] }
def mapS : State := after [.map 4 { frames := [0x20000000], save := 0, const := 0 }] mapIn
def unmapIn (s : State) : State := { s with cmds := [cmd0 6 0x18000000 65536] }
/-- The level-3 entry of an address, behind tables that stand (`State.leads`). -/
def leadsB (s : State) (root va e3 f n : Nat) : Bool :=
  let apart := fun a n b m : Nat => decide (a + n ≤ b) || decide (b + m ≤ a)
  let a1 := root + 8 * bitsAt va 42 15
  fine (s.readPte a1) fun e1 =>
    let a2 := pteNext e1 + 8 * bitsAt va 26 16
    !pteLeaf e1 && tableOk 1 e1 && fine (s.readPte a2) fun e2 =>
      let g := pteNext e2 + 8 * alignDown 32 (bitsAt va 16 10)
      !pteLeaf e2 && tableOk 2 e2 && e3 == pteNext e2 + 8 * bitsAt va 16 10 && !s.poisoned e3 8
        && !(pteV (s.physWord g) && pteLeaf (s.physWord g) && pteSize (s.physWord g) == 1)
        && apart a1 8 e3 8 && apart a2 8 e3 8 && apart a1 32 f n && apart (alignDown 32 a1) 32 f n && apart (alignDown 32 a2) 32 f n && apart a2 32 f n
        && apart (pteNext e2) 8192 f n
def note0 (n : Option Nat) : Notice :=
  { key := 6, nseq := n, ctx := 0, id := 7, region := 0x1000, acc := 0, why := 1, va := 0x10000000, kernel := 1, group := 0, lcore := 0, resolved := false,
    waiters := [1] }
def noteS (n w : Nat) : State := { base with notices := [note0 none], nwseq := w, nrseq := n }
/-- A range that may be mapped and one that may not; one that finds frames and tables that stand; a page to unmap, with a load in flight there and without; a walk that ends at a leaf, with a TLB entry and without, and one that does not; TLBs that hold nothing wrong, and one context; a page over a failed channel and one over sound memory; a notice with room in the ring, and with none. -/
theorem wit_Pages :
    (mapC 0x18000000 65536).word 5 = 0x18000000 ∧ base.mapBad ctx0 0x18000000 65536 (6 * 2 ^ 49) = false ∧ base.mapBad ctx0 0x1000 65536 (6 * 2 ^ 49) = true
    ∧ mapIn.cmd? 4 = some (mapC 0x18000000 65536) ∧ mapIn.ctx? 0 = some ctx0 ∧ (mapC 0x18000000 65536).code = 5
    ∧ (mapPages 0 0x100000 0x18000000 (6 * 2 ^ 49) 0 1 (mapIn, [0x20000000])).isSome = true
    ∧ (mapPages 0 0x100000 0x18000000 (6 * 2 ^ 49) 0 1 ({ base with used := [(0, 0, hbmSize)] }, [])).isNone = true
    ∧ there (takeMem 0 0 hbmSize 65536 (mapIn, [0x20000000])) (fun r => decide (r.2 = 0x20000000)) = true
    ∧ leadsB mapIn 0x100000 0x18000000 0x300000 0x20000000 65536 = true ∧ mapIn.leafOk 3 (BitVec.ofNat 64 (leafBits (6 * 2 ^ 49) + 0x20000000)) = true
    ∧ (let s := unmapIn mapS
       there (s.cmd? 4) (fun c => decide (c.code = 6) && !c.started && c.status.isNone) = true
        ∧ there (s.pagesOf 0x100000 0x18000000 2 65536) (fun ps => decide (ps.length = 1) && !s.accessDue (rangesOf ps)) = true ∧ s.appends = []
        ∧ (ctx0.regions.all fun r => !clashes [r] 0x18000000 65536) = true ∧ s.objectIn 0 0x18000000 (0x18000000 + 65536) = false)
    ∧ (let s := unmapIn (after [.ld ldOps] (sets [(2, 0x18000000)] mapS))
       there (s.pagesOf 0x100000 0x18000000 2 65536) (fun ps => s.accessDue (rangesOf ps)) = true)
    ∧ (base.pagesOf 0x100000 0x18000000 2 65536).isNone = true
    ∧ fine (base.walk 0x100000 0x1000) (fun _ => true) = true ∧ base.tlbHit 0 7 0x1000 = none
    ∧ ((after [.pageWalk 0 0 0x1000] base).tlbHit 0 7 0x1000).isSome = true
    ∧ (match base.walk 0x100000 0x10000000 with | .error _ => true | .ok _ => false) = true ∧ base.tlbHit 0 7 0x10000000 = none
    ∧ bareB { base with cores := [], quads := [], dies := [] } = true ∧ base.ctxs = [ctx0]
    ∧ (let s : State := { mapS with harvest := [.channel 22] }
       fine (s.walk 0x100000 0x18000000) (fun e => decide (pteKind e = 0) && decide (pteSize e = 0) && decide (pteFrame e = 0x20000000)
          && decide (sizeBytes (pteSize e) = 65536) && !s.accessDue [(.phys 0x20000000, 65536)] && !s.engineDue [(.phys 0x20000000, 65536)]
          && s.failing 0x20000000 65536 && s.leafOk 3 (BitVec.ofNat 64 (leafBits e.toNat + 0x30000000))) = true
        ∧ there (takeMem 0 0 hbmSize 65536 (s, [0x30000000])) (fun r => decide (r.2 = 0x30000000)) = true
        ∧ leadsB s 0x100000 0x18000000 0x300000 0x30000000 65536 = true)
    ∧ (match mapS.walk 0x100000 0x18000000 with | .ok e => !mapS.failing (pteFrame e) 65536 | .error _ => false) = true
    ∧ ((noteS 0 0).notices.find? fun m => m.key == 6) = some (note0 none) ∧ (2 ^ 32 + (noteS 0 255).nwseq - (noteS 0 255).nrseq) % 2 ^ 32 = 255
    ∧ (2 ^ 32 + (noteS 0 256).nwseq - (noteS 0 256).nrseq) % 2 ^ 32 = 256
    ∧ (((noteS 0 255).notices.filter fun m => m.nseq.isSome && !m.resolved).length < 4096) := by decide +kernel
/-- A command that waits in the mailbox. -/
def mailS (code : Nat) (args : List Nat) (s : State) : State :=
  { s with mailbox := { s.mailbox with pending := some { code, seq := 9, args := (args ++ List.replicate (8 - args.length) 0).map (BitVec.ofNat 64) } } }
def mails (code : Nat) (masks : List Nat) (s : State) : Bool :=
  there s.mailbox.pending fun c => decide (c.code = code) && decide (mbStage code ≤ s.stage) && !s.firmware.romOnly && argsIn (c.args.map BitVec.toNat) masks
def createArgs : List Nat := [8 + 16 * 2 ^ 16 + 2 ^ 33, 0x80000000, 0x80010000, 0x80020000, 0x80030000, 0x80040000, 1 + 2 ^ 32, 0x80040000]
def createMasks : List Nat := [ones 64, ones 57, ones 57, ones 57, ones 57, ones 57, ones 64, ones 57]
/-- CREATE with operands that hold, with no ID, with an ID in use, with no slot left and with no memory. -/
theorem wit_CreateContext : mails 0x10 createMasks (mailS 0x10 createArgs base) = true ∧ (ctxOfArgs 1 createArgs).ok = true ∧ base.freeSlot = some 1
    ∧ (ctxOfArgs 1 (createArgs.set 0 (16 * 2 ^ 16 + 2 ^ 33))).ok = false ∧ (base.ctxs.all fun y => decide (y.id ≠ 8)) = true
    ∧ (ctxOfArgs 1 (createArgs.set 0 (7 + 16 * 2 ^ 16 + 2 ^ 33))).id = ctx0.id
    ∧ ({ base with ctxs := (List.range 64).map fun i => { ctx0 with slot := i, id := 100 + i } } : State).freeSlot = none
    ∧ takeMem 1 0 hbmSize 262144 ({ base with used := [(0, 0, hbmSize)] }, []) = none
    ∧ there (takeMem 1 0 hbmSize 262144 (base, [0x40000000])) (fun r =>
        let x := ctxOfArgs 1 createArgs
        (x.attrs.foldl (fun acc q => acc.bind fun b => mapPages 1 r.2 q.1.1 q.2 0 (q.1.2 / 65536) b) (some r.1)).isSome) = true := by decide +kernel
def queued (q : List QueueReg) (s : State) : State := ctxIn (fun c => { c with queues := q }) s
def freshD : State := stored [(0x4002000, 0x2000)] base
/-- Queues to register, full, double and fresh; to drop; a faulted context that may recover, and kernels that run; notices to answer; a context to destroy and one that is quiet. -/
theorem wit_ContextCommands : base.ctxById 7 = some ctx0 ∧ base.ctx? 0 = some ctx0
    ∧ mails 0x11 [ones 19, ones 57] (mailS 0x11 [7 + 2 * 2 ^ 16 + 2 ^ 18, 0x2000] freshD) = true ∧ freshD.freshQueue 0 0x2000 = true
    ∧ 0x2010 % 256 ≠ 0 ∧ base.freshQueue 0 0x2000 = false ∧ 16 ≤ (List.replicate 16 queue0).length ∧ (queued [queue0] freshD).ctxById 7 ≠ none
    ∧ mails 0x12 [ones 16, ones 57] (mailS 0x12 [7, 0x2000] (queued [queue0] base)) = true
    ∧ mails 0x13 [ones 16] (mailS 0x13 [7] (ctxIn (fun c => { c with state := .faulted }) (kern (fun k => { k with state := .abandoned }) base))) = true
    ∧ kernel0.state ≠ .done ∧ kernel0.state ≠ .abandoned
    ∧ mails 0x14 [ones 16] (mailS 0x14 [7] base) = true
    ∧ (let s := mailS 0x18 [7, 3] { base with notices := [note0 (some 3)] }
       mails 0x18 [ones 16, ones 32] s = true ∧ s.noticeOf 0 3 = some (note0 (some 3)) ∧ s.noticeOf 0 4 = none
        ∧ there (s.group? 1) (fun g => g.state.live) = true)
    ∧ mails 0x19 [ones 16, ones 32] (mailS 0x19 [7, 3] { base with notices := [note0 (some 3)] }) = true
    ∧ (let s : State := { base with groups := [], kernels := [], ctxs := [{ ctx0 with state := .destroying }], cur := Team.idle }
       s.pruneLoads.ctxQuiet 0 = true)
    ∧ (ctxIn (fun c => { c with state := .destroying }) (late 1 ldS)).pruneLoads.ctxQuiet 0 = false ∧ ctx0.state ≠ .destroying := by decide +kernel
/-- Too early, with the ROM alone, a stray bit, a code without a command; each command of management with operands that hold and that do not.
(What the checks of a firmware image give is a free value of log 10: FWACT's two clauses divide the cases between them.) -/
theorem wit_MailboxCommands : (base.mailbox.pending = none)
    ∧ (mailS 0x10 [] { base with stage := 6 }).stage < 7 ∧ (mailS 0x20 [] { base with stage := 1 }).stage < 2
    ∧ ({ base with firmware := { base.firmware with romOnly := true } } : State).firmware.romOnly = true
    ∧ mails 0x13 [ones 16] (mailS 0x13 [2 ^ 16] base) = false ∧ (0x15 : Nat) ∉ [0x10, 0x11, 0x12, 0x13, 0x14, 0x18, 0x19, 0x20, 0x21, 0x22, 0x30, 0x31, 0x32, 0x33, 0x34]
    ∧ mails 0x20 [ones 64, ones 64] (mailS 0x20 [16777216 - 65536, 65536] base) = true ∧ mails 0x20 [ones 64, ones 64] (mailS 0x20 [16777216, 8] base) = true
    ∧ mails 0x21 [1] (mailS 0x21 [1] base) = true ∧ mails 0x22 [] (mailS 0x22 [] base) = true
    ∧ mails 0x30 [0x1FFFFFFFF033F, 0x1FFFFFFFFFF0000] (mailS 0x30 [63 + 2 ^ 8 + 2 ^ 9 + 7 * 2 ^ 16 + 2 ^ 32, 0] base) = true
    ∧ base.mapped ctx0 0 = true ∧ base.mapped ctx0 0x10000000 = false ∧ base.ctxById 9 = none
    ∧ mails 0x31 [ones 11] (mailS 0x31 [0] base) = true ∧ mails 0x31 [ones 11] (mailS 0x31 [1152] base) = true
    ∧ mails 0x32 [ones 16, ones 64, ones 31] (mailS 0x32 [7, 1, 0] base) = true
    ∧ base.groupsOf 0 = [group0] ∧ base.groupsOf 1 = [] ∧ base.idleCore 8 = true ∧ base.idleCore 0 = false ∧ base.reserved = []
    ∧ (let s := mailS 0x33 [7, 1, 0] (gmod (fun g => { g with state := .halted 0, migrateAsked := true }) base)
       mails 0x33 [ones 16, ones 64, ones 31] s = true ∧ (s.teamsOf 1).all (fun t => decide (t.faultPark = none)) = true)
    ∧ base.groups.find? (fun g => g.ctx == 0 && g.index == 0 && ((base.kernel? g.kid).map Kernel.id == some 1)) = some group0
    ∧ mails 0x33 [ones 16, ones 64, ones 31] (mailS 0x33 [7, 1, 0] (gmod (fun g => { g with state := .halted 0 }) base)) = true
    ∧ ([1, 1000].all fun n => mails 0x34 [0x3FF0003] (mailS 0x34 [3 + n * 2 ^ 16] base)) = true
    ∧ ([0, 1001].all fun n => mails 0x34 [0x3FF0003] (mailS 0x34 [3 + n * 2 ^ 16] base)) = true := by decide +kernel
def winS : State := { base with hwins := [(63, { en := true, w := true, size := 1, ctx := 7, vbase := 0 })] }
/-- The same window over the pages of the peer, and a write of the host on its way there. -/
def winP : State := { base with hwins := [(63, { en := true, w := true, size := 1, ctx := 7, vbase := 0x8000000 })] }
def winW : State := after [.hostWindowWrite (63 * 2 ^ 32) [1, 2, 3, 4] false] winP
/-- Nothing of the host is in flight. -/
def hostIdleB (s : State) : Bool := s.loads == [] && s.posts == [] && s.mats == [] && s.engs == [] && s.early == [] && s.hbms == []
/-- A window's first and last bytes, and past it; one over a peer's pages, with a write on its way and without; a page that is not mapped; no window. -/
theorem wit_HostWindows : (let off := 63 * 2 ^ 32 + 0x1000
      off / 2 ^ 32 = 63 ∧ (winS.hwins.get HWin.off 63).en = true ∧ winS.ctxById 7 = some ctx0
        ∧ winS.hostRuns ctx0 needR 0x1000 8 = some [(.phys 0x4001000, 0x1000, 8)] ∧ winS.poisoned 0x4001000 8 = false
        ∧ winS.hostRuns ctx0 needW 0x1000 8 = some [(.phys 0x4001000, 0x1000, 8)] ∧ winS.rejects (.phys 0x4001000) 8 = false
        ∧ fine (winS.translate ctx0 false needRW 0x1000) (fun x => decide (x.place = .phys 0x4001000)) = true)
    ∧ 65528 + 8 ≤ 65536 * 1 ∧ 65536 * 1 < 65529 + 8 ∧ (base.hwins.get HWin.off 0).en = false ∧ (64 * 2 ^ 32) / 2 ^ 32 = 64 := by decide +kernel
/-- The host idle and with a write on its way, a page of a peer and one that is not mapped. -/
theorem wit_HostWindowsAtPeers : hostIdleB winS = true ∧ hostIdleB winP = true ∧ 7 ≤ winP.stage
    ∧ winP.hostRuns ctx0 needR 0x8000000 4 = some [(.peer 1 0xC000000, 0x8000000, 4)] ∧ winP.hostRuns ctx0 needW 0x8000000 4 = some [(.peer 1 0xC000000, 0x8000000, 4)]
    ∧ winW.hostWrites = true ∧ (winW.hostRuns ctx0 needR 0x8000000 4).isSome = true ∧ winP.hostRuns ctx0 needR 0x10000000 4 = none
    ∧ fine (winW.translate ctx0 false needRW 0x8000000) (fun x => decide (x.place = .peer 1 0xC000000)) = true
    ∧ fine (winS.translate ctx0 false needRW 0x10000000) (fun _ => true) = false := by decide +kernel
def eyed (v : Nat) (inUse : Bool) : State := { base with hbms := [(7, { Stack.init with eyes := [(2111, { v, h := 255, inUse })] })] }
/-- A mailbox that is free and one that is busy; the last stack and lane, with a margin below its threshold, at it, and of a lane not in use. -/
theorem wit_HostRegisters : 2 ≤ base.stage ∧ base.mailbox.pending = none ∧ (mailS 0x22 [] base).mailbox.pending ≠ none ∧ State.reset.stage < 2
    ∧ (let e := ((eyed 19 true).stackAt 7).eyes.get Eye.none 2111; e.inUse = true ∧ e.v < ((eyed 19 true).stackAt 7).vthr)
    ∧ (let e := ((eyed 20 true).stackAt 7).eyes.get Eye.none 2111; ((eyed 20 true).stackAt 7).vthr ≤ e.v ∧ ((eyed 20 true).stackAt 7).hthr ≤ e.h)
    ∧ (((eyed 0 false).stackAt 7).eyes.get Eye.none 2111).inUse = false := by decide +kernel
def atStage (n : Nat) : State := { State.reset with stage := n }
/-- Every stage; a pod link that trains. (What a firmware image's check gives is a free value of log 10.) -/
theorem wit_StartUp : State.reset.stage = 0 ∧ ((List.range 7).all fun n => decide ((atStage n).stage = n) && !(atStage n).fail && !(atStage n).partitionLost
      && !(atStage n).firmware.romOnly) = true
    ∧ (portIn 3 { Port.init with state := .training } (atStage 5)).ports.map (fun p => p.2.state) = [.training] ∧ (atStage 5).ports = [] := by decide +kernel
def errs (n : Nat) (s : State) : State := { s with errors := List.replicate n (.channel 3, 100) }
/-- One idle core of another quad is enough for a trip to find its target. -/
theorem coolest_some (s : State) (p x : Nat) (hx : x < 1152) (h : s.idleCore x = true) (hq : (quadKey x != quadKey p) = true) :
    (s.coolest p).isSome = true := by
  have keep : ∀ (g : Option Nat → Nat → Option Nat), (∀ a y, (g a y).isSome = true) → ∀ (l : List Nat) (a : Option Nat),
      (a.isSome = true ∨ l ≠ []) → (l.foldl g a).isSome = true := by
    intro g hg l
    induction l with
    | nil => intro a ha; simpa using ha
    | cons y l ih => intro a _; exact ih _ (Or.inl (hg a y))
  unfold State.coolest
  refine keep _ ?_ _ none (Or.inr (List.ne_nil_of_mem (List.mem_filter.mpr ⟨List.mem_range.mpr hx, by simp [h, hq]⟩)))
  intro a y
  cases a with
  | none => rfl
  | some b => by_cases hb : (s.coreAt y).celsius < (s.coreAt b).celsius <;> simp [hb]
/-- Units with none, one and two errors before, at 3600 seconds and after it; an idle core, a busy one; a trip with a group that runs and without; clocks and clamps. -/
theorem wit_ErrorsAndClamps : 2 ≤ base.stage ∧ base.outOfUse (.core 5) = false ∧ ({ base with harvest := [.dieTlb 0] } : State).outOfUse (.dieTlb 0) = false
    ∧ ([(0, 100), (1, 100), (2, 3700), (2, 3701)].map fun p => ((errs p.1 base).errors.filter fun e => e.1 == .channel 3 && decide (p.2 ≤ e.2 + 3600)).length)
      = [0, 1, 2, 0]
    ∧ ((unitCores (.core 5)).all fun p => base.groups.all fun g => decide (base.pcore g.lcore ≠ p)) = true
    ∧ ((unitCores (.quad 0)).any fun p => base.groups.any fun g => decide (g.state = .resident) && decide (base.pcore g.lcore = p)) = true
    ∧ base.lcoreAt 5 = some 5 ∧ base.groupsOf 5 = [] ∧ base.reserved = []
    ∧ (let s1 := base.modCore 0 fun c => { c with celsius := max 95 c.celsius }
       s1.lcoreAt 0 = some 0 ∧ s1.groupsOf 0 = [group0] ∧ s1.idleCore 4 = true ∧ (quadKey 4 != quadKey 0) = true)
    ∧ base.suspects = [] ∧ ErrUnit.core 5 ∈ ({ base with suspects := [.core 5] } : State).suspects ∧ there (base.kernel? 3) (fun k => k.lpb.mig) = true
    ∧ base.passing 3 97 = 0 ∧ ((base.modDie 0 fun d => { d with passing := d.passing.set 0 4 1 }).passing 0 4) = 1
    ∧ (base.quadAt 0).clock = 940 ∧ ({ base with clockCap := 846 } : State).clock < 940
    ∧ (let s := late 2048 base; (s.dieAt 3).idleSince.get 0 97 + 4096 ≤ s.msuNow) ∧ base.msuNow < (base.dieAt 0).idleSince.get 0 0 + 4096 := by decide +kernel
/-- Records of handles 2 and 3: bf16, 4 × 1 elements, one mesh axis of one rank, at package 0 and at `peer`; a progress record at 0x8000; pages of a die
scratchpad, of package 1 at 0x14000000 and of this one at 0x18000000. -/
def planBase (peer : Nat) : State :=
  let rec_ := fun (a p : Nat) => [(a, BitVec.ofNat 64 (0x8000000700000000 + 0x4C000000)), (a + 8, 0x2000), (a + 0x28, 0x100000004), (a + 0x30, 0x100000001),
    (a + 0x38, 0x100000001), (a + 0x40, 1), (a + 0x48, 4), (a + 0x70, 1), (a + 0x80, BitVec.ofNat 64 p), (a + 0x88, 0x2000)]
  sets [(1, 2 + 3 * 2 ^ 16), (2, 0x8000)] (stored (rec_ 0x4010200 0 ++ rec_ 0x4010300 peer ++
    [(0x4008000 + 8 * (24 + peer), if peer = 0 then 0x3000 else 0x8000000), (0x4008000 + 8 * (40 + peer), if peer = 0 then 0x18000000 else 0x14000000),
      (0x200028, leaf 3 1 6 0x8000000000), (0x200030, BitVec.ofNat 64 (2 ^ 63 + 0x300000)),
      (0x300000, BitVec.ofNat 64 (2 ^ 63 + 2 ^ 62 + 2 ^ 60 + 2 ^ 57 + 6 * 2 ^ 49 + 0x8004800000))]) base)
def resumable (st : Nat) (s : State) : State := stored [(0x4008000, BitVec.ofNat 64 (3 * 2 ^ 48 + 2 * 2 ^ 32 + st))] s
def reqOf (s : State) (p : PlanReq → Bool) : Bool := fine (s.tlr 2) fun t1 => fine (s.tlr 3) fun t2 =>
  p { ctx := 0, rec_ := 0x8000, src := 2, dst := 3, t1, t2, words := (List.range 64).map fun i => (s.physWord (0x4008000 + 8 * i)).toNat }
def planIn (f : Plan → Plan) (s : State) : State := { s with plans := s.plans.map f }
def step0 (peer : Nat) : PlanStep :=
  { index := 0, ms := 0, md := 0, pkg := peer, lo := [0, 0, 0, 0, 0, 0], hi := [4, 1, 1, 1, 1, 1], size := 8, runs := 1, first := 0, sent := 0, acked := [],
    denied := [], skip := false, started := false, inc := 0, gone := false }
/-- The plan of one run of 8 bytes that its RSH begins. -/
def plan0 (peer : Nat) (t1 t2 : Tlr) : Plan :=
  { key := 11, ctx := 0, rec_ := 0x8000, src := 2, dst := 3, t1, t2, words := (List.range 64).map fun i => ((planBase peer).physWord (0x4008000 + 8 * i)).toNat,
    state := .computing, team := { gid := 1, idx := 0 }, seq := 0, num := 1, core := 0, kid := 3, cmd := none, hdr := ReqHdr.nobody, resumed := false, phash := 5,
    steps := [], total := 1, expb := 8 - 8 * peer, bar := none, cause := 0, code := 0, lost := false, changed := false }
def rshS (peer : Nat) : State :=
  match (planBase peer).tlr 2, (planBase peer).tlr 3 with
  | .ok t1, .ok t2 => { planBase peer with plans := [plan0 peer t1 t2], nextKey := 12 }
  | _, _ => base
def pathed (s : State) : State := { s with route := [(1, 1)] }
def thePlan (s : State) (p : Plan → Bool) : Bool := decide (s.plans.length = 1) && s.plans.all fun q => there (s.plan? q.key) p
def next (o : Host.Outcome State Fault Refusal) : State := match o with | .next t => t | _ => base
def runS (peer : Nat) : State := next (execPlanCompute 11 (pathed (rshS peer)))
def started (s : State) : State := planIn (fun p => { p with steps := p.steps.map fun t => { t with started := true } }) s
/-- A plan's next run with what holds of it. -/
def nextRun (s : State) (f : Plan → PlanStep → Run → Bool) : Bool := thePlan s fun p =>
  !p.lost && !p.changed && there (p.steps.find? fun t => !t.skip && decide (t.first + t.sent < t.runs)) fun t =>
    f p t (runOf p t (t.first + t.sent) p.t1 p.t2)
def sentS : State := next (execReshardRunSend 11 (started (runS 1)))
/-- A RESHARD with every check passed. -/
def ask0 (t1 t2 : Tlr) : PlanAsk :=
  { key := 30, team := deviceId, seq := 0, core := 1152, kid := 0, hdr := ReqHdr.nobody, cmd := some 4, checked := some false,
    entered := false, bar := none, reread := false,
    req := { ctx := 0, rec_ := 0x8000, src := 2, dst := 3, t1, t2, words := [] } }
/-- The engine holds `n` plans of other records, and a RESHARD waits for room. -/
def queued8 (n : Nat) (s : State) : State :=
  match s.tlr 2, s.tlr 3 with
  | .ok t1, .ok t2 => { s with plans := (List.range n).map fun i => { plan0 1 t1 t2 with key := 20 + i, rec_ := 0x20000 + 512 * i }, asks := [ask0 t1 t2] }
  | _, _ => base
/-- A plan that is new, one to resume, one completed and one that a check stops, with room and without; a RESHARD that waits; its run to a peer and to itself, one that fails its check, one in flight; plans that drain, with runs in flight and without; one that ends, with its last word on its way and without. -/
theorem wit_Plans : goesB (planBase 1) = true ∧ quietB (planBase 1) = true ∧ (0x8010 : Nat) % 512 ≠ 0
    ∧ fine ((planBase 1).locateRange .g needRW 0x8000 (pagesIn 512) 512) (fun r => decide (r = [(.phys 0x4008000, 512)])) = true
    ∧ (planBase 1).poisoned 0x4008000 512 = false ∧ (planBase 1).outOk ((planBase 1).coreOf 1) ((planBase 1).kidOf (planBase 1).cur) = true
    ∧ reqOf (planBase 1) (fun r => decide ((planBase 1).planCheck r = .new) && decide ((planBase 1).expBytes r = 0)) = true
    ∧ reqOf (resumable 2 (planBase 1)) (fun r => decide ((resumable 2 (planBase 1)).planCheck r = .resume)) = true
    ∧ reqOf (resumable 3 (planBase 1)) (fun r => decide ((resumable 3 (planBase 1)).planCheck r = .completed)) = true
    ∧ reqOf (resumable 1 (planBase 1)) (fun r => match (resumable 1 (planBase 1)).planCheck r with | .fault _ _ => true | _ => false) = true
    ∧ (planBase 1).plans = [] ∧ (planBase 1).asks = [] ∧ ((rshS 1).plans.any fun q => q.ctx == 0 && q.rec_ == 0x8000) = true
    ∧ fine ((planBase 1).tlr 2) (fun _ => true) = true ∧ fine ((planBase 1).tlr 3) (fun _ => true) = true
    ∧ (planBase 1).linkPlace 0 0x8000 needW = some (.phys 0x4008000) ∧ (planBase 1).rejects (.phys 0x4008000) 8 = false
    ∧ (full64 (planBase 1)).outOk ((planBase 1).coreOf 1) ((planBase 1).kidOf (planBase 1).cur) = false
    ∧ (let c := cmd0 7 (2 + 3 * 2 ^ 16) 0x8000
       c.code = 7 ∧ c.word 5 / 2 ^ 16 % 2 ^ 16 = 3 ∧ c.word 6 = 0x8000 ∧ fine ((planBase 1).translate ctx0 false needRW 0x8000) (fun x => decide (x.place = .phys 0x4008000)) = true
        ∧ fine ((planBase 1).translate ctx0 false needRW 0x10000000) (fun _ => true) = false
        ∧ fine ((planBase 1).translate ctx0 false needRW 0x8000000) (fun x => decide (x.place = .peer 1 0xC000000)) = true
        ∧ ((planBase 1).qeRead 0 0x8000 512).isSome = true ∧ (((planBase 1).placePoison (.phys 0x4008000) 32).qeRead 0 0x8000 512) = none
        ∧ fine ((planBase 1).tlrCheck 4096 0 5) (fun _ => true) = false
        ∧ there ((queued8 7 (planBase 1)).asks.find? fun y => y.cmd == some 4) (fun q => decide (q.checked = some false) && !(queued8 7 (planBase 1)).planBusy q) = true
        ∧ (queued8 7 (planBase 1)).plans.length < 8 ∧ 8 ≤ (queued8 8 (planBase 1)).plans.length
        ∧ fine ((planBase 1).tlrCheck 4096 0 2) (fun _ => true) = true ∧ fine ((planBase 1).tlrCheck 4096 0 3) (fun _ => true) = true)
    ∧ thePlan (rshS 1) (fun p => decide (p.state = .computing) && !p.resumed && p.bar.isNone && ((rshS 1).planSteps p).any fun t => !t.complete) = true
    ∧ thePlan (planIn (fun p => { p with resumed := true }) (rshS 1)) (fun p => decide (p.state = .computing) && decide (bitsAt (p.word 1) 32 32 ≠ p.phash)) = true
    ∧ (rshS 1).posts = [] ∧ (rshS 1).linkPlace 0 0x8000 needW = some (.phys 0x4008000) ∧ (rshS 1).rejects (.phys 0x4008000) 8 = false
    ∧ (let s := planIn (fun p => { p with resumed := true, phash := 0 }) (rshS 1)
       thePlan s (fun p => decide (bitsAt (p.word 1) 32 32 = p.phash) && (s.planSteps p).any fun t => !t.complete) = true)
    ∧ (let s : State := { rshS 1 with rank := 5 }
       thePlan s (fun p => (s.planSteps p).all PlanStep.complete) = true)
    ∧ nextRun (started (runS 1)) (fun p t r => decide (p.state = .running) && t.started && ((started (runS 1)).runCheck ctx0 t r).isNone && decide (t.pkg = 1)
      && (started (runS 1)).ctxRunsAt ctx0 needR r.src r.bytes == [(.phys 0x4002000, 8)]) = true
    ∧ nextRun (started (runS 0)) (fun p t r => decide (p.state = .running) && ((started (runS 0)).runCheck ctx0 t r).isNone && decide (t.pkg = 0)
      && (started (runS 0)).ctxRunsAt ctx0 needR r.src r.bytes == [(.phys 0x4002000, 8)] && (started (runS 0)).ctxRunsAt ctx0 needW r.dst r.bytes == [(.phys 0x4003000, 8)]
      && !(started (runS 0)).poisoned 0x4002000 8 && !(started (runS 0)).rejects (.phys 0x4003000) 8) = true
    ∧ (let s := stored [(0x200010, 0)] (started (runS 1)); nextRun s fun _ t r => (s.runCheck ctx0 t r).isSome) = true
    ∧ thePlan sentS (fun p => p.steps.any fun t => t.flying 0 && decide (t.pkg ≠ sentS.rank) && sentS.sendOk p.key t.pkg
      && PlanStep.complete { t with acked := 0 :: t.acked }) = true
    ∧ thePlan (planIn (fun p => { p with lost := true }) (runS 1)) Plan.lost = true ∧ thePlan (planIn (fun p => { p with changed := true }) (runS 1)) Plan.changed = true
    ∧ thePlan (planIn (fun p => { p with state := .draining, cause := 0x52 }) sentS) (fun p => p.steps.any fun t => t.flying 0) = true
    ∧ thePlan (planIn (fun p => { p with state := .draining, cause := 0x58 }) (runS 1)) (fun p => p.steps.all fun t => !t.flying 0) = true
    ∧ (let s := planIn (fun p => { p with state := .ending }) (rshS 1)
       thePlan s (fun p => !s.recPosted p) = true
        ∧ thePlan s (fun p => (s.deviceWrite 0 0x8000 (.peer 1 0xC000000) (leBytes 8 3) (some .pod)).recPosted p) = true) := by decide +kernel
/-- The team in the middle of a clause whose next word is `w`, with a clause's turn to issue. -/
def issuing (w : Nat) : State := modCur (fun t => { t with clause := some { hdr := 0x4000000, header := code, words := [BitVec.ofNat 64 w], idx := 0 } }) base
/-- A word of MOV s1, 5, one that is illegal, a register that is pending; a method's team; an agenda of each kind. -/
theorem wit_StepRunsDecoded : base.agenda = [] ∧ (issuing 0).cur.nextWord = some 0 ∧ (issuing 0).mayIssue (issuing 0).cur = true
    ∧ (fine (decodeWord (issuing 0).cur.env 0) fun i => i == .nop g0) = true ∧ fine (decodeWord (issuing 1).cur.env 1) (fun _ => true) = false
    ∧ usesOf (issuing 0).cur.env (.nop g0) = [] ∧ (base.mayIssue { base.cur with state := .blocked }) = false
    ∧ (ldS.pending ldS.cur).contains (.v 4) = true ∧ (usesOf ldS.cur.env (.vmov ⟨l0, .b32, 5, 4⟩)).contains (.v 4) = true
    ∧ (inMode .method base).cur.mode = .method ∧ methodOk (.bkpt ⟨g0, 1⟩) = false ∧ methodOk (.nop g0) = true
    ∧ (issuing 0).cur.heldFault = none ∧ (issuing 0).fenceHolds (.nop g0) = false
    ∧ (let s := after [.fence ⟨g0, true, true, .pkg⟩] (after [.st ⟨l0, .g, .w32, true, false, .team, .base 2, 4⟩] s2)
       s.fenceHolds (.ld ldOps) = true ∧ s.cur.heldFault = none)
    ∧ base.firstOf (.event (.tmovDeadline 1)) [.event (.clauseStart 0)] = .event (.tmovDeadline 1)
    ∧ (base.firstOf (.event (.loadExpiry 1)) [.event (.exactAnswerArrival 1 0 zeroReply), .tick 1] = .event (.exactAnswerArrival 1 0 zeroReply))
    ∧ ((thisCycle [.event (.clauseStart 0), .tick 1]).all fun y => !base.sooner y (.event (.tmovDeadline 1))) = true
    ∧ (ldS.loads.all fun ld => !ld.ready) = true
    ∧ encodeWord .powerGood = none ∧ encodeWord (.nop g0) ≠ none := by decide +kernel
/-- A step of the base state: the NOP of its clause. -/
theorem wit_StepKeepsForm : base.wf = true ∧ (match step base with | .next t => t.wf | _ => false) = true := by decide +kernel
/-! ### Witnesses for the rarer clauses -/

/-- A page fault of a program and of a user handler; a trap of a method. -/
theorem wit_ParkingFaults : base.cur.mode = .program ∧ (inMode .user base).cur.mode = .user ∧ base.ctx? (base.ctxOf base.cur) = some ctx0
    ∧ (inMode .method base).cur.mode = .method ∧ (0x18 : Nat) ≠ 0x1D ∧ flanesOf [31] = flanesOf [31] := by decide +kernel
def idle (s : State) : State := modCur (fun t => { t with mask := 0 }) s
def drilled : State := modCur (fun t => { t with sys := { t.sys with gdrill := true } }) s2
/-- The handler of a group whose save area's tint map begins with an unmapped page: the register region is the page's last 16 KiB (R270, R271). -/
def mapless : State :=
  sets [(2, 0x10000000 - 128)] (inMode .system (gmod (fun g => { g with saveAddr := some (0x10000000 - 0x8000 - 0x8000 - 16384) }) base))
/-- A load without a lane, one in a drill, a handler's access whose tint map is not mapped, and an atomic access without a lane. -/
theorem wit_RareLoads : (idle s2).cur.activeLanes l0 = [] ∧ numberedB (idle s2) = true ∧ s2.cur.id.gid ≠ 0
    ∧ s2.mapFail .g .w32 needR ((s2.cur.activeLanes l0).map fun L => (s2.cur.memAddr (.base 2) L).1) = none
    ∧ drilled.cur.sys.gdrill = true ∧ cleanB drilled l0 (.base 2) = true ∧ numberedB drilled = true ∧ drilled.cur.lanes ≤ 1024
    ∧ reachesB drilled l0 .g needR .w32 (.base 2) (fun _ => .phys 0x4001000) = true ∧ (drilled.cur.activeLanes l0).length = 32
    ∧ drilled.mapFail .g .w32 needR ((drilled.cur.activeLanes l0).map fun L => (drilled.cur.memAddr (.base 2) L).1) = none
    ∧ drilled.recordsUsed 0 + ((drilled.cur.activeLanes l0).map (· / 32)).eraseDups.length * Width.w32.regs ≤ 256
    ∧ there (mapless.group? 1) (fun x => x.state.live) = true ∧ cleanB mapless l0 (.base 2) = true
    ∧ ((mapless.cur.activeLanes l0).all fun L => fine (mapless.locate .g needR (mapless.cur.memAddr (.base 2) L).1 4) (fun _ => true)
        && fine (mapless.locate .g needW (mapless.cur.memAddr (.base 2) L).1 4) fun _ => true) = true
    ∧ ([needR, needW].all fun n => (mapless.mapFail .g .w32 n ((mapless.cur.activeLanes l0).map fun L => (mapless.cur.memAddr (.base 2) L).1)).isSome) = true := by
  decide +kernel
/-- ATOM at core scratchpad, and a RED of one lane. -/
def atK : State := after [.atom ⟨l0, .k, .w32, true, .max, .plain, .core, .auto, 4, .base 2, 5⟩] (sets [(2, 256)] base)
def redS : State := after [.red ⟨l0, .g, .w32, true, .min, .plain, .pkg, .home, 0, .base 2, 5⟩] (modCur (fun t => { t with mask := 1 }) s2)
theorem wit_AtomicHomes :
    there (atK.load? 10) (fun ld => decide (ld.kind = .atom .max) && decide (atK.clk ≤ limitEnd ld.issued ld.limit) && there (ld.lane? 0) fun l => decide (l.st = .waiting)
      && l.gd.isNone && !l.performed && decide (l.place = .scratch 1 .k 256) && atK.laneOk ld l && !atK.placePoisoned l.place 4 && !atK.rejects l.place 4) = true
    ∧ (atK.group? 1).isSome = true
    ∧ there (redS.post? 10) (fun q => there q.writes.head? fun w => decide (q.writes = [w]) && decide (w.red = some .min) && !w.done && decide (w.place = .phys 0x4001000)
      && redS.writeOk q 0 w && !redS.placePoisoned w.place 4 && !redS.rejects w.place 4) = true
    ∧ redS.appends = [] ∧ redS.isSavePost 10 = false ∧ (idle s2).cur.activeLanes l0 = []
    ∧ ((base.cur.activeLanes l0).all fun _ => !base.placeGuarded (.scratch 1 .k 256) 4) = true := by decide +kernel
/-- Scalars, registers and guards that are guesses. -/
def guessS (r : Nat) (s : State) : State := { s with cur := { s.cur with s := s.cur.s.set SCell.zero r { val := 8, tint := true } } }
def guessV (r : Nat) (s : State) : State := setV r (fun L => { val := 8, tint := L == 31 }) s
/-- An operand of a CPY, an address, a datum and a guard that are tinted, a guess at a synchronisation, and PARK in its handler. -/
theorem wit_Escapes :
    ((teamScalars (.cpy ⟨g0, .g, .k, none, true, 0, 9, 17, 18, 1⟩)).find? fun o => ((guessS 17 base).cur.sreg o.2).tint) = some (2, 17)
    ∧ (guessS 17 base).cur.ctlAny = false ∧ beyondRegisters (.cpy ⟨g0, .g, .k, none, true, 0, 9, 17, 18, 1⟩) = some g0
    ∧ laneOperands (.st ⟨l0, .g, .w32, true, false, .team, .index 2 1 2, 4⟩) = some (l0, .index 2 1 2, 4, 1) ∧ base.cur.method = none
    ∧ base.tintBit .g .w32 0x1000 = none
    ∧ (let t := (guessV 4 base).cur
       (t.addrOps (.index 2 1 2) ++ [t.dataOp 4 1]).find? (fun o => (t.activeLanes l0).any o.2.2) |>.map fun o => (o.1, o.2.1)) = some (4, 4)
    ∧ (let t := (guessV 1 base).cur
       (t.addrOps (.index 2 1 2) ++ [t.dataOp 4 1]).find? (fun o => (t.activeLanes l0).any o.2.2) |>.map fun o => (o.1, o.2.1)) = some (3, 1)
    ∧ (let t := (guessS 2 base).cur
       ((t.addrOps (.base 2)).find? (fun o => (t.activeLanes l0).any o.2.2) |>.map fun o => (o.1, o.2.1)) = some (2, 2)
        ∧ ((List.range 32).all fun L => !(t.mask.getLsbD L && ((t.lguard l0 L).tint || ((t.lguard l0 L).val && t.ctl.getLsbD L)))) = true)
    ∧ (let t := (setP 1 [31] true base).cur
       (t.mask.getLsbD 31 && ((t.lguard ⟨false, 1⟩ 31).tint || ((t.lguard ⟨false, 1⟩ 31).val && t.ctl.getLsbD 31))) = true)
    ∧ (guessV 4 base).tintAny = true ∧ ((guessV 4 base).cur.tguard g0).val = true
    ∧ (let s := guessV 4 (inMode .system (trapped 0x38 base)); s.tintAny = true ∧ s.cur.mode = .system ∧ s.cur.fr.cause.toNat % 256 = 0x38) := by decide +kernel
/-- The same image for t2. -/
def imageT (s : State) : State :=
  gmod (fun g => { g with wbuf := ([0x14, 1, 0, 0, 16, 0, 0, 0, 0, 0, 0, 0, 0, 0, 0, 0] : List Byte).zipIdx.map fun p => (p.2, some p.1) }) s
/-- The save's post that has been written. -/
def savedJob : State :=
  let s := after [.matrixEngineStart 0] (job (.save 0 16 0x1000 [(.phys 0x4001000, 16)] none) none base)
  { s with clk := s.clk + 100000, posts := s.posts.map fun q => { q with writes := q.writes.map fun w => { w with done := true } } }
/-- A window's part, whose load is the one of `ldwS`. -/
def winJob (bad : Option Nat) : State :=
  { job (.mma .bf16 .bf16 64 0 [{ part0 0 with win := some 10 }]) (some 0) (image base) with
    loads := ldwS.loads.map fun ld => { ld with lanes := ld.lanes.map fun l => { l with bad } } }
def done (s : State) : Bool := heads s fun j => there j.started fun c => decide (c + j.kind.occupancy ≤ s.clk)
/-- Handles and areas that are guesses; two members of a joint operation; a gang register and a save that are done; a window that is read and one with poison; MTRN with and without a previous activation; a tile to be read. -/
theorem wit_MatrixResults : ((guessS 1 base).cur.sreg 1).tint = true ∧ (base.cur.tguard g0).val = true
    ∧ done (job (.mma .bf16 .bf16 64 0 [part0 0, { part0 1 with d := 3 }]) (some 0) (image base)) = true
    ∧ heads (job (.mma .bf16 .i8 64 0 [{ part0 0 with blind := true }]) none (image base)) (fun j => j.started.isNone) = true
    ∧ done (job .gang (some 0) base) = true
    ∧ done savedJob = true ∧ heads savedJob (fun j => decide (j.kind = .save 0 16 0x1000 [(.phys 0x4001000, 16)] (some 10)) && j.num.isSome) = true
    ∧ there (savedJob.post? 10) (fun q => q.writes.all PostWrite.done && decide (q.writes.length = 2)) = true
    ∧ done (winJob none) = true ∧ there ((winJob none).load? 10) (fun ld => ld.lanes.all fun l => l.bad.isNone) = true
    ∧ done (winJob (some 0x1D)) = true ∧ there ((winJob (some 0x1D)).load? 10) (fun ld => (ld.lanes.find? fun l => l.bad.isSome).isSome) = true
    ∧ ([none, some (3, 0)].all fun dlt => done (job (.trn 64 0 { part0 0 with d := 7 } dlt) (some 0) (imageT base))) = true
    ∧ (part0 0).frag.length = 64 * 64 ∧ there ((imageT base).group? 1) (fun x => (x.image 4096 0).isSome) = true
    ∧ there (base.group? 1) (fun x => decide (x.k.guard = [])) = true
    ∧ heads (job (.rda .f32 .rn false none 3 0 0 2 [(0, false), (31, true)]) (some 0) base) (fun j => decide (j.started = some 0)) = true := by decide +kernel
theorem wit_UnguardedScratch (i : Nat) : base.placeGuarded (.scratch 1 .k i) 1 = false := by
  simp [State.placeGuarded, base, stored, group0, State.group?, State.physWrite, Group.scratch, Scratch.zero, anyMark]
/-- The group moves; a count of bytes for its object. -/
def countS : State :=
  { gmod (fun g => { g with state := .saving, cause := .migrate }) (barS 2) with
    counts := [{ key := 5, op := 4, obj := .scratch 1 .k 256, va := 256, out := false, n := 8, ctx := 0, core := 0, hdr := ReqHdr.nobody, held := false }] }
/-- A packet behind 4 bytes of its team on its path that have not arrived. -/
def afterP : Packet := { postedP 0x4001000 with after := [(0, 4)] }
theorem wit_HeldSignals : countS.countHeld (.scratch 1 .k 256) = true ∧ (countS.counts.find? fun x => x.key == 5).isSome = true
    ∧ (barS 2).countHeld (.scratch 1 .k 256) = false ∧ (barS 2).barDue (.scratch 1 .k 256) = false
    ∧ peerS.fresh afterP = true ∧ afterP.relaxed = false ∧ (afterP.after.any fun r => decide (peerS.landed.get 0 (16 * afterP.src + afterP.path) < r.2)) = true
    ∧ peerS.landedMore = [] := by decide +kernel
/-- The last team of a group at its PARK, the group without a scratchpad .d. -/
def lastS : State := kern (fun k => { k with lpb := { lpb0 with d := 0 } }) (gmod (fun g => { g with state := .saving }) (inMode .system (trapped 0x38 base)))
/-- `parkS` with a second team that waits for the trap. -/
theorem wit_ParkImages :
    there (lastS.group? 1) (fun x => there (lastS.saveArea x) fun ar => decide (x.state = .saving) && !lastS.savesDue x ar && (lastS.saveFail x needW).isNone
      && decide (ar.d = 0) && decide (ar.base % 65536 + (lastS.recordBytes x).length ≤ 65536) && fine (lastS.devPlace x.ctx ar.base needNone) fun _ => true) = true
    ∧ lastS.others = [] ∧ lastS.loads = [] ∧ lastS.combs = [] ∧ lastS.tintAny = false
    ∧ (0xC000000 + 0x8000) % 65536 + parkS.cur.image.bytes.length ≤ 65536 ∧ fine (parkS.devPlace 0 (0xC000000 + 0x8000) needNone) (fun _ => true) = true
    ∧ parkS.matFlags parkS.cur.id = false
    ∧ (let s := sharing id (gmod (fun g => { g with state := .saving }) redirS)
       there (s.load? 10) (fun ld => there (s.group? 1) fun g => there (s.team? ld.team) fun u => decide (g.state = .saving) && decide (u.state = .saved)
          && (s.teamsOf 1).any (fun v => v.state != .saved && v.state != .retired) && ld.lanes.all fun l => there (s.saveSlot g u ld.d l.lane) fun p =>
            fine (s.devPlace 0 (p.2 % 2 ^ 60) needRW) fun m => !s.poisoned m 1) = true) := by decide +kernel
/-- Status word and timeline of a kernel that signals, at one place and at two, and at pages that are not mapped; the error record with 63 entries unread. -/
theorem wit_RareSignals :
    ([0x3000, 0x6000].all fun tl =>
      let s0 := base.qePut 0 0x3000 ({ kernel0 with lpb := { lpb0 with stAddr := 0x3000, tlAddr := tl } }).status
      decide (tl % 8 = 0) && (s0.qePlace 0 tl needW).isSome && there (s0.qePlace 0 tl needW) fun b => !s0.rejects (.phys b) 8 && !s0.poisoned b 8
        && (decide (b = 0x4003000) || decide (0x4003000 + 8 ≤ b))) = true
    ∧ base.qePlace 0 0x3000 needW = some 0x4003000 ∧ base.qePlace 0 0x10000000 needW = none
    ∧ (let s := stored [(0x4020000, 63)] base
       (fine (s.devPlace 0 0x20000 needNone) fun a => decide (a = 0x4020000)) = true ∧ (fine (s.devPlace 0 0x20010 needNone) fun a => decide (a = 0x4020010)) = true
        ∧ (fine (s.devPlace 0 0x20014 needNone) fun a => decide (a = 0x4020014)) = true ∧ fatalKind 0x09 = false
        ∧ 63 ≤ (2 ^ 32 + (s.physWord 0x4020000).toNat % 2 ^ 32 - (s.physWord 0x4020010).toNat % 2 ^ 32) % 2 ^ 32) := by decide +kernel
/-- A block on a peer, with its read under way, answered, and answered with poison. -/
def farQ : QueueReg := { queue0 with state := .fetching, cur := 0x8000000 }
def farS : State := after [.queueBlockFetch 0 0] (qS farQ [])
def farGot (bad : Option Nat) : State :=
  { farS with loads := farS.loads.map fun ld => { ld with lanes := ld.lanes.map fun l => { l with performed := true, st := .exact, bad } } }
def readsQ (ld : Load) : Bool := ld.team == deviceId && ld.kind == .mat && ld.ctx == 0 && ld.d == queueTag 0x2000 && !ld.written
/-- A command whose block is on a peer, told and not. -/
def farC : State := cS { cmd0 0 0 0 with block := 0x8000000, status := some (3, 0), detached := true } []
theorem wit_PeerBlocks : fine ((qS farQ []).translate ctx0 false needR 0x8000000) (fun x => decide (x.place = .peer 1 0xC000000)) = true
    ∧ (qS farQ []).loads.find? readsQ = none ∧ (qS farQ []).qePlace 0 0x2018 needW = some 0x4002018
    ∧ there (farS.loads.find? readsQ) (fun ld => !ld.lanes.all LoadLane.performed) = true
    ∧ there ((farGot none).loads.find? readsQ) (fun ld => ld.lanes.all LoadLane.performed && ld.lanes.all fun l => l.bad.isNone) = true
    ∧ there ((farGot (some 0x1D)).loads.find? readsQ) (fun ld => ld.lanes.all LoadLane.performed && (ld.lanes.findSome? LoadLane.bad == some 0x1D)) = true
    ∧ (let s := { queue0 with state := .fetching, cur := 0x3000 }; ((qS s []).placePoison (.phys 0x4003000) 32).poisoned 0x4003000 256 = true)
    ∧ fine ((cS (cmd0 4 3 0x8000000) []).translate ctx0 false needR 0x8000000) (fun x => x.place.isPeer) = true
    ∧ fine ((cS (cmd0 4 3 0x10000000) []).translate ctx0 false needR 0x10000000) (fun _ => true) = false
    ∧ there (farC.cmd? 4) (fun c => !c.told && c.detached && decide (farC.linkPlace c.ctx (c.block + 32) needW = some (.peer 1 0xC000020))) = true
    ∧ (let s := after [.commandCompletion 4] farC; there (s.cmd? 4) (fun c => c.told && s.statusOut c) = true)
    ∧ (let b : BarSent := { key := 7, team := base.cur.id, seq := 0, rank := 1, va := 0x18000000, core := 0, kid := 3, counted := true, answer := none, ctx := 0, hdr := ReqHdr.nobody }
       let s := unmapIn { mapS with sent := [b] }
       s.sent.any (fun b => b.ctx == 0 && b.answer.isNone && clashes [(0x18000000, 65536)] b.va 16) = true) := by decide +kernel
/-- Rows at RAAT − 1 activations: the first, one between and the last. -/
def rowS (row : Nat) : State := { base with hbms := [(7, { Stack.init with acts := [(2 ^ 20 + row, 1023)] })] }
/-- Rows at their threshold and below; limits that the firmware tightens; a halted group on a core that trips; a port whose training took too long. -/
theorem wit_Limits : ([0, 5, 2 ^ 20 - 1].all fun r => decide (((rowS r).stackAt 7).acts.get 0 (2 ^ 20 * 1 + r) + 1 = ((rowS r).stackAt 7).raat)) = true
    ∧ (base.stackAt 7).acts.get 0 5 + 1 ≠ (base.stackAt 7).raat
    ∧ tighten base.limits (some { trip := 90, clamp := 200, watts := 2000 }) = { trip := 90, clamp := 100, watts := 2000 }
    ∧ (let s1 := (gmod (fun g => { g with state := .halted 0 }) base).modCore 0 fun c => { c with celsius := max 95 c.celsius }
       s1.lcoreAt 0 = some 0 ∧ (s1.groupsOf 0).length = 1 ∧ s1.idleCore 4 = true)
    ∧ (let s := late 94000000 (portIn 3 { Port.init with state := .training } base); ¬ s.clk < (s.portAt 3).since + 94000000 ∧ base.clk < 0 + 94000000) := by
  decide +kernel
/-- Runs that may and may not leave, a step under its peer's present incarnation and under an older one; plans abandoned with runs in flight and without. -/
theorem wit_PlanRuns :
    nextRun (started (runS 1)) (fun p t r => let s := started (runS 1)
      s.runReadOk p (s.ctxRunsAt ctx0 needR r.src r.bytes) && s.runRoom t.pkg && t.started && decide (t.inc = s.incOf t.pkg)) = true
    ∧ nextRun { runS 1 with route := [] } (fun _ t _ => let s : State := { runS 1 with route := [] }; !t.started && !s.runRoom t.pkg) = true
    ∧ nextRun (started (runS 0)) (fun p t r => let s := started (runS 0)
      s.runReadOk p (s.ctxRunsAt ctx0 needR r.src r.bytes) && s.runWriteOk p (s.ctxRunsAt ctx0 needW r.dst r.bytes) && decide (t.pkg = s.rank)) = true
    ∧ thePlan (planIn (fun p => { p with state := .abandoned }) sentS) (fun p => p.flying) = true
    ∧ thePlan (planIn (fun p => { p with state := .abandoned }) (runS 1)) (fun p => !p.flying) = true
    ∧ thePlan sentS (fun p => p.steps.any fun t => t.flying 0 && decide (t.pkg ≠ sentS.rank)) = true := by decide +kernel
/-! ### Results of single instructions, worked out by hand from the rules named -/

/-- Lane L holds `f L`. -/
def lanes (r : Nat) (f : Nat → Nat) (s : State) : State := setV r (fun L => lane1 (f L)) s
/-- Lane L of v9 after an instruction whose destination it is. -/
def v9 (i : Instr) (s : State) (L : Nat) : Nat := ((after [i] s).cur.vreg 9 L).val.toNat
def s9 (i : Instr) (s : State) : Nat := ((after [i] s).cur.sval 9).toNat
def nstatOf (i : Instr) (s : State) : Nat := (after [i] s).cur.sys.nstat.toNat
/-- R100, R97: a 32-bit sum wraps, and an i32 result enters its register sign-extended. -/
theorem test_sadd_wraps : s9 (.sadd ⟨g0, .i32, 9, 1, .imm 1⟩) (sets [(1, 0x7FFFFFFF)] base) = 0xFFFFFFFF80000000 := by decide +kernel
/-- R99: a shift by the width gives 0, and SAR gives copies of the sign. -/
theorem test_sshl_by_width : s9 (.sshl ⟨g0, .n64, 9, 1, .imm 64⟩) (sets [(1, 5)] base) = 0 := by decide +kernel
theorem test_ssar_by_width : s9 (.ssar ⟨g0, .i64, 9, 1, .imm 64⟩) (sets [(1, 2 ^ 63)] base) = 2 ^ 64 - 1 := by decide +kernel
/-- R99: SSHL.n32 reads its amount from bits 31:0. -/
theorem test_sshl_amount : s9 (.sshl ⟨g0, .n32, 9, 1, .reg 2⟩) (sets [(1, 1), (2, 2 ^ 40 + 3)] base) = 8 := by decide +kernel
/-- R103 and R40: VADDS.i32 of 2^31 − 1 and 1 clamps and sets SAT, bit 2. -/
theorem test_vadds_clamps : v9 (.vadds ⟨l0, .i32, 9, 1, .imm 1⟩) (lanes 1 (fun _ => 0x7FFFFFFF) base) 31 = 0x7FFFFFFF
    ∧ nstatOf (.vadds ⟨l0, .i32, 9, 1, .imm 1⟩) (lanes 1 (fun _ => 0x7FFFFFFF) base) = 4 := by decide +kernel
/-- R103: VSUBS.n32 clamps at 0. -/
theorem test_vsubs_clamps : v9 (.vsubs ⟨l0, .n32, 9, 1, .imm 8⟩) (lanes 1 id base) 7 = 0 ∧ v9 (.vsubs ⟨l0, .n32, 9, 1, .imm 8⟩) (lanes 1 id base) 9 = 1 := by
  decide +kernel
/-- R103: VMULH.i32 of −1 and −1 is 0, VMULH.n32 of the same words 2^32 − 2. -/
theorem test_vmulh : v9 (.vmulh ⟨l0, .i32, 9, 1, .reg 1⟩) (lanes 1 (fun _ => 2 ^ 32 - 1) base) 0 = 0
    ∧ v9 (.vmulh ⟨l0, .n32, 9, 1, .reg 1⟩) (lanes 1 (fun _ => 2 ^ 32 - 1) base) 0 = 2 ^ 32 - 2 := by decide +kernel
/-- R103: VABS of −2^31 is −2^31. -/
theorem test_vabs_min : v9 (.vabs ⟨l0, .i32, 9, 1⟩) (lanes 1 (fun _ => 2 ^ 31) base) 0 = 2 ^ 31 := by decide +kernel
/-- R103: 32 leading zeros of 0, 31 of 1. -/
theorem test_vclz : v9 (.vclz ⟨l0, .n32, 9, 1⟩) (lanes 1 id base) 0 = 32 ∧ v9 (.vclz ⟨l0, .n32, 9, 1⟩) (lanes 1 id base) 1 = 31 := by decide +kernel
/-- R104: bits 31:28 of 0x80000000 under i32, asked for with length 8, are −8. -/
theorem test_vbfe_sign : v9 (.vbfe ⟨l0, .i32, 9, 1, .imm 28 8⟩) (lanes 1 (fun _ => 0x80000000) base) 0 = 0xFFFFFFF8 := by decide +kernel
/-- R105: selectors 0, 7, 8 and 4 from the lowest byte up: byte 0 of x, byte 3 of y, zero, byte 0 of y. -/
theorem test_vperm : v9 (.vperm ⟨l0, .b32, 9, 1, .reg 2, .reg 3⟩)
    (lanes 1 (fun _ => 0x44332211) (lanes 2 (fun _ => 0x88776655) (lanes 3 (fun _ => 0x4870) base))) 5 = 0x55008811 := by decide +kernel
/-- R106: 0x1000 + (3 << 2). -/
theorem test_vlea : v9 (.vlea ⟨l0, 9, 1, .reg 2, 2⟩) (sets [(1, 0x1000)] (lanes 2 id base)) 3 = 0x100C := by decide +kernel
/-- R107: .up by 1 leaves lane 0 its own value; .bfly by 1 exchanges neighbours. -/
theorem test_vshf : v9 (.vshf ⟨l0, .n32, 9, 1, .up 1⟩) (lanes 1 (fun L => L + 10) base) 0 = 10
    ∧ v9 (.vshf ⟨l0, .n32, 9, 1, .up 1⟩) (lanes 1 (fun L => L + 10) base) 31 = 40 ∧ v9 (.vshf ⟨l0, .n32, 9, 1, .bfly 1⟩) (lanes 1 id base) 6 = 7 := by
  decide +kernel
/-- R108: the sum of 0 to 31 is 496; the exclusive scan gives lane 0 the identity and lane 4 the sum 6. -/
theorem test_vred : v9 (.vred ⟨l0, .n32, .add, false, 9, 1⟩) (lanes 1 id base) 17 = 496 := by decide +kernel
theorem test_vscan : v9 (.vscan ⟨l0, .n32, .add, true, 9, 1⟩) (lanes 1 id base) 0 = 0 ∧ v9 (.vscan ⟨l0, .n32, .add, true, 9, 1⟩) (lanes 1 id base) 4 = 6 := by
  decide +kernel
/-- R109: p3 true in lanes 0 and 31. -/
theorem test_vbal : v9 (.vbal ⟨l0, 9, 3⟩) (setP 3 [0, 31] false base) 12 = 0x80000001 := by decide +kernel
/-- R101: −1 is below 1 as i32 and above it as n32. -/
theorem test_vcmp_types : ((after [.vcmp ⟨l0, .i32, .lt, 2, 1, .imm 1⟩] (lanes 1 (fun _ => 2 ^ 32 - 1) base)).cur.preg 2 0).val = true
    ∧ ((after [.vcmp ⟨l0, .n32, .lt, 2, 1, .imm 1⟩] (lanes 1 (fun _ => 2 ^ 32 - 1) base)).cur.preg 2 0).val = false := by decide +kernel
/-- R119: 1 + 2^-24 is a tie, which rounds to the even 1; toward +∞ it is the next f32. -/
theorem test_fadd_ties : v9 (.fadd ⟨l0, .f32, .rn, 9, 1, .reg 2⟩) (lanes 1 (fun _ => 0x3F800000) (lanes 2 (fun _ => 0x33800000) base)) 0 = 0x3F800000
    ∧ v9 (.fadd ⟨l0, .f32, .ru, 9, 1, .reg 2⟩) (lanes 1 (fun _ => 0x3F800000) (lanes 2 (fun _ => 0x33800000) base)) 0 = 0x3F800001 := by decide +kernel
/-- R119 and R31: 0 × ∞ is the canonical NaN and sets NV; R118: twice the largest f32 is +∞ and sets OV. -/
theorem test_fmul_nan : v9 (.fmul ⟨l0, .f32, .rn, 9, 1, .reg 2⟩) (lanes 1 (fun _ => 0) (lanes 2 (fun _ => 0x7F800000) base)) 0 = 0x7FC00000
    ∧ nstatOf (.fmul ⟨l0, .f32, .rn, 9, 1, .reg 2⟩) (lanes 1 (fun _ => 0) (lanes 2 (fun _ => 0x7F800000) base)) = 1 := by decide +kernel
theorem test_fmul_overflow : v9 (.fmul ⟨l0, .f32, .rn, 9, 1, .imm 0x40000000⟩) (lanes 1 (fun _ => 0x7F7FFFFF) base) 0 = 0x7F800000
    ∧ nstatOf (.fmul ⟨l0, .f32, .rn, 9, 1, .imm 0x40000000⟩) (lanes 1 (fun _ => 0x7F7FFFFF) base) = 2 := by decide +kernel
/-- R119: (1 + 2^-12)² − 1 rounded once: 2^-11 + 2^-24. -/
theorem test_ffma_once : v9 (.ffma ⟨l0, .f32, .rn, 9, 1, .reg 1, .reg 2⟩) (lanes 1 (fun _ => 0x3F800800) (lanes 2 (fun _ => 0xBF800000) base)) 0 = 0x3A000400 := by
  decide +kernel
/-- R120: −0 orders below +0, and a NaN gives way to a number. -/
theorem test_fmin : v9 (.fmin ⟨l0, .f32, .rn, 9, 1, .reg 2⟩) (lanes 1 (fun _ => 0) (lanes 2 (fun _ => 0x80000000) base)) 0 = 0x80000000
    ∧ v9 (.fmin ⟨l0, .f32, .rn, 9, 1, .reg 2⟩) (lanes 1 (fun _ => 0x7FC00000) (lanes 2 (fun _ => 5) base)) 0 = 5 := by decide +kernel
/-- R122: a negative subnormal is class 2. -/
theorem test_fclass : v9 (.fclass ⟨l0, .f32, .rn, 9, 1⟩) (lanes 1 (fun _ => 0x80000001) base) 0 = 4 := by decide +kernel
/-- R112: LOOP on 0 wraps and branches; the example's CALL at 0x0007_0018 links 0x0007_0028 and goes to 0x0007_0038. -/
theorem test_loop_wraps : s9 (.loop ⟨g0, 9, 0⟩) (modCur (fun t => { t with clause := some { hdr := 0x70000, header := 0, words := [0, 0], idx := 1 } }) base) = 2 ^ 64 - 1
    ∧ (after [.loop ⟨g0, 9, 0⟩] (modCur (fun t => { t with clause := some { hdr := 0x70000, header := 0, words := [0, 0], idx := 1 } }) base)).cur.pc = 0x70000 := by
  decide +kernel
theorem test_call_links : s9 (.call ⟨g0, 9, 4⟩) (modCur (fun t => { t with clause := some { hdr := 0x70018, header := 0, words := [0], idx := 0 } }) base) = 0x70028
    ∧ (after [.call ⟨g0, 9, 4⟩] (modCur (fun t => { t with clause := some { hdr := 0x70018, header := 0, words := [0], idx := 0 } }) base)).cur.pc = 0x70038 := by
  decide +kernel
/-- R59 and R162: a signed byte load of 0xFE enters its lane as −2. -/
theorem test_load_sign : ((after [.loadDestinationWrite 10] (after ((List.range 32).map fun L => .exactAnswerArrival 10 L zeroReply)
    (after [.ld { ldOps with w := .w8, d := 9 }] s2))).cur.vreg 9 3).val = 0xFFFFFFFE := by decide +kernel

end Sys2Proof.Tests
end

/-! ## Bits, widths and results of types -/

namespace Sys2Proof

/-- Two's complement reading is the balanced remainder (R28). -/
theorem toSigned_eq_bmod (w x : Nat) : toSigned w x = Int.bmod x (2 ^ w) := by
  have hcast : ((x : Int) % (2 ^ w : Nat)) = ((x % 2 ^ w : Nat) : Int) := (Int.natCast_emod _ _).symm
  simp only [toSigned, Int.bmod, hcast]
  generalize x % 2 ^ w = r
  generalize hm : 2 ^ w = m
  have hc : (2 : Int) ^ w = (m : Int) := by rw [← hm]; norm_cast
  rw [hc]
  split <;> split <;> omega

theorem bitsAt_eq_div (x lo n : Nat) : bitsAt x lo n = x / 2 ^ lo % 2 ^ n := by
  rw [bitsAt, Nat.shiftRight_eq_div_pow]
theorem bitsAt_lt (x lo n : Nat) : bitsAt x lo n < 2 ^ n := Nat.mod_lt _ (Nat.two_pow_pos n)
theorem wrapTo_lt (w : Nat) (z : Int) : wrapTo w z < 2 ^ w := by
  have hpos : (0 : Int) < 2 ^ w := by positivity
  have hlt := Int.emod_lt_of_pos z hpos
  have hge := Int.emod_nonneg z hpos.ne'
  rw [wrapTo, Int.toNat_lt hge]
  exact_mod_cast hlt

/-! ### Numbers given by their bits -/

theorem bitsOf_succ (n : Nat) (f : Nat → Bool) : bitsOf (n + 1) f = if f n then bitsOf n f + 2 ^ n else bitsOf n f := by
  simp [bitsOf, List.range_succ, List.foldl_append]
theorem bitsOf_lt (n : Nat) (f : Nat → Bool) : bitsOf n f < 2 ^ n := by
  induction n with
  | zero => simp [bitsOf]
  | succ n ih =>
    rw [bitsOf_succ, Nat.pow_succ]
    split <;> omega
/-- Bit `i` of a number given by its bits. -/
@[simp] theorem testBit_bitsOf (n : Nat) (f : Nat → Bool) (i : Nat) : (bitsOf n f).testBit i = (decide (i < n) && f i) := by
  induction n with
  | zero => simp [bitsOf]
  | succ n ih =>
    have hsplit : bitsOf (n + 1) f = 2 ^ n * (f n).toNat + bitsOf n f := by
      rw [bitsOf_succ]; cases f n <;> simp [Nat.add_comm]
    rw [hsplit, Nat.testBit_two_pow_mul_add _ (bitsOf_lt n f)]
    rcases Nat.lt_trichotomy i n with hi | rfl | hi
    · rw [if_pos hi, ih, decide_eq_true hi, decide_eq_true (by omega)]
    · cases f i <;> simp
    · have hone : (f n).toNat < 2 ^ (i - n) :=
        (Bool.toNat_lt (f n)).trans_le (Nat.le_self_pow (by omega) 2)
      rw [if_neg hi.not_gt, Nat.testBit_lt_two_pow hone, decide_eq_false (by omega), Bool.false_and]

namespace Machine

/-! ### Values under a type -/

theorem intVal_eq_intValue (ty : IntTy) (x : Nat) : intVal ty x = intValue ty x := by
  rw [intVal, intValue, toSigned_eq_bmod]
/-- The value of an operand under any type is its bits modulo the width. -/
theorem intValue_modEq (ty : IntTy) (x : Nat) : intValue ty x ≡ x [ZMOD 2 ^ ty.bits] := by
  unfold intValue
  split
  · have := Int.bmod_emod (x := (x : Int)) (m := 2 ^ ty.bits)
    exact_mod_cast this
  · rfl
theorem reduced_congr {ty : IntTy} {a b : Int} (h : a ≡ b [ZMOD 2 ^ ty.bits]) : reduced ty a = reduced ty b := by
  rw [reduced, reduced, h.eq]
theorem reduced_natCast (ty : IntTy) (x : Nat) : reduced ty x = x % 2 ^ ty.bits := by
  have : (x : Int) % 2 ^ ty.bits = ((x % 2 ^ ty.bits : Nat) : Int) := by push_cast; rfl
  rw [reduced, this, Int.toNat_natCast]
/-- A number of the type's width is its own residue. -/
theorem reduced_of_lt {ty : IntTy} {x : Nat} (h : x < 2 ^ ty.bits) : reduced ty x = x := by
  rw [reduced_natCast, Nat.mod_eq_of_lt h]
theorem wrapTo_bits (ty : IntTy) (z : Int) : wrapTo ty.bits z = reduced ty z := rfl

/-- A condition on two operands is the condition on their values (R101). -/
theorem condHolds_iff (c : Cond) (ty : IntTy) (x y : Nat) :
    c.holds ty x y = true ↔ condOn c (intValue ty x) (intValue ty y) := by
  cases c <;> simp [Cond.holds, condOn, intVal_eq_intValue]

/-! ### Operands stay within the width -/

/-- An operand of one or two registers fits the width of its type (R27). -/
theorem Team.vval_lt (t : Team) (ty : IntTy) (r L : Nat) : (t.vval ty.regs r L).1 < 2 ^ ty.bits := by
  have hlo := (t.vreg r L).val.isLt
  have hhi := (t.vreg (r + 1) L).val.isLt
  cases ty <;> simp [Team.vval, IntTy.regs, IntTy.bits] <;> omega
theorem Team.sread_lt (t : Team) (w r : Nat) : (t.sread w r).1 < 2 ^ w := Nat.mod_lt _ (Nat.two_pow_pos w)
theorem immAt_lt (ty : IntTy) {n : Nat} (x : Nat) (hn : n ≤ ty.bits) : immAt ty n x < 2 ^ ty.bits := by
  unfold immAt
  split
  · exact wrapTo_lt _ _
  · exact (Nat.mod_lt _ (Nat.two_pow_pos n)).trans_le (Nat.pow_le_pow_right (by decide) hn)
theorem thirtyTwo_le_bits (ty : IntTy) : 32 ≤ ty.bits := by cases ty <;> decide
/-- A source of any form fits the width of its type (R58). -/
theorem Team.vsrc_lt (t : Team) (ty : IntTy) (b : VSrc) (L : Nat) : (t.vsrc ty b L).1 < 2 ^ ty.bits := by
  cases b with
  | reg v => exact t.vval_lt ty v.val L
  | bcast r => exact t.sread_lt ty.bits r.val
  | imm x => exact immAt_lt ty _ (thirtyTwo_le_bits ty)
theorem Team.vsrc16_lt (t : Team) (ty : IntTy) (b : VSrc16) (L : Nat) : (t.vsrc16 ty b L).1 < 2 ^ ty.bits := by
  cases b with
  | reg v => exact t.vval_lt ty v.val L
  | bcast r => exact t.sread_lt ty.bits r.val
  | imm x => exact immAt_lt ty _ ((by decide : 16 ≤ 32).trans (thirtyTwo_le_bits ty))

/-! ### Instructions that end in one register write -/

/-- An instruction whose meaning is one vector write gives the results it writes. -/
theorem vectorResult_of_writeVal {i : Instr} {s : State} {g : LaneGuard} {ty : IntTy} {n : Nat} {d : Fin 256} {f : Nat → Val}
    {z : Nat → Int} {tint : Nat → Bool} (hn : ty.regs = n) (he : exec i s = finish (.next (s.writeVal g n d.val f)))
    (hf : ∀ L, f L = (reduced ty (z L), tint L)) : vectorResult i s g ty d z tint := by
  subst hn
  have hw := s.wroteV_val g ty.regs d.val f 0 (IntTy.regs_cases ty)
  rw [State.addFlags_zero, funext hf] at hw
  rw [funext hf] at he
  exact ⟨_, he, hw⟩
/-- An instruction whose meaning is one write of a vector predicate gives the bits it writes. -/
theorem predResult_of_writeP {i : Instr} {s : State} {g : LaneGuard} {d : Fin 8} {f : Nat → PCell}
    (he : exec i s = finish (.next (s.writeP g d.val f))) (hd : d ≠ 0) : predResult i s g d f :=
  ⟨_, he, s.wroteP_writeP g d.val f (Fin.val_ne_zero_iff.mpr hd)⟩
/-- An instruction whose meaning is one write of a scalar predicate gives the bit it writes. -/
theorem completes_of_setQ {i : Instr} {s : State} {d : Nat} {c : PCell} (he : exec i s = finish (.next (s.setQ d c))) :
    Completes i s fun t => s.wroteQ t d c :=
  ⟨_, he, s.wroteQ_setQ d c⟩

end Machine

end Sys2Proof

/-! ## Three sources and bit fields (O7) -/

namespace Sys2Proof

/-- A number whose low part, field and high part are given is the sum of the three (R104). -/
theorem testBit_insert {d f pos l : Nat} (hf : f < 2 ^ l) (i : Nat) :
    (d % 2 ^ pos + f * 2 ^ pos + d / 2 ^ (pos + l) * 2 ^ (pos + l)).testBit i
      = if pos ≤ i ∧ i < pos + l then f.testBit (i - pos) else d.testBit i := by
  have hd : d % 2 ^ pos < 2 ^ pos := Nat.mod_lt _ (Nat.two_pow_pos pos)
  have hlow : 2 ^ pos * f + d % 2 ^ pos < 2 ^ (pos + l) := by
    rw [Nat.pow_add]
    calc 2 ^ pos * f + d % 2 ^ pos < 2 ^ pos * f + 2 ^ pos := by omega
      _ = 2 ^ pos * (f + 1) := by ring
      _ ≤ 2 ^ pos * 2 ^ l := Nat.mul_le_mul_left _ hf
  have hsum : d % 2 ^ pos + f * 2 ^ pos + d / 2 ^ (pos + l) * 2 ^ (pos + l)
      = 2 ^ (pos + l) * (d / 2 ^ (pos + l)) + (2 ^ pos * f + d % 2 ^ pos) := by ring
  rw [hsum, Nat.testBit_two_pow_mul_add _ hlow, Nat.testBit_two_pow_mul_add _ hd, Nat.testBit_mod_two_pow,
    Nat.testBit_div_two_pow]
  by_cases hhigh : i < pos + l
  · by_cases hin : pos ≤ i
    · rw [if_pos hhigh, if_neg hin.not_gt, if_pos ⟨hin, hhigh⟩]
    · rw [if_pos hhigh, if_pos (not_le.mp hin), if_neg (fun h => hin h.1), decide_eq_true (not_le.mp hin), Bool.true_and]
  · rw [if_neg hhigh, if_neg (fun h => hhigh h.2), Nat.sub_add_cancel (not_lt.mp hhigh)]

namespace Machine

/-! ### VPERM (R105) -/

theorem toNat_append_eq {m n : Nat} (x : BitVec m) (y : BitVec n) : (x ++ y).toNat = y.toNat + x.toNat * 2 ^ n := by
  rw [BitVec.toNat_append, ← Nat.shiftLeft_add_eq_or_of_lt y.isLt, Nat.shiftLeft_eq, Nat.add_comm]
/-- The selected byte is the model's byte `k` of a permutation. -/
theorem toNat_selByte {x y z k : Nat} (hx : x < 2 ^ 32) (hy : y < 2 ^ 32) (hk : k < 4) :
    (selByte (BitVec.ofNat 32 x) (BitVec.ofNat 32 y) ((BitVec.ofNat 32 z).extractLsb' (4 * k) 4).toNat).toNat
      = permByte x y z k := by
  have hn : ((BitVec.ofNat 32 z).extractLsb' (4 * k) 4).toNat = bitsAt z (4 * k) 4 := by
    rw [BitVec.extractLsb'_toNat, BitVec.toNat_ofNat, bitsAt]
    apply Nat.eq_of_testBit_eq
    intro i
    simp only [Nat.testBit_mod_two_pow, Nat.testBit_shiftRight]
    by_cases hi : i < 4
    · simp [hi, show 4 * k + i < 32 by omega]
    · simp [hi]
  rw [hn, selByte, permByte]
  split
  · rw [BitVec.extractLsb'_toNat, toNat_append_eq, BitVec.toNat_ofNat, BitVec.toNat_ofNat, Nat.mod_eq_of_lt hx,
      Nat.mod_eq_of_lt hy, Nat.mul_comm]
    rfl
  · rfl
/-- The four terms of a sum, the term a variable so that no power of two is unfolded. -/
theorem foldl_range_four (f : Nat → Nat) : (List.range 4).foldl (fun a k => a + f k) 0 = f 0 + f 1 + f 2 + f 3 := by
  simp [List.range_succ]
theorem toNat_selBytes {x y z : Nat} (hx : x < 2 ^ 32) (hy : y < 2 ^ 32) :
    (selBytes (BitVec.ofNat 32 x) (BitVec.ofNat 32 y) (BitVec.ofNat 32 z)).toNat
      = (List.range 4).foldl (fun a k => a + permByte x y z k * 2 ^ (8 * k)) 0 := by
  have hbyte := fun k (hk : k < 4) => toNat_selByte (z := z) hx hy hk
  rw [foldl_range_four, ← hbyte 0 (by decide), ← hbyte 1 (by decide), ← hbyte 2 (by decide), ← hbyte 3 (by decide), selBytes]
  simp only [toNat_append_eq]
  ring

/-! ### Multiply-add, selection and displacement (R103, R106) -/

theorem vmad_result (s : State) (o : VTriOps) :
    vectorResult (.vmad o) s o.g o.ty o.d
      (fun L => intValue o.ty (s.cur.vval o.ty.regs o.a.val L).1 * intValue o.ty (s.cur.vsrc o.ty o.b L).1
        + intValue o.ty (s.cur.vsrc o.ty o.c L).1)
      (fun L => (s.cur.vval o.ty.regs o.a.val L).2 || (s.cur.vsrc o.ty o.b L).2 || (s.cur.vsrc o.ty o.c L).2) := by
  refine vectorResult_of_writeVal rfl rfl fun L => Prod.ext ?_ rfl
  have hmod := ((intValue_modEq o.ty (s.cur.vval o.ty.regs o.a.val L).1).mul (intValue_modEq o.ty (s.cur.vsrc o.ty o.b L).1)).add
    (intValue_modEq o.ty (s.cur.vsrc o.ty o.c L).1)
  rw [reduced_congr hmod]
  exact_mod_cast (reduced_natCast o.ty _).symm
theorem vperm_result (s : State) (o : VTriOps) (hty : o.ty = .b32) :
    vectorResult (.vperm o) s o.g o.ty o.d
      (fun L => (selBytes (BitVec.ofNat 32 (s.cur.vval o.ty.regs o.a.val L).1) (BitVec.ofNat 32 (s.cur.vsrc o.ty o.b L).1)
        (BitVec.ofNat 32 (s.cur.vsrc o.ty o.c L).1)).toNat)
      (fun L => (s.cur.vval o.ty.regs o.a.val L).2 || (s.cur.vsrc o.ty o.b L).2 || (s.cur.vsrc o.ty o.c L).2) := by
  have hbits : o.ty.bits = 32 := by rw [hty]; rfl
  have hregs : o.ty.regs = 1 := by rw [hty]; rfl
  have hx := fun L => s.cur.vval_lt o.ty o.a.val L
  have hy := fun L => s.cur.vsrc_lt o.ty o.b L
  rw [hregs] at hx ⊢
  rw [hbits] at hx hy
  refine vectorResult_of_writeVal hregs rfl fun L => Prod.ext ?_ rfl
  rw [reduced_of_lt (by rw [hbits]; exact BitVec.isLt _)]
  exact (toNat_selBytes (hx L) (hy L)).symm
theorem vsel_result (s : State) (o : VSelOps) :
    vectorResult (.vsel o) s o.g o.ty o.d
      (fun L => ((if (s.cur.preg o.c.val L).val then s.cur.vval o.ty.regs o.a.val L else s.cur.vsrc16 o.ty o.b L).1 : Nat))
      (fun L => (if (s.cur.preg o.c.val L).val then s.cur.vval o.ty.regs o.a.val L else s.cur.vsrc16 o.ty o.b L).2
        || (s.cur.preg o.c.val L).tint) := by
  refine vectorResult_of_writeVal rfl rfl fun L => Prod.ext ?_ rfl
  refine (reduced_of_lt ?_).symm
  dsimp only
  split
  · exact s.cur.vval_lt o.ty o.a.val L
  · exact s.cur.vsrc16_lt o.ty o.b L
theorem vlea_result (s : State) (o : VLeaOps) :
    vectorResult (.vlea o) s o.g .i32 o.d
      (fun L => ((s.cur.sval o.a).toNat + (s.cur.vsrc .i32 o.b L).1 * 2 ^ o.k.val : Nat))
      (fun L => (s.cur.sreg o.a.val).tint || (s.cur.vsrc .i32 o.b L).2) := by
  refine vectorResult_of_writeVal rfl rfl fun L => Prod.ext ?_ rfl
  have hread : (s.cur.sread 64 o.a.val).1 = (s.cur.sval o.a).toNat := Nat.mod_eq_of_lt (BitVec.isLt _)
  rw [reduced_natCast, ← hread]
  rfl

/-- Multiply-add, permutation, selection and displacement (R103, R105, R106). -/
theorem vectorThreeSources : Claims.VectorThreeSources :=
  ⟨fun s o => ⟨vmad_result s o, vperm_result s o⟩, vsel_result, vlea_result⟩

/-! ### Bit fields (R104) -/

/-- The extracted field, sign-extended under a signed type. -/
theorem extract_eq_reduced {ty : IntTy} (hty : ty.bits = 32) {l : Nat} (hl : l ≤ 32) {x pos : Nat} :
    (if ty.signed && l != 0 then wrapTo 32 (toSigned l (bitsAt x pos l)) else bitsAt x pos l)
      = reduced ty (if ty.signed ∧ l ≠ 0 then Int.bmod (x / 2 ^ pos % 2 ^ l : Nat) (2 ^ l) else (x / 2 ^ pos % 2 ^ l : Nat)) := by
  have hlt : bitsAt x pos l < 2 ^ ty.bits := by
    rw [hty]
    exact (bitsAt_lt x pos l).trans_le (Nat.pow_le_pow_right (by decide) hl)
  rw [← bitsAt_eq_div]
  by_cases hs : ty.signed = true ∧ l ≠ 0
  · rw [if_pos (by simpa using hs), if_pos hs, toSigned_eq_bmod, ← wrapTo_bits, hty]
  · rw [if_neg (by simpa using hs), if_neg hs, reduced_of_lt hlt]
/-- The destination with the field inserted. -/
theorem insert_eq_reduced {ty : IntTy} (hty : ty.bits = 32) {pos l : Nat} (hl : pos + l ≤ 32) (x d : Lane) :
    d.toNat % 2 ^ pos + bitsAt x.toNat 0 l * 2 ^ pos + d.toNat / 2 ^ (pos + l) * 2 ^ (pos + l)
      = reduced ty (bitsOf 32 (fun b => if pos ≤ b ∧ b < pos + l then x.getLsbD (b - pos) else d.getLsbD b) : Nat) := by
  rw [reduced_of_lt (by rw [hty]; exact bitsOf_lt 32 _)]
  apply Nat.eq_of_testBit_eq
  intro i
  rw [testBit_insert (bitsAt_lt _ _ _), testBit_bitsOf]
  by_cases hin : pos ≤ i ∧ i < pos + l
  · have hfield : (bitsAt x.toNat 0 l).testBit (i - pos) = x.getLsbD (i - pos) := by
      rw [bitsAt_eq_div, Nat.testBit_mod_two_pow, decide_eq_true (by omega)]
      simp [BitVec.testBit_toNat]
    rw [if_pos hin, if_pos hin, hfield, decide_eq_true (by omega), Bool.true_and]
  · rw [if_neg hin, if_neg hin, BitVec.testBit_toNat]
    by_cases hi : i < 32
    · rw [decide_eq_true hi, Bool.true_and]
    · rw [decide_eq_false hi, Bool.false_and, BitVec.getLsbD_of_ge _ _ (not_lt.mp hi)]

/-- VBFE and VBFI at the position and length that the operands give (R104). -/
theorem bitFields : Claims.BitFields := by
  intro s o hty pos len tint l x d f
  have hregs : o.ty.regs = 1 := by rw [IntTy.regs, hty]
  have hfield : ∀ L, s.cur.field o L = (pos L, l L, tint L) := by
    obtain ⟨g, ty, dst, src, field⟩ := o
    cases field with
    | src b c => exact fun L => rfl
    | imm p n => exact fun L => rfl
  have hpos : ∀ L, pos L < 32 := by
    obtain ⟨g, ty, dst, src, field⟩ := o
    cases field with
    | src b c => exact fun L => Nat.mod_lt _ (by decide)
    | imm p n => exact fun L => p.isLt
  have hl : ∀ L, pos L + l L ≤ 32 := fun L => by
    have := hpos L
    have : l L ≤ 32 - pos L := Nat.min_le_right _ _
    omega
  constructor
  · refine vectorResult_of_writeVal hregs rfl fun L => ?_
    rw [hfield]
    exact Prod.ext (extract_eq_reduced hty (Nat.le_of_add_left_le (hl L))) rfl
  · refine vectorResult_of_writeVal hregs rfl fun L => ?_
    rw [hfield]
    exact Prod.ext (insert_eq_reduced hty (hl L) (x L).val (d L).val) rfl

/-- Settles O7: each instruction is one vector write, and each lane's number is the result that the table gives. -/
theorem vectorFields : Obligations.VectorFields := ⟨vectorThreeSources, bitFields⟩

end Machine

end Sys2Proof

/-! ## Comparisons and predicate instructions (O9) -/

namespace Sys2Proof.Machine

/-- VCMP and FCMP write the condition of each active lane (R101, R103, R121). -/
theorem comparisons : Claims.Comparisons := by
  refine ⟨fun s o hd => ?_, fun s o hd => predResult_of_writeP rfl hd⟩
  exact ⟨_, fun L => condHolds_iff o.c o.ty _ _, predResult_of_writeP rfl hd⟩

/-- A lane-wise predicate operation on a vector or a scalar destination (R110). -/
theorem predicate_of_pop {i : Instr} {s : State} {g : LaneGuard} {d : PredReg} {r : Nat → PCell}
    (he : exec i s = finish (.next (s.pop g d r))) :
    (∀ p, d = .p p → p ≠ 0 → predResult i s g p r)
    ∧ ∀ q, d = .q q → Completes i s fun t => s.wroteQ t q.val { r 0 with tint := (r 0).tint || s.cur.ctlAny } := by
  constructor
  · rintro p rfl hp
    exact predResult_of_writeP he hp
  · rintro q rfl
    exact completes_of_setQ he

/-- The two-source, one-source and team-wide predicate instructions (R110, R111). -/
theorem predicates : Claims.Predicates := by
  refine ⟨?_, ?_, ?_⟩
  · rintro s o f i (⟨rfl, rfl⟩ | ⟨rfl, rfl⟩ | ⟨rfl, rfl⟩)
    · exact predicate_of_pop rfl
    · exact predicate_of_pop rfl
    · exact predicate_of_pop rfl
  · rintro s o f i (⟨rfl, rfl⟩ | ⟨rfl, rfl⟩)
    · exact predicate_of_pop rfl
    · exact predicate_of_pop rfl
  · intro s o
    exact ⟨⟨_, List.any_eq_true, completes_of_setQ rfl⟩, ⟨_, List.all_eq_true, completes_of_setQ rfl⟩⟩

/-- Settles O9: each instruction is one predicate write, of the condition or of the operation on its sources. -/
theorem compareAndPredicates : Obligations.CompareAndPredicates := ⟨comparisons, predicates⟩

end Sys2Proof.Machine

/-! ## The mask stack and EXIT (O14) -/

namespace Sys2Proof

/-- A key that does not read as the default is listed with what it reads as. -/
theorem SMap.mem_of_get_ne {α : Type} {d : α} {m : SMap α} {k : Nat} (h : SMap.get d m k ≠ d) : (k, SMap.get d m k) ∈ m := by
  induction m with
  | nil => exact absurd rfl h
  | cons p m ih =>
    obtain ⟨j, x⟩ := p
    rw [SMap.get] at h ⊢
    by_cases hj : j = k
    · rw [if_pos hj, hj]; exact List.mem_cons_self
    · rw [if_neg hj] at h ⊢
      exact List.mem_cons_of_mem _ (ih h)
/-- A read after every key of a list has been changed in place by a function that does nothing twice. -/
theorem SMap.get_foldl_modify {α : Type} [DecidableEq α] (d : α) (f : α → α) (hf : ∀ x, f (f x) = f x) (ps : List (Nat × α))
    (m : SMap α) (k : Nat) :
    SMap.get d (ps.foldl (fun m p => SMap.set d m p.1 (f (SMap.get d m p.1))) m) k
      = if k ∈ ps.map Prod.fst then f (SMap.get d m k) else SMap.get d m k := by
  induction ps generalizing m with
  | nil => simp
  | cons p ps ih =>
    rw [List.foldl_cons, ih, SMap.get_set, List.map_cons]
    by_cases hk : k = p.1
    · subst hk
      simp [hf]
    · rw [if_neg hk]
      simp only [List.mem_cons, hk, false_or]

namespace Machine

/-! ### Lane sets -/

/-- A lane set given by a predicate on the lanes of a team. -/
theorem getLsbD_laneSet (n : Nat) (f : Nat → Bool) {L : Nat} (hL : L < 1024) :
    (BitVec.ofNat 1024 (bitsOf n f)).getLsbD L = (decide (L < n) && f L) := by
  rw [BitVec.getLsbD_ofNat, decide_eq_true hL, Bool.true_and, testBit_bitsOf]
/-- A lane set is empty when its predicate holds in no lane of the team, of which 1,024 count. -/
theorem laneSet_eq_zero_iff (n : Nat) (f : Nat → Bool) (hf : ∀ L, 1024 ≤ L → f L = false) :
    BitVec.ofNat 1024 (bitsOf n f) = 0 ↔ ∀ L, L < n → f L = false := by
  constructor
  · intro h L hL
    by_cases hlt : L < 1024
    · simpa [h, hL] using (getLsbD_laneSet n f hlt).symm
    · exact hf L (not_lt.mp hlt)
  · intro h
    apply BitVec.eq_of_getLsbD_eq
    intro L hlt
    rw [getLsbD_laneSet n f hlt]
    by_cases hL : L < n
    · simp [h L hL]
    · simp [hL]

/-! ### A control transfer -/

/-- Under a guard that is true and untinted a control transfer acts. -/
theorem State.transfer_goes {s : State} {g : TeamGuard} (hv : (s.cur.tguard g).val = true) (ht : (s.cur.tguard g).tint = false)
    (k : State → Eff) : s.transfer g none k = k s := by
  simp [State.transfer, hv, ht]

/-! ### BRD and JOIN (R93) -/

/-- Lane `L` enters the region of a BRD: `e(L)` of R93, within the mask. -/
def Team.brdEnters (t : Team) (o : BrdOps) (L : Nat) : Bool :=
  t.mask.getLsbD L && (t.lguard o.g L).val && xor (t.preg o.p.val L).val o.sense
/-- The decision of lane `L` rests on a guess: `t(L)` of R93, within the mask. -/
def Team.brdGuesses (t : Team) (o : BrdOps) (L : Nat) : Bool :=
  t.mask.getLsbD L && ((t.preg o.p.val L).tint || (t.lguard o.g L).tint)

theorem Team.brdEnter_eq (t : Team) (o : BrdOps) : t.brdEnter o = BitVec.ofNat 1024 (bitsOf t.lanes (t.brdEnters o)) := by
  simp only [Team.brdEnter, Bool.bne_eq_xor]
  rfl
theorem Team.brdTint_eq (t : Team) (o : BrdOps) : t.brdTint o = BitVec.ofNat 1024 (bitsOf t.lanes (t.brdGuesses o)) := rfl
/-- A region is skipped when no lane enters it and none decides by a guess. -/
theorem Team.brd_skips_iff (t : Team) (o : BrdOps) :
    t.brdEnter o = 0 ∧ t.brdTint o = 0 ↔ ∀ L, L < t.lanes → t.brdEnters o L = false ∧ t.brdGuesses o L = false := by
  have hout : ∀ L, 1024 ≤ L → t.mask.getLsbD L = false := fun L hL => BitVec.getLsbD_of_ge _ _ hL
  rw [t.brdEnter_eq, t.brdTint_eq, laneSet_eq_zero_iff _ _ fun L hL => by simp [Team.brdEnters, hout L hL],
    laneSet_eq_zero_iff _ _ fun L hL => by simp [Team.brdGuesses, hout L hL]]
  exact ⟨fun h L hL => ⟨h.1 L hL, h.2 L hL⟩, fun h => ⟨fun L hL => (h L hL).1, fun L hL => (h L hL).2⟩⟩
theorem brd_jumps_of_skips {s : State} {o : BrdOps} (h : s.cur.brdEnter o = 0 ∧ s.cur.brdTint o = 0) :
    Jumps (.brd o) s s.cur (s.cur.target o.off) :=
  congrArg finish (if_pos h)
theorem brd_traps_of_full {s : State} {o : BrdOps} (h : ¬(s.cur.brdEnter o = 0 ∧ s.cur.brdTint o = 0))
    (hfull : 32 ≤ s.cur.stack.length) : Traps (.brd o) s (Trap.of cStackOver 0) :=
  congrArg finish ((if_neg h).trans (if_pos hfull))
theorem brd_jumps_of_enters {s : State} {o : BrdOps} (h : ¬(s.cur.brdEnter o = 0 ∧ s.cur.brdTint o = 0))
    (hroom : s.cur.stack.length < 32) :
    Jumps (.brd o) s { s.cur with
      stack := { target := s.cur.target o.off, mask := s.cur.mask, ctl := s.cur.ctl } :: s.cur.stack,
      mask := s.cur.brdEnter o, ctl := s.cur.ctl ||| s.cur.brdTint o } s.cur.nextClause :=
  congrArg finish ((if_neg h).trans (if_neg hroom.not_ge))

/-- BRD skips, traps or enters its region, and JOIN leaves it (R92, R93). -/
theorem maskStack : Claims.MaskStack := by
  refine ⟨fun s o => ?_, fun s g hv ht => ?_⟩
  · refine ⟨fun h => brd_jumps_of_skips ((s.cur.brd_skips_iff o).mpr h), ?_⟩
    rintro ⟨L, hL, hor⟩
    have henters : ¬(s.cur.brdEnter o = 0 ∧ s.cur.brdTint o = 0) := fun hskip => by
      obtain ⟨he, hg⟩ := (s.cur.brd_skips_iff o).mp hskip L hL
      exact hor.elim (fun h => Bool.false_ne_true (he.symm.trans h)) (fun h => Bool.false_ne_true (hg.symm.trans h))
    refine ⟨brd_traps_of_full henters, fun hroom => ⟨_, _, fun L hL => ?_, brd_jumps_of_enters henters hroom⟩⟩
    rw [BitVec.getLsbD_or, s.cur.brdEnter_eq, s.cur.brdTint_eq, getLsbD_laneSet _ _ hL, getLsbD_laneSet _ _ hL]
    exact ⟨rfl, rfl⟩
  · have hexec : exec (.join g) s = finish _ := congrArg finish (State.transfer_goes hv ht _)
    constructor
    · intro hempty
      rw [hempty] at hexec
      exact hexec
    · intro e rest hstack
      rw [hstack] at hexec
      exact hexec

/-! ### EXIT (R113) -/

/-- A stack entry once the lanes of a set have retired. -/
def StackEntry.without (gone : LaneSet) (e : StackEntry) : StackEntry := { e with mask := e.mask &&& ~~~gone }

/-- Entries without lanes are popped. -/
theorem popLive_append {l r : List StackEntry} (h : ∀ x ∈ l, x.mask = 0) : popLive (l ++ r) = popLive r := by
  induction l with
  | nil => rfl
  | cons x l ih =>
    rw [List.cons_append, popLive, if_pos (h x List.mem_cons_self)]
    exact ih fun y hy => h y (List.mem_cons_of_mem _ hy)
theorem popLive_cons_live {e : StackEntry} (h : e.mask ≠ 0) (l : List StackEntry) : popLive (e :: l) = some (e, l) := by
  rw [popLive, if_neg h]
/-- Where the team goes on: the first entry with lanes left. -/
theorem popLive_without {gone : LaneSet} {l rest : List StackEntry} {e : StackEntry}
    (hl : ∀ x ∈ l, (x.without gone).mask = 0) (he : (e.without gone).mask ≠ 0) :
    popLive ((l ++ e :: rest).map (StackEntry.without gone)) = some (e.without gone, rest.map (StackEntry.without gone)) := by
  rw [List.map_append, List.map_cons, popLive_append (by simpa using hl), popLive_cons_live he]
theorem popLive_without_none {gone : LaneSet} {l : List StackEntry} (hl : ∀ x ∈ l, (x.without gone).mask = 0) :
    popLive (l.map (StackEntry.without gone)) = none := by
  rw [← List.append_nil (l.map _), popLive_append (by simpa using hl), popLive]

/-- The tints of the lanes of a set vanish, and every other tint and every value stays (R158). -/
theorem Team.vreg_untint (t : Team) (gone : LaneSet) (r : Nat) {L : Nat} (hL : L < 1024) :
    (t.untint gone).vreg r L = { t.vreg r L with tint := (t.vreg r L).tint && !gone.getLsbD L } := by
  have hlane : (1024 * r + L) % 1024 = L := by omega
  have hget := SMap.get_foldl_modify VCell.zero (fun c => { c with tint := false }) (fun _ => rfl)
    (t.v.filter fun p => p.2.tint && gone.getLsbD (p.1 % 1024)) t.v (1024 * r + L)
  refine hget.trans ?_
  by_cases hmem : 1024 * r + L ∈ (t.v.filter fun p => p.2.tint && gone.getLsbD (p.1 % 1024)).map Prod.fst
  · obtain ⟨p, hp, hkey⟩ := List.mem_map.mp hmem
    have hgone : gone.getLsbD L = true := by
      have := (List.mem_filter.mp hp).2
      rw [hkey, hlane] at this
      exact (Bool.and_eq_true_iff.mp this).2
    rw [if_pos hmem, hgone]
    simp [Team.vreg]
  · rw [if_neg hmem]
    have hkept : ((t.vreg r L).tint && gone.getLsbD L) = false := by
      by_contra hboth
      obtain ⟨htint, hgone⟩ := Bool.and_eq_true_iff.mp (Bool.eq_true_of_not_eq_false hboth)
      have hne : SMap.get VCell.zero t.v (1024 * r + L) ≠ VCell.zero := fun h => by
        rw [Team.vreg, h] at htint
        exact Bool.false_ne_true htint
      refine hmem (List.mem_map.mpr ⟨_, List.mem_filter.mpr ⟨SMap.mem_of_get_ne hne, ?_⟩, rfl⟩)
      exact Bool.and_eq_true_iff.mpr ⟨htint, by rw [hlane]; exact hgone⟩
    show t.vreg r L = _
    generalize t.vreg r L = c at hkept ⊢
    obtain ⟨x, tint⟩ := c
    cases tint <;> simp_all

/-- The team after an EXIT that leaves lanes: it goes on at entry `e`, above `rest`. -/
def Team.exitTo (t : Team) (e : StackEntry) (rest : List StackEntry) : Team :=
  { t.untint t.mask with sys := t.sys.drop (t.tintedLanes t.mask), stack := rest, mask := e.mask, ctl := e.ctl }
/-- The team after an EXIT that leaves no lane, with the tile tints to count (R158). -/
def Team.exitAll (t : Team) (tiles : Nat) : Team :=
  { t.untint t.mask with
    s := untintS t.s, p := untintP t.p, q := untintP t.q, stack := [], mask := 0, ctl := 0, state := .exiting, clause := none,
    sys := (t.sys.drop (t.tintedLanes t.mask)).drop (t.tintedRest + tiles) }
theorem Team.exitLanes_of_live {t : Team} {e : StackEntry} {rest : List StackEntry}
    (h : popLive (t.stack.map (StackEntry.without t.mask)) = some (e, rest)) (tiles : Nat) :
    t.exitLanes tiles = (t.exitTo e rest, some e.target) := by
  unfold Team.exitLanes
  dsimp only
  split
  case h_1 heq => cases heq.symm.trans h; rfl
  case h_2 heq => cases heq.symm.trans h
theorem Team.exitLanes_of_none {t : Team} (h : popLive (t.stack.map (StackEntry.without t.mask)) = none) (tiles : Nat) :
    t.exitLanes tiles = (t.exitAll tiles, none) := by
  unfold Team.exitLanes
  dsimp only
  split
  case h_1 heq => cases heq.symm.trans h
  case h_2 heq => rfl

section
variable {s : State} {g : TeamGuard} (hv : (s.cur.tguard g).val = true) (ht : (s.cur.tguard g).tint = false)
  (hc : s.cur.ctlMask = false)
include hv ht hc

/-- EXIT with lanes left in an entry: the program counter moves to the first such entry. -/
theorem exit_of_live {e : StackEntry} {rest : List StackEntry}
    (h : popLive (s.cur.stack.map (StackEntry.without s.cur.mask)) = some (e, rest)) :
    exec (.exit g) s = finish (.goto { s with cur := s.cur.exitTo e rest } e.target) := by
  refine congrArg finish ((State.transfer_goes hv ht _).trans ?_)
  simp only [hc, Team.exitLanes_of_live h, Bool.false_eq_true, if_false]
/-- EXIT of the last lanes: the team stands where it is. -/
theorem exit_of_none (h : popLive (s.cur.stack.map (StackEntry.without s.cur.mask)) = none) :
    exec (.exit g) s = finish (.hold { s with
      cur := { s.cur.exitAll ((List.range 8).filter s.tileTinted).length with seq := s.cur.seq + 1 } }) := by
  refine congrArg finish ((State.transfer_goes hv ht _).trans ?_)
  simp only [hc, Team.exitLanes_of_none h, Bool.false_eq_true, if_false]
  rfl

end

/-- EXIT goes on at the first entry with lanes left, or ends the team (R113). -/
theorem exitLanes : Claims.ExitLanes := by
  intro s g hv ht hc left
  constructor
  · intro l e rest hstack hl he
    have hpop := popLive_without (rest := rest) hl he
    rw [← hstack] at hpop
    refine ⟨_, exit_of_live hv ht hc hpop, rfl, rfl, rfl, rfl, rfl, rfl, rfl, State.sameBytes_of rfl rfl, rfl, rfl, rfl,
      fun r L hL => ?_⟩
    have hreg := s.cur.vreg_untint s.cur.mask r hL
    exact ⟨(congrArg VCell.val hreg :), (congrArg VCell.tint hreg :)⟩
  · intro hl
    exact ⟨_, exit_of_none hv ht hc (popLive_without_none hl), rfl, rfl, rfl, rfl, rfl, rfl, State.sameBytes_of rfl rfl⟩

/-- Settles O14: BRD by the emptiness of its two lane sets, JOIN by the stack's top, EXIT by what popping the stack finds. -/
theorem maskAndExit : Obligations.MaskAndExit := ⟨maskStack, exitLanes⟩

end Machine

end Sys2Proof

/-! ## The last PARK of a group whose save area fails (O38) -/

namespace Sys2Proof.Machine

/-! ### The kill of a group (R260, R275) -/

@[simp] theorem State.placeWrite_cur (s : State) (p : Place) (bs : List Byte) : (s.placeWrite p bs).cur = s.cur := by
  cases p <;> rfl
@[simp] theorem State.noWaiter_cur (s : State) (o : ObjLoc) : (s.noWaiter o).cur = s.cur := by
  unfold State.noWaiter
  dsimp only
  split
  · exact s.placeWrite_cur _ _
  · rfl
@[simp] theorem State.leaveObjs_cur (s : State) (os : List ObjLoc) : (s.leaveObjs os).cur = s.cur := by
  unfold State.leaveObjs
  induction os generalizing s with
  | nil => rfl
  | cons o os ih => rw [List.foldl_cons, ih, State.noWaiter_cur]

/-- The kill of a live group retires its team in focus (R89, R275). -/
theorem State.killGroup_cur_state {s : State} {x : Group} (hx : s.group? s.cur.id.gid = some x) (hlive : x.state.live = true)
    (cause : Nat) : (s.killGroup s.cur.id.gid cause).cur.state = .retired := by
  simp [State.killGroup, hx, hlive, Team.kill]
/-- A failed access of the device to the save area of a live group retires its team in focus (R275). -/
theorem State.killSave_cur_state {s : State} {x : Group} (hx : s.group? s.cur.id.gid = some x) (hlive : x.state.live = true)
    (f : XFail) (va : Nat) : (s.killSave s.cur.id.gid f va).cur.state = .retired := by
  simp only [State.killSave, hx, if_pos hlive]
  exact State.killGroup_cur_state (s := s.post _) hx hlive f.cause

/-! ### PARK (R284) -/

/-- A team as its PARK leaves it. -/
def Team.save (t : Team) : Team := { t with state := .saved, inSet := false, clause := none, seq := t.seq + 1 }
/-- A PARK that acts saves its team and then tries to complete Saving. -/
theorem park_of_goes {s : State} {g : TeamGuard} (hg : s.cur.goes g) (hmode : s.cur.mode = .system)
    (hcause : parkCause (fcCause s.cur.fr.cause) = true) (htint : s.tintAny = false) :
    exec (.park g) s = .next ((s.modCur Team.save).trySaved s.cur.id.gid) := by
  obtain ⟨hv, ht, -⟩ := hg
  show execPark g s = _
  simp only [execPark, State.syncOp, State.syncTrap, hv, ht, hmode, hcause, htint]
  rfl

/-- The save area of a group stays where it is when a team of it is saved. -/
theorem State.saveArea_save (s : State) (x : Group) : (s.modCur Team.save).saveArea x = s.saveArea x := by
  have hsize : (s.modCur Team.save).spaceSize x = s.spaceSize x := rfl
  unfold State.saveArea
  rw [hsize]
  cases x.saveAddr with
  | none => rfl
  | some a => by_cases h : s.cur.id.gid = x.gid <;> simp [State.teamsOf, State.teams, Team.save, h]
theorem State.saveFail_save (s : State) (x : Group) (need : Need) :
    (s.modCur Team.save).saveFail x need = s.saveFail x need := by
  unfold State.saveFail
  rw [s.saveArea_save x]
  rfl

/-- A team that has parked, or has retired, is not waited for at the end of Saving. -/
def Team.done (t : Team) : Bool := t.state == .saved || t.state == .retired
/-- Nothing of a group's is still to come before its record is written: no redirected value and no store into its save area (R267, log 100). -/
def State.saveIdle (s : State) (x : Group) (gid : Nat) : Prop :=
  ((s.loads.any fun ld => ld.team.gid == gid && ld.redirected) || s.combs.any fun c => c.team.gid == gid && c.redirected) = false
    ∧ ((s.saveArea x).map (s.savesDue x)).getD false = false
/-- Where every team of a saving group is done and nothing is to come, a save area that fails the device's access kills the group (R267, R275). -/
theorem State.trySaved_of_saveFail {s : State} {gid va : Nat} {x : Group} {f : XFail} (hx : s.group? gid = some x)
    (hsaving : x.state = .saving) (hdone : (s.teamsOf gid).all Team.done = true) (hidle : s.saveIdle x gid)
    (hfail : s.saveFail x needW = some (f, va)) : s.trySaved gid = s.killSave gid f va := by
  obtain ⟨hvalues, hstores⟩ := hidle
  unfold State.trySaved
  simp only [hx]
  rw [if_pos ⟨hsaving, hdone, hvalues, hstores⟩]
  simp only [hfail]

/-- The last PARK of a group whose save area fails the device's access kills the group: its team retires instead of being saved (R275, R284). -/
theorem park_retires_of_saveFail {s : State} {g : TeamGuard} {x : Group} {f : XFail} {va : Nat} (hg : s.cur.goes g)
    (hmode : s.cur.mode = .system) (hcause : parkCause (fcCause s.cur.fr.cause) = true) (htint : s.tintAny = false)
    (hx : s.group? s.cur.id.gid = some x) (hsaving : x.state = .saving)
    (hothers : ∀ u ∈ s.others, u.id.gid = s.cur.id.gid → u.done = true) (hidle : s.saveIdle x s.cur.id.gid)
    (hfail : s.saveFail x needW = some (f, va)) : Completes (.park g) s fun t => t.cur.state = .retired := by
  refine ⟨_, park_of_goes hg hmode hcause htint, ?_⟩
  have hdone : ((s.modCur Team.save).teamsOf s.cur.id.gid).all Team.done = true := by
    rw [List.all_eq_true]
    intro u hu
    obtain ⟨hmem, hgid⟩ := List.mem_filter.mp hu
    rcases List.mem_cons.mp hmem with rfl | hmem
    · rfl
    · exact hothers u hmem (beq_iff_eq.mp hgid)
  have hidle' : (s.modCur Team.save).saveIdle x s.cur.id.gid := by
    obtain ⟨hvalues, hstores⟩ := hidle
    exact ⟨hvalues, by rw [s.saveArea_save x]; exact hstores⟩
  rw [State.trySaved_of_saveFail (s := s.modCur Team.save) hx hsaving hdone hidle' (by rw [s.saveFail_save]; exact hfail)]
  exact State.killSave_cur_state (s := s.modCur Team.save) hx (by rw [hsaving]; rfl) f va

/-! ### A group whose save area is not mapped -/

/-- A context whose page tables lie in memory that reads 0: no address of it translates (R316). -/
def unmappedCtx : Ctx :=
  { slot := 0, id := 1, state := .active, root := 0x100000, table := 0, tableLen := 0, errAddr := 0x20000, save := 0x1000000,
    saveSize := 0x1000000, const := 0x40000, constSize := 0x10000, setup := 0x50000, setupSize := 0x10000, handler := 0x4001000,
    queues := [], nextKernel := 2, maps := 0 }
/-- A kernel of one group of one team with 32 lanes and 16 registers. -/
def soloKernel : Kernel :=
  { kid := 1, ctx := 0, id := 1, state := .running, raw := none, args := [], prio := 0, code := 0, cause := 0, retries := 0,
    made := 1, retired := 0, cmd := none,
    lpb := { code := 0x4000000, gx := 1, gy := 1, gz := 1, argq := 0, mig := true, retry := 0, idem := false, prio := 0,
             ftz := false, accs := 0, regs := 16, teams := 1, lanes := 32, d := 0, q := 0, k := 0, wbuf := 0, tlAddr := 0,
             tlVal := 0, stAddr := 0 } }
/-- Its group in Saving, after a park. -/
def savingGroup : Group :=
  { Group.queued 2 1 0 0 0 with state := .saving, saveAddr := some 0x1000000, constAddr := some 0x40000, cause := .park }
/-- Its team in the system handler under the park's cause 0x38. -/
def parkingTeam : Team :=
  { Team.create { gid := 2, idx := 0 } 32 16 0 1 false 0 0x4001000 0 with
    state := .active, inSet := true, mode := .system, fr := { FaultRegs.zero with cause := 0x38 } }
/-- The only team of the group is about to execute PARK, and the device cannot write the group's record. -/
def parkUnmapped : State :=
  { State.reset with
    stage := 7, nextKey := 3, cur := parkingTeam, groups := [savingGroup], kernels := [soloKernel], ctxs := [unmappedCtx] }
/-- The device's write at the base of the save area finds no translation (R320). -/
theorem parkUnmapped_saveFail :
    parkUnmapped.saveFail savingGroup needW = some ({ cause := cPageFault, why := 1 }, 0x1000000) := by decide
theorem parkUnmapped_goes : parkUnmapped.cur.goes ⟨false, none⟩ := ⟨rfl, rfl, by decide +kernel⟩
theorem parkUnmapped_untinted : parkUnmapped.tintAny = false := by decide +kernel
theorem parkUnmapped_retires : Completes (.park ⟨false, none⟩) parkUnmapped fun t => t.cur.state = .retired :=
  park_retires_of_saveFail parkUnmapped_goes rfl (by decide) parkUnmapped_untinted rfl rfl (fun _ hu => nomatch hu) ⟨rfl, rfl⟩
    parkUnmapped_saveFail

/-- Refutes O38: its first clause on PARK says that the team is saved whatever the save area does, but the last PARK of `parkUnmapped`'s group, whose record cannot be written, kills the group and retires the team (R275). -/
theorem not_systemTransfers : ¬ Obligations.SystemTransfers := by
  unfold Obligations.SystemTransfers
  intro h
  obtain ⟨-, -, hpark, -, -⟩ := h parkUnmapped ⟨false, none⟩ parkUnmapped_goes
  obtain ⟨-, hsaved, -⟩ := hpark
  obtain ⟨t, ht, hstate, -⟩ := hsaved rfl (by decide) parkUnmapped_untinted
  obtain ⟨u, hu, hretired⟩ := parkUnmapped_retires
  cases ht.symm.trans hu
  exact absurd (hstate.symm.trans hretired) (by decide)

end Sys2Proof.Machine
